-- ==== Sys2Proof/Word.lean ====
section
/-! DEFINITION. The word types of the Qorux QXM-2768 and the keyed tables that the state is made of. Bit 0 is the
least significant bit and a range [h:l] includes both ends (R2). -/

namespace Sys2Proof

/-- A byte. -/
abbrev Byte := BitVec 8

/-- An S register, a counter, a CSR: 64 bits (R19). -/
abbrev Word := BitVec 64

/-- A V register, a queue entry or a 128-byte line: 1024 bits (R19, R374). -/
abbrev VWord := BitVec 1024

/-- A P register, or a mask with one bit for each byte of a V register: 128 bits (R19). -/
abbrev PWord := BitVec 128

/-- A bundle: 512 bits (R85). -/
abbrev Bundle := BitVec 512

/-- The lanes of a wave: one bit for each thread. -/
abbrev Lanes := BitVec 32

/-- Bits [lo + n - 1 : lo] of a word, as a number. -/
def fld {w : Nat} (x : BitVec w) (lo n : Nat) : Nat := (x.toNat >>> lo) % 2 ^ n

/-- Bits [lo + n - 1 : lo] of a word, as a word of n bits. -/
def bits {w : Nat} (x : BitVec w) (lo n : Nat) : BitVec n := BitVec.ofNat n (x.toNat >>> lo)

/-- Bit k of a word. -/
def bit {w : Nat} (x : BitVec w) (k : Nat) : Bool := x.toNat.testBit k

/-- A bit as a number. -/
def b2n (b : Bool) : Nat := if b then 1 else 0

/-- A table keyed by κ: a key that is not listed holds a default that the reader names. -/
abbrev Table (κ α : Type) := List (κ × α)

/-- The value a table holds for a key, or the default. -/
def Table.get {κ α : Type} [DecidableEq κ] (d : α) : Table κ α → κ → α
  | [], _ => d
  | (k', v) :: t, k => if k' = k then v else Table.get d t k

/-- The value a table lists for a key. -/
def Table.find {κ α : Type} [DecidableEq κ] : Table κ α → κ → Option α
  | [], _ => none
  | (k', v) :: t, k => if k' = k then some v else Table.find t k

/-- The table with the key holding the value: replaced in place, else listed last. -/
def Table.put {κ α : Type} [DecidableEq κ] : Table κ α → κ → α → Table κ α
  | [], k, v => [(k, v)]
  | (k', v') :: t, k, v => if k' = k then (k, v) :: t else (k', v') :: Table.put t k v

/-- The table without the key. -/
def Table.drop {κ α : Type} [DecidableEq κ] (t : Table κ α) (k : κ) : Table κ α :=
  List.filter (fun e => decide (e.1 ≠ k)) t

/-- A file of registers numbered by words of n bits. -/
abbrev File (n : Nat) (α : Type) := Vector α (2 ^ n)

/-- Register r of a file. -/
def File.get {n : Nat} {α : Type} (f : File n α) (r : BitVec n) : α := Vector.get f ⟨r.toNat, r.isLt⟩

/-- The file with register r holding a value. -/
def File.set {n : Nat} {α : Type} (f : File n α) (r : BitVec n) (v : α) : File n α := Vector.set f r.toNat v r.isLt

/-- A file whose registers all hold one value. -/
def File.fill (n : Nat) {α : Type} (v : α) : File n α := Vector.replicate (2 ^ n) v

end Sys2Proof
end

