-- ==== Sys2Proof/Syntax.lean ====
section
/-! DEFINITION. The syntax of the part: the operand fields of the slot words (chapter 03) and `Instr`, with one
constructor for each row of the opcode table: the slot operations, and the hardware's own events (file 95). -/

namespace Sys2Proof

/-- A core type (R42 CTYPE). -/
inductive CoreType where
  | tile | shader | super
  deriving DecidableEq, Repr

/-- A core: tile 32 × die + index, shader 64 × die + index, supervisor 16 × die + index (R43). -/
inductive CoreId where
  | tile (n : Nat)
  | shader (n : Nat)
  | super (n : Nat)
  deriving DecidableEq, Repr

/-- A stream of bundles: a tile context, a wave of a shader core, a supervisor core (R19). -/
inductive StreamId where
  | tile (core : Nat) (ctx : Bool)
  | wave (core slot : Nat)
  | super (core : Nat)
  deriving DecidableEq, Repr

/-- The core of a stream. -/
def StreamId.core : StreamId → CoreId
  | .tile c _ => .tile c
  | .wave c _ => .shader c
  | .super c => .super c

/-- The core type of a stream. -/
def StreamId.ctype : StreamId → CoreType
  | .tile _ _ => .tile
  | .wave _ _ => .shader
  | .super _ => .super

/-- The slots of a bundle, in the order of R86. -/
inductive Slot where
  | s | va | vb | m | l | w | c | y
  deriving DecidableEq, Repr

/-- The slot code of R86. -/
def Slot.code : Slot → Nat
  | .s => 0 | .va => 1 | .vb => 2 | .m => 3 | .l => 4 | .w => 5 | .c => 6 | .y => 7

/-- A source field, all 8 bits of it (R91). -/
inductive Src where
  | reg (r : BitVec 6)
  | latch (slot : BitVec 3) (depth : BitVec 2) (low : Bool)
  | queue (high q : BitVec 3)
  | special (code : BitVec 6)
  deriving DecidableEq, Repr

/-- The special source codes of R92. -/
def Src.imm : Src := .special 0
def Src.zero : Src := .special 1
def Src.ones : Src := .special 2
def Src.idx : Src := .special 3
def Src.one : Src := .special 4

/-- A destination field (R95). -/
structure Dst where
  nw : Bool
  qo : Bool
  reg : BitVec 6
  deriving DecidableEq, Repr

/-- A predicate field (R96). -/
structure Pred where
  neg : Bool
  p : BitVec 4
  deriving DecidableEq, Repr

/-- The element types of R51 and R53, in the order of their codes 0x0 to 0xC. -/
inductive ElTy where
  | i8 | n8 | i16 | n16 | i32 | n32 | i64 | n64 | f16 | bf16 | f32 | e4m3 | e5m2
  deriving DecidableEq, Repr

/-- The orders of R102. -/
inductive MemOrder where
  | rlx | acq | rel | ar | sc
  deriving DecidableEq, Repr

/-- The fields of an S word other than the opcode (R97). -/
structure SOp where
  pred : Pred
  dst : Dst
  a : Src
  b : Src
  imm : BitVec 27
  deriving DecidableEq, Repr

/-- The fields of a VA or VB word other than the opcode (R98). -/
structure VOp where
  ty : ElTy
  width : BitVec 2
  off : BitVec 2
  pred : Pred
  dst : Dst
  a : Src
  b : Src
  c : Src
  rnd : BitVec 3
  sat : Bool
  imm : BitVec 7
  deriving DecidableEq, Repr

/-- The fields of an L word other than the opcode (R100). -/
structure LOp where
  ty : ElTy
  width : BitVec 2
  scope : BitVec 3
  order : MemOrder
  pred : Pred
  nw : Bool
  vfile : Bool
  reg : BitVec 6
  base : Src
  index : Src
  imm : BitVec 15
  deriving DecidableEq, Repr

/-- The fields of a W word other than the opcode (R101). -/
structure WOp where
  ty : ElTy
  width : BitVec 2
  scope : BitVec 3
  order : MemOrder
  pred : Pred
  data : Src
  base : Src
  index : Src
  imm : BitVec 15
  deriving DecidableEq, Repr

/-- The fields of an M word other than the opcode (R104). -/
structure MOp where
  fmtA : BitVec 4
  fmtB : BitVec 4
  p7 : Bool
  cls : Bool
  q : Bool
  acc : Bool
  asel : BitVec 6
  bsel : BitVec 6
  bbyte : BitVec 3
  scl : Bool
  tile : BitVec 2
  low : BitVec 28
  deriving DecidableEq, Repr

/-- The fields of a C word other than the opcode (R105, R258). -/
structure COp where
  queue : BitVec 4
  token : BitVec 8
  qos : BitVec 4
  ulic : Bool
  rel : Bool
  flags : BitVec 6
  low : BitVec 32
  deriving DecidableEq, Repr

/-- The fields of a Y word other than the opcode (R106). -/
structure YOp where
  scope : BitVec 3
  order : MemOrder
  id : BitVec 8
  imm : BitVec 12
  deriving DecidableEq, Repr

/-- A unit of a launch: a group, a gang, by the queue and the number of its record (R430) and its index (R37, R38). -/
structure UnitId where
  queue : Nat
  record : Nat
  unit : Nat
  deriving DecidableEq, Repr

/-- Who asks for a preemption (R365). -/
inductive Requester where
  | os | budget | reclaim | debugger
  deriving DecidableEq, Repr

/-- A cache whose lines carry leases (R379): a core's L1, a cluster cache. -/
inductive CachePlace where
  | l1 (c : CoreId)
  | cluster (n : Nat)
  deriving DecidableEq, Repr

/-- What an access asks of a translation (R404). -/
inductive Access where
  | read | write | exec
  deriving DecidableEq, Repr

/-- A register or control word that has no event of its own (R4, R448): a CSR of a stream, a control word by its byte
offset in the control page. -/
inductive RegTarget where
  | csr (st : StreamId) (n : BitVec 12)
  | control (off : Nat)
  deriving DecidableEq, Repr

/-- What another member of a collective brings (R283, R285): its rank, its parameters and its send buffer. -/
structure CollMember where
  rank : Nat
  count : Nat
  size : Nat
  root : Nat
  kindTypeOp : BitVec 10
  send : List Byte
  failed : Bool
  deriving DecidableEq, Repr

/-- A remote launch as it arrives from a peer (R290): the peer's module, the issuer's tenant namespace and serial number, the local queue,
where the payload goes, the payload and the 256-byte record. -/
structure RemoteLaunch where
  peer : Nat
  space : BitVec 16
  serial : Nat
  queue : Nat
  rpay : BitVec 48
  payload : List Byte
  record : List Byte
  deriving DecidableEq, Repr

/-- A blob resource (R452): its id, its context, its address and size, whether it is mapped into shmid 1. -/
structure Blob where
  id : Nat
  ctx : Nat
  addr : BitVec 48
  size : Nat
  mapped : Bool
  deriving DecidableEq, Repr

/-- What an event is about: the stream, core, line, record … that the event's row of the opcode table speaks of. An event
takes its subject from the state (`State.subject`), where the step that runs it has placed it. Each event's meaning
names the form that it reads; with any other form it finds nothing to do. -/
inductive Subject where
  | none
  | num (n : Nat)
  | num2 (a b : Nat)
  | num3 (a b c : Nat)
  | numWord (n : Nat) (v : Word)
  | numFlag (a b : Nat) (f : Bool)
  | die (d : Bool)
  | dieWord (d : Bool) (v : Word)
  | core (c : CoreId)
  | kill (c : CoreId) (granule : Nat)
  | stream (st : StreamId)
  | streamNum (st : StreamId) (n : Nat)
  | streamWord (st : StreamId) (v : Word)
  | streamFlagWord (st : StreamId) (f : Bool) (v : Word)
  | unit (u : UnitId)
  | unitDie (u : UnitId) (d : Bool)
  | unitFlag (u : UnitId) (f : Bool)
  | collective (st : StreamId) (q : Nat) (members : List CollMember)
  | remoteEnd (serial : Nat) (status : Word)
  | remote (l : RemoteLaunch)
  | sash (key : Nat)
  | counter (st : StreamId) (n : Nat) (v : Option Word)
  | register (r : RegTarget) (v : Word)
  | error (st : StreamId) (kind : BitVec 8) (place : Word)
  | request (st : StreamId) (by_ : Requester)
  | lease (p : CachePlace) (line : Nat)
  | range (entry : BitVec 4) (hi : Bool) (v : Word)
  | forward (owner requester line : Nat) (own : Bool)
  | grant (agent line count : Nat)
  | update (line writer : Nat)
  | walk (st : StreamId) (va : BitVec 48) (acc : Access)
  | walkEnd (tlb : Nat) (asid : BitVec 16) (page : BitVec 36)
  | bytes (port : Bool) (pa : Nat) (data : List Byte)
  | peerBytes (pa : Nat) (data : List Byte)
  | append (port : Bool) (queue : Nat) (blob : Blob) (off : Nat)
  | blob (port : Bool) (blob : Blob) (off : Nat) (data : Option (List Byte)) (n : Nat)
  | host (port : Bool) (a b c d : Nat)
  | hostWord (port : Bool) (n : Nat) (v : Word)
  | submit (port : Bool) (ctx fence : Nat) (words : List (BitVec 32))
  | flit (port : Nat) (data : List Byte)
  deriving DecidableEq, Repr

/-- The operations of the slots, then the events of the part: one constructor for each row of the opcode table. -/
inductive Instr where
  /-- No operation (R128). -/
  | nop
  /-- Two-operand integer operation (R129). -/
  | add (o : SOp)
  /-- Two-operand integer operation (R129). -/
  | sub (o : SOp)
  /-- Two-operand integer operation (R129). -/
  | mul (o : SOp)
  /-- Two-operand integer operation (R129). -/
  | mulh (o : SOp)
  /-- Two-operand integer operation (R129). -/
  | mulhn (o : SOp)
  /-- Two-operand integer operation (R129). -/
  | div (o : SOp)
  /-- Two-operand integer operation (R129). -/
  | divn (o : SOp)
  /-- Two-operand integer operation (R129). -/
  | rem (o : SOp)
  /-- Two-operand integer operation (R129). -/
  | remn (o : SOp)
  /-- Two-operand integer operation (R129). -/
  | and (o : SOp)
  /-- Two-operand integer operation (R129). -/
  | or (o : SOp)
  /-- Two-operand integer operation (R129). -/
  | xor (o : SOp)
  /-- Two-operand integer operation (R129). -/
  | andn (o : SOp)
  /-- Two-operand integer operation (R129). -/
  | shl (o : SOp)
  /-- Two-operand integer operation (R129). -/
  | shr (o : SOp)
  /-- Two-operand integer operation (R129). -/
  | sar (o : SOp)
  /-- Two-operand integer operation (R129). -/
  | rol (o : SOp)
  /-- Two-operand integer operation (R129). -/
  | min (o : SOp)
  /-- Two-operand integer operation (R129). -/
  | minn (o : SOp)
  /-- Two-operand integer operation (R129). -/
  | max (o : SOp)
  /-- Two-operand integer operation (R129). -/
  | maxn (o : SOp)
  /-- Bit count (R131). -/
  | clz (o : SOp)
  /-- Bit count (R131). -/
  | ctz (o : SOp)
  /-- Bit count (R131). -/
  | popc (o : SOp)
  /-- Extension from n bits (R131). -/
  | sext (o : SOp)
  /-- Extension from n bits (R131). -/
  | zext (o : SOp)
  /-- Bit-field extract (R131). -/
  | bfx (o : SOp)
  /-- Bit-field insert (R131). -/
  | bfi (o : SOp)
  /-- Select by a predicate (R131). -/
  | sel (o : SOp)
  /-- Load immediate (R131). -/
  | li (o : SOp)
  /-- Shift in 27 more bits (R131). -/
  | lih (o : SOp)
  /-- Integer compare (R132). -/
  | cmp (o : SOp)
  /-- Predicate logic (R132). -/
  | plog (o : SOp)
  /-- Predicate copy (R132). -/
  | pmov (o : SOp)
  /-- Half of a P register to S (R132). -/
  | pmovHToS (o : SOp)
  /-- S to half of a P register (R132). -/
  | pmovHFromS (o : SOp)
  /-- Broadcast of bit 0 (R132). -/
  | pmovB (o : SOp)
  /-- Scalar floating point (R134). -/
  | fadd (o : SOp)
  /-- Scalar floating point (R134). -/
  | fsub (o : SOp)
  /-- Scalar floating point (R134). -/
  | fmul (o : SOp)
  /-- Scalar floating point (R134). -/
  | fdiv (o : SOp)
  /-- Scalar square root (R134). -/
  | fsqrt (o : SOp)
  /-- Scalar fused multiply-add (R134). -/
  | ffma (o : SOp)
  /-- Floating-point compare (R135). -/
  | fcmp (o : SOp)
  /-- Scalar conversion (R134, R135). -/
  | fcvt (o : SOp)
  /-- Scalar minimum or maximum (R135). -/
  | fminmax (o : SOp)
  /-- Uniform branch (R137). -/
  | bru (o : SOp)
  /-- Jump (R136). -/
  | jmp (o : SOp)
  /-- Call (R136). -/
  | call (o : SOp)
  /-- Return (R136). -/
  | ret (o : SOp)
  /-- Counted loop (R136). -/
  | loop (o : SOp)
  /-- Branch on a nonzero value (R136). -/
  | brk (o : SOp)
  /-- Per-lane branch (R139). -/
  | brl (o : SOp)
  /-- Per-lane jump (R139). -/
  | jmpl (o : SOp)
  /-- Per-lane call (R140). -/
  | calll (o : SOp)
  /-- Per-lane return (R140). -/
  | retl (o : SOp)
  /-- Prefer the lowest path (R142). -/
  | join (o : SOp)
  /-- Rank this path last (R142). -/
  | yieldp (o : SOp)
  /-- Read a CSR (R143). -/
  | csrr (o : SOp)
  /-- Swap a CSR (R143, R144). -/
  | csrw (o : SOp)
  /-- Set bits of a CSR (R143, R144). -/
  | csrs (o : SOp)
  /-- Clear bits of a CSR (R143, R144). -/
  | csrc (o : SOp)
  /-- System call (R146). -/
  | sysc (o : SOp)
  /-- Software trap (R147). -/
  | trap (o : SOp)
  /-- Return from a service routine (R148). -/
  | eret (o : SOp)
  /-- Return from a ULI handler (R148). -/
  | uret (o : SOp)
  /-- Wait for an event (R149). -/
  | wfi (o : SOp)
  /-- End the stream (R150). -/
  | halt (o : SOp)
  /-- Breakpoint (R147). -/
  | brkpt (o : SOp)
  /-- Drop TLB entries (R151). -/
  | tlbi (o : SOp)
  /-- Cache maintenance (R152). -/
  | cmaint (o : SOp)
  /-- Write a staging register (R153). -/
  | mts (o : SOp)
  /-- Read a staging register (R153). -/
  | mfs (o : SOp)
  /-- Push onto an outbound queue (R154). -/
  | mtq (o : SOp)
  /-- Add to a counter (R156). -/
  | evadd (o : SOp)
  /-- Read a counter (R156). -/
  | evld (o : SOp)
  /-- Arm a counter (R160). -/
  | evarm (o : SOp)
  /-- Wait for a counter (R159). -/
  | evwait (o : SOp)
  /-- Address arithmetic (R161). -/
  | lea (o : SOp)
  /-- PC plus offset (R161). -/
  | addpc (o : SOp)
  /-- Work-identifier field (R161). -/
  | wid (o : SOp)
  /-- No operation (R88). -/
  | vnop
  /-- Vector integer (R169). -/
  | vadd (o : VOp)
  /-- Vector integer (R169). -/
  | vsub (o : VOp)
  /-- Vector integer (R169). -/
  | vmul (o : VOp)
  /-- Vector integer (R169). -/
  | vmulh (o : VOp)
  /-- Vector multiply-add (R169). -/
  | vmad (o : VOp)
  /-- Vector sign operation (R169, R170). -/
  | vabs (o : VOp)
  /-- Vector sign operation (R169, R170). -/
  | vneg (o : VOp)
  /-- Vector integer (R169). -/
  | vmin (o : VOp)
  /-- Vector integer (R169). -/
  | vmax (o : VOp)
  /-- Vector integer (R169). -/
  | vadds (o : VOp)
  /-- Vector integer (R169). -/
  | vsubs (o : VOp)
  /-- Vector integer (R169). -/
  | vavg (o : VOp)
  /-- Absolute difference plus C (R169). -/
  | vsad (o : VOp)
  /-- Vector logic (R171). -/
  | vand (o : VOp)
  /-- Vector logic (R171). -/
  | vor (o : VOp)
  /-- Vector logic (R171). -/
  | vxor (o : VOp)
  /-- Vector logic (R171). -/
  | vandn (o : VOp)
  /-- Vector logic (R171). -/
  | vshl (o : VOp)
  /-- Vector logic (R171). -/
  | vshr (o : VOp)
  /-- Vector logic (R171). -/
  | vsar (o : VOp)
  /-- Vector bit count (R171). -/
  | vclz (o : VOp)
  /-- Vector bit count (R171). -/
  | vpopc (o : VOp)
  /-- Vector bit field (R171, R172). -/
  | vbfx (o : VOp)
  /-- Vector bit field (R171, R172). -/
  | vbfi (o : VOp)
  /-- Vector bit field (R171, R172). -/
  | vbsel (o : VOp)
  /-- Vector floating point (R173). -/
  | vfadd (o : VOp)
  /-- Vector floating point (R173). -/
  | vfsub (o : VOp)
  /-- Vector floating point (R173). -/
  | vfmul (o : VOp)
  /-- Vector fused multiply-add (R173). -/
  | vffma (o : VOp)
  /-- Vector minimum or maximum (R173). -/
  | vfmin (o : VOp)
  /-- Vector minimum or maximum (R173). -/
  | vfmax (o : VOp)
  /-- Special function (R174, R175). -/
  | vrcp (o : VOp)
  /-- Special function (R174, R175). -/
  | vrsq (o : VOp)
  /-- Special function (R174, R175). -/
  | vsqrt (o : VOp)
  /-- Special function (R174, R175). -/
  | vexp2 (o : VOp)
  /-- Special function (R174, R175). -/
  | vlog2 (o : VOp)
  /-- Special function (R174, R175). -/
  | vsin (o : VOp)
  /-- Special function (R174, R175). -/
  | vcos (o : VOp)
  /-- Special function (R174, R175). -/
  | vtanh (o : VOp)
  /-- Conversion by parts (R176). -/
  | vcvt (o : VOp)
  /-- Quantise a block (R177). -/
  | vquant (o : VOp)
  /-- Dequantise a block (R178). -/
  | vdeq (o : VOp)
  /-- Element compare (R180). -/
  | vcmp (o : VOp)
  /-- Select by predicate (R181). -/
  | vsel (o : VOp)
  /-- Byte-wise predicate logic (R182). -/
  | vplog (o : VOp)
  /-- Predicate inspection (R183). -/
  | vpcnt (o : VOp)
  /-- Predicate inspection (R183). -/
  | vpfirst (o : VOp)
  /-- Any or all of a predicate (R183). -/
  | vpany (o : VOp)
  /-- Nibble table (R184). -/
  | vtbl (o : VOp)
  /-- Byte permute (R185). -/
  | vperm (o : VOp)
  /-- Byte slide (R186). -/
  | vslide (o : VOp)
  /-- Shuffle (R187). -/
  | vshfl (o : VOp)
  /-- One element (R188). -/
  | vbcast (o : VOp)
  /-- One element (R188). -/
  | vext (o : VOp)
  /-- One element (R188). -/
  | vins (o : VOp)
  /-- Interleave or separate (R189). -/
  | vzip (o : VOp)
  /-- Interleave or separate (R189). -/
  | vunzip (o : VOp)
  /-- Reduction (R191). -/
  | vredadd (o : VOp)
  /-- Reduction (R191). -/
  | vredmin (o : VOp)
  /-- Reduction (R191). -/
  | vredmax (o : VOp)
  /-- Logic reduction (R191). -/
  | vredlog (o : VOp)
  /-- Running combination (R193). -/
  | vscan (o : VOp)
  /-- Pairwise tree sum (R192). -/
  | vfredadd (o : VOp)
  /-- Copy elements (R194). -/
  | vmov (o : VOp)
  /-- Broadcast an S value (R194). -/
  | vmovS (o : VOp)
  /-- Load immediate (R194). -/
  | vli (o : VOp)
  /-- Lane or WID field (R194). -/
  | vlane (o : VOp)
  /-- No operation (R88). -/
  | lnop
  /-- Load (R202). -/
  | ld (o : LOp)
  /-- Load (R202). -/
  | vld (o : LOp)
  /-- Load (R202). -/
  | vlds (o : LOp)
  /-- Load (R202). -/
  | vldg (o : LOp)
  /-- Typed-buffer or group-store load (R209). -/
  | tld (o : LOp)
  /-- Streaming load (R206). -/
  | gld (o : LOp)
  /-- Load exclusive (R216). -/
  | ldx (o : LOp)
  /-- Prefetch (R207). -/
  | lpf (o : LOp)
  /-- Atomic (R210, R211). -/
  | amadd (o : LOp)
  /-- Atomic (R210, R211). -/
  | ammin (o : LOp)
  /-- Atomic (R210, R211). -/
  | ammax (o : LOp)
  /-- Atomic (R210, R211). -/
  | amand (o : LOp)
  /-- Atomic (R210, R211). -/
  | amor (o : LOp)
  /-- Atomic (R210, R211). -/
  | amxor (o : LOp)
  /-- Atomic (R210, R211). -/
  | amswp (o : LOp)
  /-- Atomic (R210, R211). -/
  | amcas (o : LOp)
  /-- Atomic (R210, R211). -/
  | amfadd (o : LOp)
  /-- Atomic (R210, R211). -/
  | aminc (o : LOp)
  /-- No operation (R88). -/
  | wnop
  /-- Store (R208). -/
  | st (o : WOp)
  /-- Store (R208). -/
  | vst (o : WOp)
  /-- Store (R208). -/
  | vsts (o : WOp)
  /-- Store (R208). -/
  | vsct (o : WOp)
  /-- Typed-buffer or group-store store (R209). -/
  | tst (o : WOp)
  /-- Streaming store (R206). -/
  | gst (o : WOp)
  /-- Store conditional (R217). -/
  | stx (o : WOp)
  /-- Commutative add (R219). -/
  | cadd (o : WOp)
  /-- Write back one line (R214). -/
  | cwb (o : WOp)
  /-- No operation (R88). -/
  | mnop
  /-- Matrix multiply (R237). -/
  | mma (o : MOp)
  /-- Sparse matrix multiply (R247). -/
  | mmas (o : MOp)
  /-- Clear a tile (R249). -/
  | mzero (o : MOp)
  /-- Drain a tile (R250). -/
  | mdrain (o : MOp)
  /-- Save the tags (R252). -/
  | mlaccSave (o : MOp)
  /-- Load the tags (R252). -/
  | mlaccLoad (o : MOp)
  /-- Wave multiply-accumulate (R253). -/
  | wvmac (o : MOp)
  /-- No operation (R258). -/
  | cnop
  /-- Row copy (R274). -/
  | copy (o : COp)
  /-- Gather or scatter (R278). -/
  | gath (o : COp)
  /-- Gather or scatter (R278). -/
  | scat (o : COp)
  /-- Casement broadcast (R276). -/
  | qbcast (o : COp)
  /-- Prefetch a range (R280). -/
  | pfb (o : COp)
  /-- Remove pins (R281). -/
  | drop (o : COp)
  /-- Collective (R284). -/
  | coll (o : COp)
  /-- Expert sort (R287). -/
  | xsort (o : COp)
  /-- Move tier objects (R282). -/
  | tmoveMove (o : COp)
  /-- Evict tier objects (R282). -/
  | tmoveEvict (o : COp)
  /-- Append a record (R289). -/
  | tqpush (o : COp)
  /-- Remote launch (R290). -/
  | rlaunch (o : COp)
  /-- Ray traversal (R291). -/
  | rtrace (o : COp)
  /-- Join of queues (R266). -/
  | qfence (o : COp)
  /-- Create a sash (R309). -/
  | sopen (o : COp)
  /-- Create an EVICTED sash (R309). -/
  | sopenEvicted (o : COp)
  /-- Attach a sash (R310). -/
  | satt (o : COp)
  /-- Release a sash (R314). -/
  | srel (o : COp)
  /-- Evict a sash (R315). -/
  | sevict (o : COp)
  /-- Drop a sash (R315). -/
  | sdrop (o : COp)
  /-- No operation (R220). -/
  | ynop
  /-- Barrier (R222). -/
  | bar (o : YOp)
  /-- Barrier arrival (R222). -/
  | barphArrive (o : YOp)
  /-- Barrier phase wait (R222). -/
  | barphWait (o : YOp)
  /-- Fence (R223). -/
  | fence (o : YOp)
  /-- Wait for a token (R224). -/
  | tkwait (o : YOp)
  /-- Test a token (R225). -/
  | tktest (o : YOp)
  /-- Wait for a flag (R226). -/
  | flagw (o : YOp)
  /-- Set a flag (R227). -/
  | flagset (o : YOp)
  /-- Set STATUS.UIE (R228). -/
  | ulien (o : YOp)
  /-- One tile clock of a tile core (R10). -/
  | mergeStage
  /-- The idle cycles of a header run out (R89). -/
  | idleCountExpiry
  /-- One shader clock of a partition (R14, R49). -/
  | shaderPartitionSelect
  /-- A path waited past FAIRCFG.LIMIT (R16). -/
  | pathWaitLimit
  /-- Results due by now land (R8, R108). -/
  | resultLanding
  /-- Shutter entries due by now are delivered (R355). -/
  | shutterDelivery
  /-- Entries under way reach their inbound queue (R27). -/
  | queueEntryArrival
  /-- Flag sets under way take effect (R227). -/
  | flagSetArrival
  /-- The oldest outstanding load returns (R204). -/
  | loadDataReturn
  /-- The value of an atomic, stx, evadd or evld returns (R212). -/
  | memoryValueReturn
  /-- The oldest write-buffer entry passes on (R208). -/
  | writeBufferDrain
  /-- A bundle with VALID = 0 (R88). -/
  | emptyBundle
  /-- A tlbi completes (R151). -/
  | tlbiCompletion
  /-- A cmaint completes (R152). -/
  | cmaintCompletion
  /-- A delayed trigger action is taken (R160). -/
  | delayedTriggerAction
  /-- The four mma.q issue together (R241). -/
  | cooperativeMmaIssue
  /-- An M operation leaves the array (R231). -/
  | arrayOccupancyEnd
  /-- The drain unit commits (R251). -/
  | drainCommit
  /-- The head command of a queue starts (R260). -/
  | engineCommandStart
  /-- The head command of a queue completes (R264). -/
  | engineCommandComplete
  /-- Every member has arrived (R285). -/
  | collectiveMatch
  /-- The remote task ended (R290). -/
  | rlaunchRemoteEnd
  /-- A peer launches here (R290). -/
  | remoteLaunchReceive
  /-- The base of a sash lands (R308). -/
  | baseLanding
  /-- The directory answers a held sash command (R305). -/
  | sashDirectoryAnswer
  /-- A waiting satt attaches (R313). -/
  | sattAttach
  /-- A release completes (R314). -/
  | srelComplete
  /-- An eviction is acknowledged (R304). -/
  | sashWritebackAck
  /-- A move or restore completes (R304). -/
  | sashRestoreComplete
  /-- A sequencer eviction faults (R318). -/
  | evictionWritebackFault
  /-- The place reports a kill (R383). -/
  | reservationKill
  /-- Old reservations are cleared (R215). -/
  | reservationAgeExpiry
  /-- A write of a value to MODE (R59). -/
  | modeWrite
  /-- A write of a value to FSTAT (R69). -/
  | fstatWrite
  /-- A write of a value to FAIRCFG (R46). -/
  | faircfgWrite
  /-- A write of a value to LSTK (R141). -/
  | lstkWrite
  /-- A write of a value to CURLIM (R257). -/
  | curlimWrite
  /-- A write of a value to CURWIN (R257). -/
  | curwinWrite
  /-- A write of a value to CAUSE (R352). -/
  | causeWrite
  /-- A write of a value to SVEC (R353). -/
  | svecWrite
  /-- A write of a value to UVEC (R353). -/
  | uvecWrite
  /-- A write to PTBASE, or to ASID (R399). -/
  | ptbaseWrite
  /-- A write to any other register or control word (R4). -/
  | registerWrite
  /-- A fault record is posted (R363). -/
  | faultRecordPost
  /-- A write to the resume port (R364). -/
  | resumePortWrite
  /-- Software writes TAIL (R363). -/
  | faultRingTailWrite
  /-- Uncorrectable error in state that a stream reads (R349). -/
  | uncorrectableError
  /-- A pending ULI is taken (R359). -/
  | uliEntry
  /-- A debug halt (R360). -/
  | debugHalt
  /-- A preemption request (R365). -/
  | preemptionRequest
  /-- A context is saved (R366). -/
  | preemptionSave
  /-- A preempted task is restored (R371). -/
  | contextRestore
  /-- A budget runs out (R372). -/
  | budgetExpiry
  /-- A further budget runs out (R372). -/
  | budgetFinalExpiry
  /-- Dirty bytes reach the die L2 (R378). -/
  | clusterCacheWriteback
  /-- A lease runs out (R380). -/
  | leaseExpiry
  /-- The lease clock wraps (R381). -/
  | epochSweep
  /-- A cluster enters retention (R381). -/
  | retentionEntry
  /-- A cluster wakes (R381). -/
  | retentionWake
  /-- An evicted partial is joined (R343). -/
  | partialJoinOnArrival
  /-- A write to the range table (R342). -/
  | rangeTableWrite
  /-- A read request at the directory (R388). -/
  | directoryReadRequest
  /-- An ownership request at the directory (R388). -/
  | directoryOwnershipRequest
  /-- An eviction notice at the directory (R388). -/
  | evictionNotice
  /-- A forward at the owner (R388). -/
  | forward
  /-- An invalidation at a holder (R387). -/
  | invalidation
  /-- An acknowledgement at the writer (R336). -/
  | invalidationAck
  /-- A grant at the requester (R336). -/
  | ownershipGrant
  /-- An update of a SYNCV line is pushed (R392). -/
  | writeUpdatePush
  /-- The QoS buckets gain RATE lines (R395). -/
  | tokenBucketRefill
  /-- A walk starts (R398). -/
  | tableWalk
  /-- A walk ends (R410). -/
  | tableWalkComplete
  /-- A tier object's copy completes (R414). -/
  | tmoveCopyComplete
  /-- A doorbell (R429). -/
  | doorbell
  /-- The record at DISP begins (R430). -/
  | recordBegin
  /-- A free slot is given to a waiting queue (R433). -/
  | queueMap
  /-- A borrowed slot is reclaimed (R434). -/
  | slotReclaim
  /-- A record is cancelled (R432). -/
  | recordCancel
  /-- The next group, cluster unit or die unit is placed (R435). -/
  | groupDispatch
  /-- Lost-locality scores are halved (R436). -/
  | localityScoreDecay
  /-- The next gang is placed and loaded (R437). -/
  | gangLaunch
  /-- A die reports a gang ready (R437). -/
  | gangReadyReport
  /-- A gang is released (R437). -/
  | gangRelease
  /-- A group or gang ends (R438). -/
  | groupEnd
  /-- A task is relaunched (R441). -/
  | rerun
  /-- A task is parked on a core (R442). -/
  | preload
  /-- A parked task starts (R442). -/
  | parkedTaskStart
  /-- A host or peer write at the home (R338). -/
  | hostWrite
  /-- A blob access (R452). -/
  | hostBlobAccess
  /-- BIND of virtio-gpu (R451). -/
  | bind
  /-- APPEND of virtio-gpu (R451). -/
  | append
  /-- CANCEL of virtio-gpu (R451). -/
  | cancel
  /-- A read of the counter page (R453). -/
  | hostCounterRead
  /-- A write of the counter page (R453). -/
  | hostCounterWrite
  /-- An access to the counter region (R448). -/
  | counterRegionAccess
  /-- A port reset (R454). -/
  | portReset
  /-- An interrupt enters a supervisor core (R456). -/
  | supervisorInterrupt
  /-- CYCLE reaches the compare word (R456). -/
  | timerCompare
  /-- A write to IPI (R456). -/
  | ipi
  /-- A flit is received (R458). -/
  | flitReceive
  /-- A port retrains (R458). -/
  | linkRetrain
  /-- The boot sequence (R460). -/
  | boot
  /-- A scrub of one line (R461). -/
  | patrolScrub
  /-- CURLIM is lowered (R462). -/
  | thermalLimit
  /-- CURLIM is restored (R462). -/
  | thermalRecover
  /-- A debug halt ends (R48). -/
  | debugResume
  /-- A virtqueue notification (R456). -/
  | virtqueueNotification
  /-- A host caching agent becomes present (R384). -/
  | hostAttach
  deriving DecidableEq, Repr

end Sys2Proof
end

