-- ==== Sys2Proof/Decode.lean ====
section
/-! DEFINITION. The decoder of slot words and bundles (R85 to R88, R91 to R106, R112 to R115), total on every bit
pattern: a reserved opcode, type code, order code, V width or M, C sub-op has no instruction, and the bundle that holds
it traps with #ILLOP (R117). Then the encoder, written from the same maps. -/

namespace Sys2Proof

/-! ## Operand fields -/

/-- A source field from its 8 bits (R91). -/
def Src.ofBits (b : BitVec 8) : Src :=
  match (b.extractLsb' 6 2).toNat with
  | 0 => .reg (b.extractLsb' 0 6)
  | 1 => .latch (b.extractLsb' 3 3) (b.extractLsb' 1 2) (b.getLsbD 0)
  | 2 => .queue (b.extractLsb' 3 3) (b.extractLsb' 0 3)
  | _ => .special (b.extractLsb' 0 6)

/-- The 8 bits of a source field (R91). -/
def Src.toBits : Src → BitVec 8
  | .reg r => 0#2 ++ r
  | .latch sl d low => 1#2 ++ sl ++ d ++ BitVec.ofBool low
  | .queue h q => 2#2 ++ h ++ q
  | .special c => 3#2 ++ c

/-- A destination field from its 8 bits (R95). -/
def Dst.ofBits (b : BitVec 8) : Dst := ⟨b.getLsbD 7, b.getLsbD 6, b.extractLsb' 0 6⟩

/-- The 8 bits of a destination field (R95). -/
def Dst.toBits (d : Dst) : BitVec 8 := BitVec.ofBool d.nw ++ BitVec.ofBool d.qo ++ d.reg

/-- A predicate field from its 5 bits (R96). -/
def Pred.ofBits (b : BitVec 5) : Pred := ⟨b.getLsbD 4, b.extractLsb' 0 4⟩

/-- The 5 bits of a predicate field (R96). -/
def Pred.toBits (p : Pred) : BitVec 5 := BitVec.ofBool p.neg ++ p.p

/-- An element type from its code; 0xD to 0xF are reserved (R51, R53, R98). -/
def ElTy.ofCode (c : BitVec 4) : Option ElTy :=
  match c.toNat with
  | 0 => some .i8 | 1 => some .n8 | 2 => some .i16 | 3 => some .n16 | 4 => some .i32 | 5 => some .n32
  | 6 => some .i64 | 7 => some .n64 | 8 => some .f16 | 9 => some .bf16 | 10 => some .f32 | 11 => some .e4m3
  | 12 => some .e5m2 | _ => none

/-- The code of an element type (R51, R53). -/
def ElTy.code : ElTy → BitVec 4
  | .i8 => 0 | .n8 => 1 | .i16 => 2 | .n16 => 3 | .i32 => 4 | .n32 => 5 | .i64 => 6 | .n64 => 7
  | .f16 => 8 | .bf16 => 9 | .f32 => 10 | .e4m3 => 11 | .e5m2 => 12

/-- An order from its code; 101 to 111 are reserved (R102). -/
def MemOrder.ofCode (c : BitVec 3) : Option MemOrder :=
  match c.toNat with
  | 0 => some .rlx | 1 => some .acq | 2 => some .rel | 3 => some .ar | 4 => some .sc | _ => none

/-- The code of an order (R102). -/
def MemOrder.code : MemOrder → BitVec 3
  | .rlx => 0 | .acq => 1 | .rel => 2 | .ar => 3 | .sc => 4

/-! ## Slot words -/

/-- The fields of an S word (R97). -/
def SOp.ofWord (w : BitVec 64) : SOp :=
  ⟨Pred.ofBits (w.extractLsb' 51 5), Dst.ofBits (w.extractLsb' 43 8), Src.ofBits (w.extractLsb' 35 8),
   Src.ofBits (w.extractLsb' 27 8), w.extractLsb' 0 27⟩

/-- The S word of an opcode and its fields (R97). -/
def SOp.toWord (o : SOp) (op : BitVec 8) : BitVec 64 :=
  op ++ o.pred.toBits ++ o.dst.toBits ++ o.a.toBits ++ o.b.toBits ++ o.imm

/-- The fields of a V word (R98); none with a reserved type code or width 11. -/
def VOp.ofWord (w : BitVec 64) : Option VOp :=
  match ElTy.ofCode (w.extractLsb' 52 4) with
  | none => none
  | some ty =>
    if w.extractLsb' 50 2 = 3#2 then none
    else some ⟨ty, w.extractLsb' 50 2, w.extractLsb' 48 2, Pred.ofBits (w.extractLsb' 43 5),
      Dst.ofBits (w.extractLsb' 35 8), Src.ofBits (w.extractLsb' 27 8), Src.ofBits (w.extractLsb' 19 8),
      Src.ofBits (w.extractLsb' 11 8), w.extractLsb' 8 3, w.getLsbD 7, w.extractLsb' 0 7⟩

/-- The V word of an opcode and its fields (R98). -/
def VOp.toWord (o : VOp) (op : BitVec 8) : BitVec 64 :=
  op ++ o.ty.code ++ o.width ++ o.off ++ o.pred.toBits ++ o.dst.toBits ++ o.a.toBits ++ o.b.toBits ++ o.c.toBits
    ++ o.rnd ++ BitVec.ofBool o.sat ++ o.imm

/-- The fields of an L word (R100); none with a reserved type or order code. -/
def LOp.ofWord (w : BitVec 64) : Option LOp :=
  match ElTy.ofCode (w.extractLsb' 52 4), MemOrder.ofCode (w.extractLsb' 44 3) with
  | some ty, some ord =>
    some ⟨ty, w.extractLsb' 50 2, w.extractLsb' 47 3, ord, Pred.ofBits (w.extractLsb' 39 5), w.getLsbD 38,
      w.getLsbD 37, w.extractLsb' 31 6, Src.ofBits (w.extractLsb' 23 8), Src.ofBits (w.extractLsb' 15 8),
      w.extractLsb' 0 15⟩
  | _, _ => none

/-- The L word of an opcode and its fields (R100). -/
def LOp.toWord (o : LOp) (op : BitVec 8) : BitVec 64 :=
  op ++ o.ty.code ++ o.width ++ o.scope ++ o.order.code ++ o.pred.toBits ++ BitVec.ofBool o.nw
    ++ BitVec.ofBool o.vfile ++ o.reg ++ o.base.toBits ++ o.index.toBits ++ o.imm

/-- The fields of a W word (R101); none with a reserved type or order code. -/
def WOp.ofWord (w : BitVec 64) : Option WOp :=
  match ElTy.ofCode (w.extractLsb' 52 4), MemOrder.ofCode (w.extractLsb' 44 3) with
  | some ty, some ord =>
    some ⟨ty, w.extractLsb' 50 2, w.extractLsb' 47 3, ord, Pred.ofBits (w.extractLsb' 39 5),
      Src.ofBits (w.extractLsb' 31 8), Src.ofBits (w.extractLsb' 23 8), Src.ofBits (w.extractLsb' 15 8),
      w.extractLsb' 0 15⟩
  | _, _ => none

/-- The W word of an opcode and its fields (R101). -/
def WOp.toWord (o : WOp) (op : BitVec 8) : BitVec 64 :=
  op ++ o.ty.code ++ o.width ++ o.scope ++ o.order.code ++ o.pred.toBits ++ o.data.toBits ++ o.base.toBits
    ++ o.index.toBits ++ o.imm

/-- The fields of an M word (R104). -/
def MOp.ofWord (w : BitVec 64) : MOp :=
  ⟨w.extractLsb' 54 4, w.extractLsb' 50 4, w.getLsbD 49, w.getLsbD 48, w.getLsbD 47, w.getLsbD 46,
   w.extractLsb' 40 6, w.extractLsb' 34 6, w.extractLsb' 31 3, w.getLsbD 30, w.extractLsb' 28 2, w.extractLsb' 0 28⟩

/-- The M word of an opcode and its fields (R104). -/
def MOp.toWord (o : MOp) (op : BitVec 6) : BitVec 64 :=
  op ++ o.fmtA ++ o.fmtB ++ BitVec.ofBool o.p7 ++ BitVec.ofBool o.cls ++ BitVec.ofBool o.q ++ BitVec.ofBool o.acc
    ++ o.asel ++ o.bsel ++ o.bbyte ++ BitVec.ofBool o.scl ++ o.tile ++ o.low

/-- The fields of a C word (R105, R258). -/
def COp.ofWord (w : BitVec 64) : COp :=
  ⟨w.extractLsb' 52 4, w.extractLsb' 44 8, w.extractLsb' 40 4, w.getLsbD 39, w.getLsbD 38, w.extractLsb' 32 6,
   w.extractLsb' 0 32⟩

/-- The C word of an opcode and its fields (R105, R258). -/
def COp.toWord (o : COp) (op : BitVec 8) : BitVec 64 :=
  op ++ o.queue ++ o.token ++ o.qos ++ BitVec.ofBool o.ulic ++ BitVec.ofBool o.rel ++ o.flags ++ o.low

/-- The fields of a Y word (R106); none with a reserved order code. -/
def YOp.ofWord (w : BitVec 32) : Option YOp :=
  match MemOrder.ofCode (w.extractLsb' 20 3) with
  | none => none
  | some ord => some ⟨w.extractLsb' 23 3, ord, w.extractLsb' 12 8, w.extractLsb' 0 12⟩

/-- The 32 bits of a Y word (R106). -/
def YOp.bits (o : YOp) (op : BitVec 6) : BitVec 32 := op ++ o.scope ++ o.order.code ++ o.id ++ o.imm

/-- The Y word, in the low half of 64 bits. -/
def YOp.toWord (o : YOp) (op : BitVec 6) : BitVec 64 := (o.bits op).setWidth 64

/-! ## The opcode maps -/

/-- The operation of an opcode of the S slot (R112), other than the no-operation. -/
def opS (op : Nat) (o : SOp) : Option Instr :=
  match op with
  | 0x01 => some (.add o)
  | 0x02 => some (.sub o)
  | 0x03 => some (.mul o)
  | 0x04 => some (.mulh o)
  | 0x05 => some (.mulhn o)
  | 0x06 => some (.div o)
  | 0x07 => some (.divn o)
  | 0x08 => some (.rem o)
  | 0x09 => some (.remn o)
  | 0x0A => some (.and o)
  | 0x0B => some (.or o)
  | 0x0C => some (.xor o)
  | 0x0D => some (.andn o)
  | 0x0E => some (.shl o)
  | 0x0F => some (.shr o)
  | 0x10 => some (.sar o)
  | 0x11 => some (.rol o)
  | 0x12 => some (.min o)
  | 0x13 => some (.minn o)
  | 0x14 => some (.max o)
  | 0x15 => some (.maxn o)
  | 0x16 => some (.clz o)
  | 0x17 => some (.ctz o)
  | 0x18 => some (.popc o)
  | 0x19 => some (.sext o)
  | 0x1A => some (.zext o)
  | 0x1B => some (.bfx o)
  | 0x1C => some (.bfi o)
  | 0x1D => some (.sel o)
  | 0x1E => some (.li o)
  | 0x1F => some (.lih o)
  | 0x20 => some (.cmp o)
  | 0x21 => some (.plog o)
  | 0x22 => if o.imm.extractLsb' 0 2 = 0#2 then some (.pmov o) else if o.imm.extractLsb' 0 2 = 1#2 then some (.pmovHToS o) else if o.imm.extractLsb' 0 2 = 2#2 then some (.pmovHFromS o) else some (.pmovB o)
  | 0x28 => some (.fadd o)
  | 0x29 => some (.fsub o)
  | 0x2A => some (.fmul o)
  | 0x2B => some (.fdiv o)
  | 0x2C => some (.fsqrt o)
  | 0x2D => some (.ffma o)
  | 0x2E => some (.fcmp o)
  | 0x2F => some (.fcvt o)
  | 0x30 => some (.fminmax o)
  | 0x38 => some (.bru o)
  | 0x39 => some (.jmp o)
  | 0x3A => some (.call o)
  | 0x3B => some (.ret o)
  | 0x3C => some (.loop o)
  | 0x3D => some (.brk o)
  | 0x40 => some (.brl o)
  | 0x41 => some (.jmpl o)
  | 0x42 => some (.calll o)
  | 0x43 => some (.retl o)
  | 0x44 => some (.join o)
  | 0x45 => some (.yieldp o)
  | 0x48 => some (.csrr o)
  | 0x49 => some (.csrw o)
  | 0x4A => some (.csrs o)
  | 0x4B => some (.csrc o)
  | 0x4C => some (.sysc o)
  | 0x4D => some (.trap o)
  | 0x4E => some (.eret o)
  | 0x4F => some (.uret o)
  | 0x50 => some (.wfi o)
  | 0x51 => some (.halt o)
  | 0x52 => some (.brkpt o)
  | 0x53 => some (.tlbi o)
  | 0x54 => some (.cmaint o)
  | 0x58 => some (.mts o)
  | 0x59 => some (.mfs o)
  | 0x5A => some (.mtq o)
  | 0x60 => some (.evadd o)
  | 0x61 => some (.evld o)
  | 0x62 => some (.evarm o)
  | 0x63 => some (.evwait o)
  | 0x68 => some (.lea o)
  | 0x69 => some (.addpc o)
  | 0x6A => some (.wid o)
  | _ => none

/-- The operation of an opcode of the VA and VB slots (R113), other than the no-operation. -/
def opV (op : Nat) (o : VOp) : Option Instr :=
  match op with
  | 0x01 => some (.vadd o)
  | 0x02 => some (.vsub o)
  | 0x03 => some (.vmul o)
  | 0x04 => some (.vmulh o)
  | 0x05 => some (.vmad o)
  | 0x06 => some (.vabs o)
  | 0x07 => some (.vneg o)
  | 0x08 => some (.vmin o)
  | 0x09 => some (.vmax o)
  | 0x0A => some (.vadds o)
  | 0x0B => some (.vsubs o)
  | 0x0C => some (.vavg o)
  | 0x0D => some (.vsad o)
  | 0x10 => some (.vand o)
  | 0x11 => some (.vor o)
  | 0x12 => some (.vxor o)
  | 0x13 => some (.vandn o)
  | 0x14 => some (.vshl o)
  | 0x15 => some (.vshr o)
  | 0x16 => some (.vsar o)
  | 0x17 => some (.vclz o)
  | 0x18 => some (.vpopc o)
  | 0x19 => some (.vbfx o)
  | 0x1A => some (.vbfi o)
  | 0x1B => some (.vbsel o)
  | 0x20 => some (.vfadd o)
  | 0x21 => some (.vfsub o)
  | 0x22 => some (.vfmul o)
  | 0x23 => some (.vffma o)
  | 0x24 => some (.vfmin o)
  | 0x25 => some (.vfmax o)
  | 0x28 => some (.vrcp o)
  | 0x29 => some (.vrsq o)
  | 0x2A => some (.vsqrt o)
  | 0x2B => some (.vexp2 o)
  | 0x2C => some (.vlog2 o)
  | 0x2D => some (.vsin o)
  | 0x2E => some (.vcos o)
  | 0x2F => some (.vtanh o)
  | 0x30 => some (.vcvt o)
  | 0x31 => some (.vquant o)
  | 0x32 => some (.vdeq o)
  | 0x38 => some (.vcmp o)
  | 0x39 => some (.vsel o)
  | 0x3A => some (.vplog o)
  | 0x3B => some (.vpcnt o)
  | 0x3C => some (.vpfirst o)
  | 0x3D => some (.vpany o)
  | 0x40 => some (.vtbl o)
  | 0x41 => some (.vperm o)
  | 0x42 => some (.vslide o)
  | 0x43 => some (.vshfl o)
  | 0x44 => some (.vbcast o)
  | 0x45 => some (.vext o)
  | 0x46 => some (.vins o)
  | 0x47 => some (.vzip o)
  | 0x48 => some (.vunzip o)
  | 0x50 => some (.vredadd o)
  | 0x51 => some (.vredmin o)
  | 0x52 => some (.vredmax o)
  | 0x53 => some (.vredlog o)
  | 0x54 => some (.vscan o)
  | 0x55 => some (.vfredadd o)
  | 0x58 => if o.imm.getLsbD 0 = false then some (.vmov o) else some (.vmovS o)
  | 0x59 => some (.vli o)
  | 0x5A => some (.vlane o)
  | _ => none

/-- The operation of an opcode of the L slot (R114), other than the no-operation. -/
def opL (op : Nat) (o : LOp) : Option Instr :=
  match op with
  | 0x01 => some (.ld o)
  | 0x02 => some (.vld o)
  | 0x03 => some (.vlds o)
  | 0x04 => some (.vldg o)
  | 0x05 => some (.tld o)
  | 0x06 => some (.gld o)
  | 0x07 => some (.ldx o)
  | 0x08 => some (.lpf o)
  | 0x10 => some (.amadd o)
  | 0x11 => some (.ammin o)
  | 0x12 => some (.ammax o)
  | 0x13 => some (.amand o)
  | 0x14 => some (.amor o)
  | 0x15 => some (.amxor o)
  | 0x16 => some (.amswp o)
  | 0x17 => some (.amcas o)
  | 0x18 => some (.amfadd o)
  | 0x19 => some (.aminc o)
  | _ => none

/-- The operation of an opcode of the W slot (R114), other than the no-operation. -/
def opW (op : Nat) (o : WOp) : Option Instr :=
  match op with
  | 0x01 => some (.st o)
  | 0x02 => some (.vst o)
  | 0x03 => some (.vsts o)
  | 0x04 => some (.vsct o)
  | 0x05 => some (.tst o)
  | 0x06 => some (.gst o)
  | 0x07 => some (.stx o)
  | 0x08 => some (.cadd o)
  | 0x09 => some (.cwb o)
  | _ => none

/-- The operation of an opcode of the M slot (R115), other than the no-operation. -/
def opM (op : Nat) (o : MOp) : Option Instr :=
  match op with
  | 0x01 => some (.mma o)
  | 0x02 => some (.mmas o)
  | 0x03 => some (.mzero o)
  | 0x04 => some (.mdrain o)
  | 0x05 => if o.low.getLsbD 0 = false then some (.mlaccSave o) else some (.mlaccLoad o)
  | 0x06 => some (.wvmac o)
  | _ => none

/-- The operation of an opcode of the C slot (R115), other than the no-operation. -/
def opC (op : Nat) (o : COp) : Option Instr :=
  match op with
  | 0x01 => some (.copy o)
  | 0x02 => some (.gath o)
  | 0x03 => some (.scat o)
  | 0x04 => some (.qbcast o)
  | 0x05 => some (.pfb o)
  | 0x06 => some (.drop o)
  | 0x07 => some (.coll o)
  | 0x08 => some (.xsort o)
  | 0x09 => if o.low.extractLsb' 0 2 = 0#2 then some (.tmoveMove o) else if o.low.extractLsb' 0 2 = 1#2 then some (.tmoveEvict o) else none
  | 0x0A => some (.tqpush o)
  | 0x0B => some (.rlaunch o)
  | 0x0C => some (.rtrace o)
  | 0x0D => some (.qfence o)
  | 0x10 => if o.flags.getLsbD 0 = false then some (.sopen o) else some (.sopenEvicted o)
  | 0x11 => some (.satt o)
  | 0x12 => some (.srel o)
  | 0x13 => some (.sevict o)
  | 0x14 => some (.sdrop o)
  | _ => none

/-- The operation of an opcode of the Y slot (R115), other than the no-operation. -/
def opY (op : Nat) (o : YOp) : Option Instr :=
  match op with
  | 0x01 => some (.bar o)
  | 0x02 => if o.imm.getLsbD 11 = false then some (.barphArrive o) else some (.barphWait o)
  | 0x03 => some (.fence o)
  | 0x04 => some (.tkwait o)
  | 0x05 => some (.tktest o)
  | 0x06 => some (.flagw o)
  | 0x07 => some (.flagset o)
  | 0x08 => some (.ulien o)
  | _ => none

/-- The operation of an S word; a no-operation's other fields are ignored (R88). -/
def decodeS (w : BitVec 64) : Option Instr :=
  if w.extractLsb' 56 8 = 0#8 then some .nop else opS (w.extractLsb' 56 8).toNat (SOp.ofWord w)

/-- The operation of a VA or VB word. -/
def decodeV (w : BitVec 64) : Option Instr :=
  if w.extractLsb' 56 8 = 0#8 then some .vnop
  else match VOp.ofWord w with
    | none => none
    | some o => opV (w.extractLsb' 56 8).toNat o

/-- The operation of an L word. -/
def decodeL (w : BitVec 64) : Option Instr :=
  if w.extractLsb' 56 8 = 0#8 then some .lnop
  else match LOp.ofWord w with
    | none => none
    | some o => opL (w.extractLsb' 56 8).toNat o

/-- The operation of a W word. -/
def decodeW (w : BitVec 64) : Option Instr :=
  if w.extractLsb' 56 8 = 0#8 then some .wnop
  else match WOp.ofWord w with
    | none => none
    | some o => opW (w.extractLsb' 56 8).toNat o

/-- The operation of an M word. -/
def decodeM (w : BitVec 64) : Option Instr :=
  if w.extractLsb' 58 6 = 0#6 then some .mnop else opM (w.extractLsb' 58 6).toNat (MOp.ofWord w)

/-- The operation of a C word. -/
def decodeC (w : BitVec 64) : Option Instr :=
  if w.extractLsb' 56 8 = 0#8 then some .cnop else opC (w.extractLsb' 56 8).toNat (COp.ofWord w)

/-- The operation of a Y word. -/
def decodeY (w : BitVec 32) : Option Instr :=
  if w.extractLsb' 26 6 = 0#6 then some .ynop
  else match YOp.ofWord w with
    | none => none
    | some o => opY (w.extractLsb' 26 6).toNat o

/-- The operation of a slot's word; a Y word is the low 32 bits. -/
def decodeSlot (sl : Slot) (w : BitVec 64) : Option Instr :=
  match sl with
  | .s => decodeS w
  | .va | .vb => decodeV w
  | .m => decodeM w
  | .l => decodeL w
  | .w => decodeW w
  | .c => decodeC w
  | .y => decodeY (w.setWidth 32)

/-! ## Bundles -/

/-- The header of a bundle (R87). -/
structure Header where
  valid : BitVec 8
  pop : BitVec 8
  sb : Bool
  idle : BitVec 4
  reserved : BitVec 11
  deriving DecidableEq, Repr

/-- The header from its 32 bits (R87). -/
def Header.ofBits (h : BitVec 32) : Header :=
  ⟨h.extractLsb' 24 8, h.extractLsb' 16 8, h.getLsbD 15, h.extractLsb' 11 4, h.extractLsb' 0 11⟩

/-- The 32 bits of a header (R87). -/
def Header.toBits (h : Header) : BitVec 32 := h.valid ++ h.pop ++ BitVec.ofBool h.sb ++ h.idle ++ h.reserved

/-- The header bits that mark a slot valid (R87). -/
def Slot.validBit (sl : Slot) : Nat := 7 - sl.code

/-- The slots of a bundle in the order of R118. -/
def Slot.all : List Slot := [.s, .va, .vb, .m, .l, .w, .c, .y]

/-- The word of a slot (R86), a Y word in the low 32 bits. -/
def Bundle.word (b : Bundle) (sl : Slot) : BitVec 64 :=
  match sl with
  | .y => (b.extractLsb' 480 32).setWidth 64
  | _ => b.extractLsb' (32 + 64 * sl.code) 64

/-- The header of a bundle. -/
def Bundle.header (b : Bundle) : Header := Header.ofBits (b.extractLsb' 0 32)

/-- The valid slots of a bundle with what their words decode to, in slot order (R88). -/
def Bundle.ops (b : Bundle) : List (Slot × Option Instr) :=
  (Slot.all.filter fun sl => (Bundle.header b).valid.getLsbD sl.validBit).map fun sl =>
    (sl, decodeSlot sl (Bundle.word b sl))

/-- The bundle of a header and of one slot's word, every other slot zero. -/
def Bundle.single (h : Header) (sl : Slot) (w : BitVec 64) : Bundle :=
  h.toBits.setWidth 512 ||| ((w.setWidth 512) <<< (32 + 64 * sl.code))

/-- The header of a bundle that holds one operation and no attribute. -/
def Header.only (sl : Slot) : Header := ⟨BitVec.twoPow 8 sl.validBit, 0, false, 0, 0⟩

/-- The bundle that a numeral of the opcode table stands for: 32 bits are the Y word of a bundle that holds it alone,
anything else is the low bits of the bundle itself. -/
def Bundle.ofTable (nbits w : Nat) : Bundle :=
  if nbits = 32 then Bundle.single (Header.only .y) .y (BitVec.ofNat 64 (w % 2 ^ 32)) else BitVec.ofNat 512 w

/-- The instruction that the decoder reads from a numeral of the opcode table: the one operation of its bundle. -/
def decodeTableWord (nbits w : Nat) : Option Instr :=
  match Bundle.ops (Bundle.ofTable nbits w) with
  | [(_, some i)] => some i
  | _ => none

/-! ## The encoder -/

/-- The slot word of an operation (R97 to R106), a Y word in the low 32 bits; none for an event. A V operation is placed
in VA. -/
def encode : Instr → Option (Slot × BitVec 64)
  | .mergeStage => none
  | .idleCountExpiry => none
  | .shaderPartitionSelect => none
  | .pathWaitLimit => none
  | .resultLanding => none
  | .shutterDelivery => none
  | .queueEntryArrival => none
  | .flagSetArrival => none
  | .loadDataReturn => none
  | .memoryValueReturn => none
  | .writeBufferDrain => none
  | .emptyBundle => none
  | .nop => some (.s, 0)
  | .add o => some (.s, o.toWord 0x01)
  | .sub o => some (.s, o.toWord 0x02)
  | .mul o => some (.s, o.toWord 0x03)
  | .mulh o => some (.s, o.toWord 0x04)
  | .mulhn o => some (.s, o.toWord 0x05)
  | .div o => some (.s, o.toWord 0x06)
  | .divn o => some (.s, o.toWord 0x07)
  | .rem o => some (.s, o.toWord 0x08)
  | .remn o => some (.s, o.toWord 0x09)
  | .and o => some (.s, o.toWord 0x0A)
  | .or o => some (.s, o.toWord 0x0B)
  | .xor o => some (.s, o.toWord 0x0C)
  | .andn o => some (.s, o.toWord 0x0D)
  | .shl o => some (.s, o.toWord 0x0E)
  | .shr o => some (.s, o.toWord 0x0F)
  | .sar o => some (.s, o.toWord 0x10)
  | .rol o => some (.s, o.toWord 0x11)
  | .min o => some (.s, o.toWord 0x12)
  | .minn o => some (.s, o.toWord 0x13)
  | .max o => some (.s, o.toWord 0x14)
  | .maxn o => some (.s, o.toWord 0x15)
  | .clz o => some (.s, o.toWord 0x16)
  | .ctz o => some (.s, o.toWord 0x17)
  | .popc o => some (.s, o.toWord 0x18)
  | .sext o => some (.s, o.toWord 0x19)
  | .zext o => some (.s, o.toWord 0x1A)
  | .bfx o => some (.s, o.toWord 0x1B)
  | .bfi o => some (.s, o.toWord 0x1C)
  | .sel o => some (.s, o.toWord 0x1D)
  | .li o => some (.s, o.toWord 0x1E)
  | .lih o => some (.s, o.toWord 0x1F)
  | .cmp o => some (.s, o.toWord 0x20)
  | .plog o => some (.s, o.toWord 0x21)
  | .pmov o => some (.s, o.toWord 0x22)
  | .pmovHToS o => some (.s, o.toWord 0x22)
  | .pmovHFromS o => some (.s, o.toWord 0x22)
  | .pmovB o => some (.s, o.toWord 0x22)
  | .fadd o => some (.s, o.toWord 0x28)
  | .fsub o => some (.s, o.toWord 0x29)
  | .fmul o => some (.s, o.toWord 0x2A)
  | .fdiv o => some (.s, o.toWord 0x2B)
  | .fsqrt o => some (.s, o.toWord 0x2C)
  | .ffma o => some (.s, o.toWord 0x2D)
  | .fcmp o => some (.s, o.toWord 0x2E)
  | .fcvt o => some (.s, o.toWord 0x2F)
  | .fminmax o => some (.s, o.toWord 0x30)
  | .bru o => some (.s, o.toWord 0x38)
  | .jmp o => some (.s, o.toWord 0x39)
  | .call o => some (.s, o.toWord 0x3A)
  | .ret o => some (.s, o.toWord 0x3B)
  | .loop o => some (.s, o.toWord 0x3C)
  | .brk o => some (.s, o.toWord 0x3D)
  | .brl o => some (.s, o.toWord 0x40)
  | .jmpl o => some (.s, o.toWord 0x41)
  | .calll o => some (.s, o.toWord 0x42)
  | .retl o => some (.s, o.toWord 0x43)
  | .join o => some (.s, o.toWord 0x44)
  | .yieldp o => some (.s, o.toWord 0x45)
  | .csrr o => some (.s, o.toWord 0x48)
  | .csrw o => some (.s, o.toWord 0x49)
  | .csrs o => some (.s, o.toWord 0x4A)
  | .csrc o => some (.s, o.toWord 0x4B)
  | .sysc o => some (.s, o.toWord 0x4C)
  | .trap o => some (.s, o.toWord 0x4D)
  | .eret o => some (.s, o.toWord 0x4E)
  | .uret o => some (.s, o.toWord 0x4F)
  | .wfi o => some (.s, o.toWord 0x50)
  | .halt o => some (.s, o.toWord 0x51)
  | .brkpt o => some (.s, o.toWord 0x52)
  | .tlbi o => some (.s, o.toWord 0x53)
  | .tlbiCompletion => none
  | .cmaint o => some (.s, o.toWord 0x54)
  | .cmaintCompletion => none
  | .mts o => some (.s, o.toWord 0x58)
  | .mfs o => some (.s, o.toWord 0x59)
  | .mtq o => some (.s, o.toWord 0x5A)
  | .evadd o => some (.s, o.toWord 0x60)
  | .evld o => some (.s, o.toWord 0x61)
  | .evarm o => some (.s, o.toWord 0x62)
  | .evwait o => some (.s, o.toWord 0x63)
  | .delayedTriggerAction => none
  | .lea o => some (.s, o.toWord 0x68)
  | .addpc o => some (.s, o.toWord 0x69)
  | .wid o => some (.s, o.toWord 0x6A)
  | .vnop => some (.va, 0)
  | .vadd o => some (.va, o.toWord 0x01)
  | .vsub o => some (.va, o.toWord 0x02)
  | .vmul o => some (.va, o.toWord 0x03)
  | .vmulh o => some (.va, o.toWord 0x04)
  | .vmad o => some (.va, o.toWord 0x05)
  | .vabs o => some (.va, o.toWord 0x06)
  | .vneg o => some (.va, o.toWord 0x07)
  | .vmin o => some (.va, o.toWord 0x08)
  | .vmax o => some (.va, o.toWord 0x09)
  | .vadds o => some (.va, o.toWord 0x0A)
  | .vsubs o => some (.va, o.toWord 0x0B)
  | .vavg o => some (.va, o.toWord 0x0C)
  | .vsad o => some (.va, o.toWord 0x0D)
  | .vand o => some (.va, o.toWord 0x10)
  | .vor o => some (.va, o.toWord 0x11)
  | .vxor o => some (.va, o.toWord 0x12)
  | .vandn o => some (.va, o.toWord 0x13)
  | .vshl o => some (.va, o.toWord 0x14)
  | .vshr o => some (.va, o.toWord 0x15)
  | .vsar o => some (.va, o.toWord 0x16)
  | .vclz o => some (.va, o.toWord 0x17)
  | .vpopc o => some (.va, o.toWord 0x18)
  | .vbfx o => some (.va, o.toWord 0x19)
  | .vbfi o => some (.va, o.toWord 0x1A)
  | .vbsel o => some (.va, o.toWord 0x1B)
  | .vfadd o => some (.va, o.toWord 0x20)
  | .vfsub o => some (.va, o.toWord 0x21)
  | .vfmul o => some (.va, o.toWord 0x22)
  | .vffma o => some (.va, o.toWord 0x23)
  | .vfmin o => some (.va, o.toWord 0x24)
  | .vfmax o => some (.va, o.toWord 0x25)
  | .vrcp o => some (.va, o.toWord 0x28)
  | .vrsq o => some (.va, o.toWord 0x29)
  | .vsqrt o => some (.va, o.toWord 0x2A)
  | .vexp2 o => some (.va, o.toWord 0x2B)
  | .vlog2 o => some (.va, o.toWord 0x2C)
  | .vsin o => some (.va, o.toWord 0x2D)
  | .vcos o => some (.va, o.toWord 0x2E)
  | .vtanh o => some (.va, o.toWord 0x2F)
  | .vcvt o => some (.va, o.toWord 0x30)
  | .vquant o => some (.va, o.toWord 0x31)
  | .vdeq o => some (.va, o.toWord 0x32)
  | .vcmp o => some (.va, o.toWord 0x38)
  | .vsel o => some (.va, o.toWord 0x39)
  | .vplog o => some (.va, o.toWord 0x3A)
  | .vpcnt o => some (.va, o.toWord 0x3B)
  | .vpfirst o => some (.va, o.toWord 0x3C)
  | .vpany o => some (.va, o.toWord 0x3D)
  | .vtbl o => some (.va, o.toWord 0x40)
  | .vperm o => some (.va, o.toWord 0x41)
  | .vslide o => some (.va, o.toWord 0x42)
  | .vshfl o => some (.va, o.toWord 0x43)
  | .vbcast o => some (.va, o.toWord 0x44)
  | .vext o => some (.va, o.toWord 0x45)
  | .vins o => some (.va, o.toWord 0x46)
  | .vzip o => some (.va, o.toWord 0x47)
  | .vunzip o => some (.va, o.toWord 0x48)
  | .vredadd o => some (.va, o.toWord 0x50)
  | .vredmin o => some (.va, o.toWord 0x51)
  | .vredmax o => some (.va, o.toWord 0x52)
  | .vredlog o => some (.va, o.toWord 0x53)
  | .vscan o => some (.va, o.toWord 0x54)
  | .vfredadd o => some (.va, o.toWord 0x55)
  | .vmov o => some (.va, o.toWord 0x58)
  | .vmovS o => some (.va, o.toWord 0x58)
  | .vli o => some (.va, o.toWord 0x59)
  | .vlane o => some (.va, o.toWord 0x5A)
  | .lnop => some (.l, 0)
  | .ld o => some (.l, o.toWord 0x01)
  | .vld o => some (.l, o.toWord 0x02)
  | .vlds o => some (.l, o.toWord 0x03)
  | .vldg o => some (.l, o.toWord 0x04)
  | .tld o => some (.l, o.toWord 0x05)
  | .gld o => some (.l, o.toWord 0x06)
  | .ldx o => some (.l, o.toWord 0x07)
  | .lpf o => some (.l, o.toWord 0x08)
  | .amadd o => some (.l, o.toWord 0x10)
  | .ammin o => some (.l, o.toWord 0x11)
  | .ammax o => some (.l, o.toWord 0x12)
  | .amand o => some (.l, o.toWord 0x13)
  | .amor o => some (.l, o.toWord 0x14)
  | .amxor o => some (.l, o.toWord 0x15)
  | .amswp o => some (.l, o.toWord 0x16)
  | .amcas o => some (.l, o.toWord 0x17)
  | .amfadd o => some (.l, o.toWord 0x18)
  | .aminc o => some (.l, o.toWord 0x19)
  | .wnop => some (.w, 0)
  | .st o => some (.w, o.toWord 0x01)
  | .vst o => some (.w, o.toWord 0x02)
  | .vsts o => some (.w, o.toWord 0x03)
  | .vsct o => some (.w, o.toWord 0x04)
  | .tst o => some (.w, o.toWord 0x05)
  | .gst o => some (.w, o.toWord 0x06)
  | .stx o => some (.w, o.toWord 0x07)
  | .cadd o => some (.w, o.toWord 0x08)
  | .cwb o => some (.w, o.toWord 0x09)
  | .mnop => some (.m, 0)
  | .mma o => some (.m, o.toWord 0x01)
  | .mmas o => some (.m, o.toWord 0x02)
  | .mzero o => some (.m, o.toWord 0x03)
  | .mdrain o => some (.m, o.toWord 0x04)
  | .mlaccSave o => some (.m, o.toWord 0x05)
  | .mlaccLoad o => some (.m, o.toWord 0x05)
  | .wvmac o => some (.m, o.toWord 0x06)
  | .cooperativeMmaIssue => none
  | .arrayOccupancyEnd => none
  | .drainCommit => none
  | .cnop => some (.c, 0)
  | .copy o => some (.c, o.toWord 0x01)
  | .gath o => some (.c, o.toWord 0x02)
  | .scat o => some (.c, o.toWord 0x03)
  | .qbcast o => some (.c, o.toWord 0x04)
  | .pfb o => some (.c, o.toWord 0x05)
  | .drop o => some (.c, o.toWord 0x06)
  | .coll o => some (.c, o.toWord 0x07)
  | .xsort o => some (.c, o.toWord 0x08)
  | .tmoveMove o => some (.c, o.toWord 0x09)
  | .tmoveEvict o => some (.c, o.toWord 0x09)
  | .tqpush o => some (.c, o.toWord 0x0A)
  | .rlaunch o => some (.c, o.toWord 0x0B)
  | .rtrace o => some (.c, o.toWord 0x0C)
  | .qfence o => some (.c, o.toWord 0x0D)
  | .sopen o => some (.c, o.toWord 0x10)
  | .sopenEvicted o => some (.c, o.toWord 0x10)
  | .satt o => some (.c, o.toWord 0x11)
  | .srel o => some (.c, o.toWord 0x12)
  | .sevict o => some (.c, o.toWord 0x13)
  | .sdrop o => some (.c, o.toWord 0x14)
  | .engineCommandStart => none
  | .engineCommandComplete => none
  | .collectiveMatch => none
  | .rlaunchRemoteEnd => none
  | .remoteLaunchReceive => none
  | .baseLanding => none
  | .sashDirectoryAnswer => none
  | .sattAttach => none
  | .srelComplete => none
  | .sashWritebackAck => none
  | .sashRestoreComplete => none
  | .evictionWritebackFault => none
  | .ynop => some (.y, 0)
  | .bar o => some (.y, o.toWord 0x01)
  | .barphArrive o => some (.y, o.toWord 0x02)
  | .barphWait o => some (.y, o.toWord 0x02)
  | .fence o => some (.y, o.toWord 0x03)
  | .tkwait o => some (.y, o.toWord 0x04)
  | .tktest o => some (.y, o.toWord 0x05)
  | .flagw o => some (.y, o.toWord 0x06)
  | .flagset o => some (.y, o.toWord 0x07)
  | .ulien o => some (.y, o.toWord 0x08)
  | .reservationKill => none
  | .reservationAgeExpiry => none
  | .modeWrite => none
  | .fstatWrite => none
  | .faircfgWrite => none
  | .lstkWrite => none
  | .curlimWrite => none
  | .curwinWrite => none
  | .causeWrite => none
  | .svecWrite => none
  | .uvecWrite => none
  | .ptbaseWrite => none
  | .registerWrite => none
  | .faultRecordPost => none
  | .resumePortWrite => none
  | .faultRingTailWrite => none
  | .uncorrectableError => none
  | .uliEntry => none
  | .debugHalt => none
  | .preemptionRequest => none
  | .preemptionSave => none
  | .contextRestore => none
  | .budgetExpiry => none
  | .budgetFinalExpiry => none
  | .clusterCacheWriteback => none
  | .leaseExpiry => none
  | .epochSweep => none
  | .retentionEntry => none
  | .retentionWake => none
  | .partialJoinOnArrival => none
  | .rangeTableWrite => none
  | .directoryReadRequest => none
  | .directoryOwnershipRequest => none
  | .evictionNotice => none
  | .forward => none
  | .invalidation => none
  | .invalidationAck => none
  | .ownershipGrant => none
  | .writeUpdatePush => none
  | .tokenBucketRefill => none
  | .tableWalk => none
  | .tableWalkComplete => none
  | .tmoveCopyComplete => none
  | .doorbell => none
  | .recordBegin => none
  | .queueMap => none
  | .slotReclaim => none
  | .recordCancel => none
  | .groupDispatch => none
  | .localityScoreDecay => none
  | .gangLaunch => none
  | .gangReadyReport => none
  | .gangRelease => none
  | .groupEnd => none
  | .rerun => none
  | .preload => none
  | .parkedTaskStart => none
  | .hostWrite => none
  | .hostBlobAccess => none
  | .bind => none
  | .append => none
  | .cancel => none
  | .hostCounterRead => none
  | .hostCounterWrite => none
  | .counterRegionAccess => none
  | .portReset => none
  | .supervisorInterrupt => none
  | .timerCompare => none
  | .ipi => none
  | .flitReceive => none
  | .linkRetrain => none
  | .boot => none
  | .patrolScrub => none
  | .thermalLimit => none
  | .thermalRecover => none
  | .debugResume => none
  | .virtqueueNotification => none
  | .hostAttach => none

/-- The bundle that holds one operation alone, without attributes. -/
def encodeBundle (i : Instr) : Option Bundle :=
  match encode i with
  | none => none
  | some (sl, w) => some (Bundle.single (Header.only sl) sl w)

end Sys2Proof
end

