-- ==== Sys2Proof/WellFormed.lean ====
section
/-! DEFINITION. Which encodings of an operation are legal (R117): the kinds of its operand fields, its types, its
sub-fields and the core types that have it. An operation that is not legal traps with #ILLOP at issue. What also depends
on the machine's state (STATUS.QOWN, the allocated V registers, a ULI handler) is checked at issue by Machine/Ops.lean. -/

namespace Sys2Proof

/-! ## Element types -/

/-- The bytes of an element (R51, R53). -/
def ElTy.bytes : ElTy → Nat
  | .i8 | .n8 | .e4m3 | .e5m2 => 1
  | .i16 | .n16 | .f16 | .bf16 => 2
  | .i32 | .n32 | .f32 => 4
  | .i64 | .n64 => 8

/-- The integer types (R51). -/
def ElTy.isInt : ElTy → Bool
  | .i8 | .n8 | .i16 | .n16 | .i32 | .n32 | .i64 | .n64 => true
  | _ => false

/-- The signed integer types (R51). -/
def ElTy.signed : ElTy → Bool
  | .i8 | .i16 | .i32 | .i64 => true
  | _ => false

/-- Class F: the floating types that arithmetic takes (R167). -/
def ElTy.isFp : ElTy → Bool
  | .f16 | .bf16 | .f32 => true
  | _ => false

/-- Class Q: the 8-bit floating types (R167). -/
def ElTy.isQ : ElTy → Bool
  | .e4m3 | .e5m2 => true
  | _ => false

/-- The type classes of R167; `D` is the source class of `vdeq` (R178). -/
inductive TyClass where
  | I | F | IF | B | Q | X | D
  deriving DecidableEq, Repr

/-- Whether a type belongs to a class (R167). -/
def TyClass.has : TyClass → ElTy → Bool
  | .I, t => t.isInt
  | .F, t => t.isFp
  | .IF, t => t.isInt || t.isFp
  | .B, t => t == .i8 || t == .n8
  | .Q, t => t.isQ
  | .X, _ => true
  | .D, t => t == .i8 || t.isQ

/-! ## Operand fields -/

/-- What an entry lets a source field be (R126, R163): val takes the immediate, reg does not; `preg` is any kind in the P
file, `p` only a P register; `v4` names four registers, `vw` a second destination. -/
inductive SrcKind where
  | sval | sreg | preg | p | vval | vreg | v4 | vw
  deriving DecidableEq, Repr

/-- The file of a destination; `v4` writes four V registers (R165). -/
inductive DstKind where
  | none | s | p | v | v4 | vq
  deriving DecidableEq, Repr

/-- Whether a source field is legal for its kind on a core type (R91 to R93, R117, R163). -/
def SrcKind.legal (ct : CoreType) (k : SrcKind) : Src → Bool
  | .reg r =>
    match k with
    | .preg | .p => r.toNat < 16
    | .v4 => r.toNat ≤ 60
    | _ => true
  | .latch sl _ low =>
    ct == .tile && !(k == .p || k == .v4 || k == .vw) && !low && !(sl == 3#3 || sl == 5#3 || sl == 7#3)
  | .queue h _ => ct == .tile && !(k == .p || k == .v4 || k == .vw) && h == 0#3
  | .special c =>
    !(k == .p || k == .v4 || k == .vw) && c.toNat ≤ 4 && (c != 0#6 || k == .sval || k == .vval)

/-- Whether a destination field is legal (R95, R163, R165). -/
def DstKind.legal (ct : CoreType) (k : DstKind) (d : Dst) : Bool :=
  match k with
  | .none => true
  | .s | .v => !d.qo || (ct == .tile && !d.nw && d.reg.toNat ≤ 2)
  | .p => !d.qo && d.reg.toNat < 16
  | .v4 => !d.qo && d.reg.toNat ≤ 60
  | .vq => !d.qo

/-- The operand fields of an operation and what is left of its legality. -/
structure Shape where
  srcs : List (SrcKind × Src)
  dkind : DstKind
  dst : Dst
  vregs : List Nat
  ok : Bool
  deriving DecidableEq, Repr

/-- A destination field that no entry reads. -/
def Dst.unused : Dst := ⟨true, false, 0⟩

/-- Whether a shape is legal on a core type. -/
def Shape.legal (ct : CoreType) (h : Shape) : Bool :=
  h.ok && h.srcs.all (fun e => e.1.legal ct e.2) && h.dkind.legal ct h.dst && h.vregs.all (fun n => n < 64)

/-- The shape of an operation without operands, legal when a test holds. -/
def Shape.plain (ok : Bool) : Shape := ⟨[], .none, Dst.unused, [], ok⟩

/-! ## Sub-fields -/

/-- Bits [lo + n - 1 : lo] of an S word's imm27, as a number. -/
def SOp.sub (o : SOp) (lo n : Nat) : Nat := fld o.imm lo n

/-- Bit k of an S word's imm27. -/
def SOp.subBit (o : SOp) (k : Nat) : Bool := bit o.imm k

/-- Whether no bit of imm27 from bit n upwards is set. -/
def SOp.below (o : SOp) (n : Nat) : Bool := o.imm.toNat < 2 ^ n

/-- Bits [lo + n - 1 : lo] of a V word's imm7, as a number. -/
def VOp.sub (o : VOp) (lo n : Nat) : Nat := fld o.imm lo n

/-- Whether no bit of imm7 from bit n upwards is set. -/
def VOp.below (o : VOp) (n : Nat) : Bool := o.imm.toNat < 2 ^ n

/-- The frets of a V or L width field: 1, 2 or 4 (R98). -/
def frets (width : BitVec 2) : Nat := if width = 0#2 then 1 else if width = 1#2 then 2 else 4

/-- Bits [34:0] of a V word, which `vli` reads as data (R194). -/
def VOp.data (o : VOp) : BitVec 35 :=
  o.a.toBits ++ o.b.toBits ++ o.c.toBits ++ o.rnd ++ BitVec.ofBool o.sat ++ o.imm

/-- Whether a V word's width and offset are legal on a core type (R98, R195). -/
def VOp.spanOk (ct : CoreType) (o : VOp) : Bool :=
  match ct with
  | .tile => o.width != 3#2 && o.off.toNat % frets o.width == 0
  | .shader => o.width == 2#2 && o.off == 0#2
  | .super => o.width == 0#2

/-- Whether a width field is legal for a V access of an L or W word, which has no offset field (R100, R98). -/
def widthOk (ct : CoreType) (width : BitVec 2) : Bool :=
  match ct with
  | .tile => width != 3#2
  | .shader => width == 2#2
  | .super => width == 0#2

/-- The staging registers that each engine has (R153, R233, R273, R277, R279, R283, R286, R288, R291, R306). -/
def stagingOk (ct : CoreType) (engine index : Nat) : Bool :=
  match engine with
  | 0 => ct == .tile && index ≤ 8
  | 1 => index ≤ 4
  | 2 => index ≤ 5
  | 3 => index ≤ 4
  | 4 => index ≤ 3
  | 5 => index ≠ 7 && index ≤ 12
  | 6 => index ≤ 2
  | 7 => index ≤ 5
  | _ => false

/-! ## Shapes of the S slot (R126 to R161) -/

/-- An S operation with an S destination and two sources. -/
def SOp.s2 (o : SOp) (a b : SrcKind) (ok : Bool) : Shape := ⟨[(a, o.a), (b, o.b)], .s, o.dst, [], ok⟩
/-- An S operation with an S destination and srcA. -/
def SOp.s1 (o : SOp) (a : SrcKind) (ok : Bool) : Shape := ⟨[(a, o.a)], .s, o.dst, [], ok⟩
/-- An S operation with an S destination and no source. -/
def SOp.s0 (o : SOp) (ok : Bool) : Shape := ⟨[], .s, o.dst, [], ok⟩
/-- An S operation with a P destination. -/
def SOp.p (o : SOp) (srcs : List (SrcKind × Src)) (ok : Bool) : Shape := ⟨srcs, .p, o.dst, [], ok⟩
/-- An S operation without destination. -/
def SOp.n (o : SOp) (a b : Option SrcKind) (ok : Bool) : Shape :=
  ⟨(match a with | some k => [(k, o.a)] | none => []) ++ (match b with | some k => [(k, o.b)] | none => []), .none,
   Dst.unused, [], ok⟩

/-- Whether imm27 [3:0] is a floating type of R133. -/
def SOp.fpType (o : SOp) : Bool := 8 ≤ o.sub 0 4 && o.sub 0 4 ≤ 10

/-- The sub-fields of a scalar floating-point operation that rounds (R133). -/
def SOp.fpOk (o : SOp) : Bool := o.fpType && o.sub 4 3 ≠ 7 && o.below 8

/-- The sub-fields of `evarm` (R160). -/
def SOp.armOk (o : SOp) : Bool :=
  match o.sub 0 2 with
  | 0 => o.sub 18 9 == 0
  | 1 => o.sub 20 7 == 0
  | 2 => o.sub 18 9 == 0
  | _ => o.sub 2 25 == 0

/-! ## Shapes of the V slots (R168) -/

/-- Whether a V source is `idx` or `one`, which no 8-bit floating type takes (R92). -/
def Src.countsElements : Src → Bool
  | .special c => c == 3#6 || c == 4#6
  | _ => false

/-- A source of the V file that is `idx` or `one`, read in a type that takes neither (R92). -/
def Src.uncounted (t : ElTy) (k : SrcKind) (x : Src) : Bool := t.isQ && (k == .vval || k == .vreg) && x.countsElements

/-- A V operation by the columns of R168: class, destination, sources, the test of imm7, and whether it rounds. Its V sources are
read in a type (R92). -/
def VOp.formIn (ct : CoreType) (o : VOp) (t : ElTy) (cls : TyClass) (d : DstKind) (srcs : List (SrcKind × Src)) (sub rs : Bool) :
    Shape :=
  ⟨srcs, d, o.dst, [],
   cls.has o.ty && sub && (if rs then o.rnd != 7#3 else o.rnd == 0#3 && !o.sat) && o.spanOk ct
     && !(srcs.any fun e => e.2.uncounted t e.1)⟩

/-- A V operation whose sources are read in its type. -/
def VOp.form (ct : CoreType) (o : VOp) (cls : TyClass) (d : DstKind) (srcs : List (SrcKind × Src)) (sub rs : Bool) :
    Shape := VOp.formIn ct o o.ty cls d srcs sub rs

/-- The V registers that a source of kind V4 stands for, and the further ones of a V4 destination. -/
def fourFrom (n : Nat) : List Nat := [n, n + 1, n + 2, n + 3]

/-! ## Shapes of the L and W slots (R196 to R219) -/

/-- The types of the integer atomics (R211). -/
def ElTy.isAtomicInt : ElTy → Bool
  | .i32 | .n32 | .i64 | .n64 => true
  | _ => false

/-- The types of a per-element access on a core type (R197). -/
def ElTy.perElementOk (ct : CoreType) (t : ElTy) : Bool :=
  match ct with
  | .shader => t.bytes ≠ 8
  | _ => t.bytes == 4 || t.bytes == 8

/-- An L operation. -/
def LOp.form (o : LOp) (index : SrcKind) (d : DstKind) (more : List Nat) (ok : Bool) : Shape :=
  ⟨[(.sreg, o.base), (index, o.index)], d, ⟨o.nw, false, o.reg⟩, more, ok⟩

/-- Whether an order is relaxed or acquire, and whether relaxed or release (R201). -/
def MemOrder.loads (m : MemOrder) : Bool := m == .rlx || m == .acq
def MemOrder.stores (m : MemOrder) : Bool := m == .rlx || m == .rel

/-- An atomic (R201, R210, R211): its V form names V[d], which it reads whatever NW is, and `amcas` the register after d too. -/
def LOp.atomic (ct : CoreType) (o : LOp) (tyOk : Bool) (pair : Bool) : Shape :=
  o.form (if o.vfile then .vreg else .sreg) (if o.vfile then .v else .s)
    (if o.vfile then (if pair then [o.reg.toNat, o.reg.toNat + 1] else [o.reg.toNat]) else [])
    (tyOk && !(pair && o.reg == 63#6) && (!o.nw || o.order.stores)
      && (!o.vfile || (widthOk ct o.width && o.ty.perElementOk ct)))

/-- A W operation: its V data are read in its type (R92). -/
def WOp.form (o : WOp) (index data : SrcKind) (ok : Bool) : Shape :=
  ⟨[(.sreg, o.base), (index, o.index), (data, o.data)], .none, Dst.unused, [], ok && !o.data.uncounted o.ty data⟩

/-! ## Shapes of the M slot (R104, R236 to R254) -/

/-- Whether a pair of M formats is legal (R104). -/
def fmtPairOk (a b : BitVec 4) : Bool :=
  1 ≤ a.toNat && a.toNat ≤ 5 && (a == b || (a == 1#4 && b == 2#4) || (a == 2#4 && b == 1#4))

/-- The legality of `mma` that its word alone decides (R104, R236). -/
def MOp.mmaOk (o : MOp) : Bool :=
  fmtPairOk o.fmtA o.fmtB && !(o.p7 && o.cls)
    && (!o.scl || (!(o.fmtA == 3#4 || o.fmtA == 4#4) && o.asel.toNat + 3 ≤ 63))

/-- The legality of `mmas` that its word alone decides (R104, R236, R247). -/
def MOp.mmasOk (o : MOp) : Bool :=
  fmtPairOk o.fmtA o.fmtB && !(o.fmtA == 3#4 || o.fmtA == 4#4) && !(o.p7 && o.cls) && !o.q
    && (!o.scl || o.asel.toNat + 11 ≤ 63) && fld o.low 0 2 ≠ 3

/-- The three register bases of `wvmac`: C, A and B (R253). -/
def MOp.vc (o : MOp) : Nat := fld o.low 0 6
def MOp.va (o : MOp) : Nat := fld o.low 6 6
def MOp.vb (o : MOp) : Nat := fld o.low 12 6

/-- The V registers that `wvmac` names (R253). -/
def MOp.wvRegs (o : MOp) : List Nat :=
  (List.range 8).map (o.vc + ·) ++ (List.range 8).map (o.va + ·) ++ [o.vb, o.vb + 1]

/-! ## Shapes of the C slot (R258 to R272, R309 to R315) -/

/-- The fields that every command shares (R105, R259, R260). -/
def COp.commonOk (ct : CoreType) (o : COp) : Bool :=
  (o.qos.toNat < 8 || o.qos == 0xF#4) &&
  (match ct with
   | .tile => true
   | .shader => !o.ulic && o.queue.toNat < 4 && o.token.toNat < 32
   | .super => !o.ulic)

/-- Bits [lo + n - 1 : lo] of a C word's op-specific field, as a number. -/
def COp.sub (o : COp) (lo n : Nat) : Nat := fld o.low lo n

/-- Whether no op-specific bit from bit n upwards is set. -/
def COp.below (o : COp) (n : Nat) : Bool := o.low.toNat < 2 ^ n

/-- Whether a space code is allowed on a core type (R272). -/
def spaceOk (ct : CoreType) (sp : Nat) : Bool :=
  match sp with
  | 0 => true
  | 1 | 2 | 3 | 5 => ct == .tile
  | 4 => ct == .shader
  | _ => false

/-- A command, with the tests of its flags and its op-specific field. -/
def COp.form (ct : CoreType) (o : COp) (flags sub : Bool) : Shape := Shape.plain (o.commonOk ct && flags && sub)

/-! ## Shapes of the Y slot (R220, R221) -/

/-- A Y operation, with the tests of its scope, order, id and imm12. -/
def YOp.form (scope order id imm : Bool) : Shape := Shape.plain (scope && order && id && imm)

/-- The barrier fields (R221); n is not read by a wait. -/
def YOp.barOk (ct : CoreType) (o : YOp) (wait : Bool) : Bool :=
  (o.order == .rlx || o.order == .ar) && o.id.toNat < 16 &&
  (match ct with
   | .shader => o.scope == 2#3 && (wait || o.imm.toNat ≤ 32)
   | .tile => (o.scope == 3#3 || o.scope == 4#3) && (wait || fld o.imm 8 4 == 0)
   | .super => false)

/-- A shape with a further test. -/
def Shape.on (h : Shape) (ok : Bool) : Shape := { h with ok := h.ok && ok }

/-- A shape with further V registers. -/
def Shape.with (h : Shape) (l : List Nat) : Shape := { h with vregs := l }

/-- The registers that a source of kind V4 stands for (R163). -/
def Src.four : Src → List Nat
  | .reg r => fourFrom r.toNat
  | _ => []

/-- The spaces of the typed-buffer forms on a core type (R103). -/
def typedOk (ct : CoreType) (space : Nat) : Bool :=
  match ct with
  | .tile => space ≠ 3
  | .shader => space == 3
  | .super => false

/-- The types of the exclusive pairs on a core type (R216). -/
def exclusiveTy (ct : CoreType) (t : ElTy) : Bool :=
  match ct with
  | .shader => t == .i32 || t == .n32
  | _ => t.isAtomicInt

/-- The sub-fields of `vcvt`: a source type, and a part below the ratio of the sizes (R176). -/
def VOp.cvtOk (o : VOp) : Bool :=
  match ElTy.ofCode (o.imm.extractLsb' 0 4) with
  | none => false
  | some st => o.sub 4 3 < max st.bytes o.ty.bytes / min st.bytes o.ty.bytes

/-- The source type of `vcvt` (R176). -/
def VOp.cvtFrom (o : VOp) : ElTy := (ElTy.ofCode (o.imm.extractLsb' 0 4)).getD .f32

/-- The selector of `vlane` on a core type (R194). -/
def VOp.laneOk (ct : CoreType) (o : VOp) : Bool :=
  (o.sub 0 4 == 8 || (o.sub 0 4 ≤ 5 && ct != .super)) && (ct != .shader || o.ty == .i32 || o.ty == .n32)

/-- The op-specific field of `coll` (R284). -/
def COp.collOk (o : COp) : Bool :=
  o.sub 0 4 ≤ 4 && o.sub 8 2 ≠ 3 && o.below 10 &&
    (if o.sub 0 4 ≤ 1 then [4, 8, 9, 10].contains (o.sub 4 4) else decide (o.sub 4 4 ≤ 12))

/-- The shape of an operation on a core type, by its entry; an event has none. -/
def Instr.shape (ct : CoreType) : Instr → Shape
  | .nop => Shape.plain true
  | .add o => o.s2 .sval .sval true
  | .sub o => o.s2 .sval .sval true
  | .mul o => o.s2 .sval .sval true
  | .mulh o => o.s2 .sval .sval true
  | .mulhn o => o.s2 .sval .sval true
  | .div o => o.s2 .sval .sval true
  | .divn o => o.s2 .sval .sval true
  | .rem o => o.s2 .sval .sval true
  | .remn o => o.s2 .sval .sval true
  | .and o => o.s2 .sval .sval true
  | .or o => o.s2 .sval .sval true
  | .xor o => o.s2 .sval .sval true
  | .andn o => o.s2 .sval .sval true
  | .shl o => o.s2 .sval .sval true
  | .shr o => o.s2 .sval .sval true
  | .sar o => o.s2 .sval .sval true
  | .rol o => o.s2 .sval .sval true
  | .min o => o.s2 .sval .sval true
  | .minn o => o.s2 .sval .sval true
  | .max o => o.s2 .sval .sval true
  | .maxn o => o.s2 .sval .sval true
  | .clz o => o.s1 .sval true
  | .ctz o => o.s1 .sval true
  | .popc o => o.s1 .sval true
  | .sext o => o.s1 .sreg (o.sub 0 6 ≠ 0 && o.below 6)
  | .zext o => o.s1 .sreg (o.sub 0 6 ≠ 0 && o.below 6)
  | .bfx o => o.s1 .sreg (o.sub 0 6 + o.sub 6 6 + 1 ≤ 64 && o.below 13)
  | .bfi o => o.s1 .sreg (o.sub 0 6 + o.sub 6 6 + 1 ≤ 64 && o.below 12)
  | .sel o => o.s2 .sreg .sreg (o.below 5)
  | .li o => o.s0 true
  | .lih o => o.s1 .sreg true
  | .cmp o => o.p [(.sreg, o.a), (.sreg, o.b)] (o.sub 0 3 ≤ 5 && o.below 3)
  | .plog o => o.p [(.preg, o.a), (.preg, o.b)] (o.below 4)
  | .pmov o => o.p [(.preg, o.a)] (o.sub 0 2 == 0 && o.below 3)
  | .pmovHToS o => o.s1 .preg (o.sub 0 2 == 1 && o.below 3)
  | .pmovHFromS o => o.p [(.sreg, o.a)] (o.sub 0 2 == 2 && o.below 3)
  | .pmovB o => o.p [(.sreg, o.a)] (o.sub 0 2 == 3 && o.below 3)
  | .fadd o => o.s2 .sreg .sreg o.fpOk
  | .fsub o => o.s2 .sreg .sreg o.fpOk
  | .fmul o => o.s2 .sreg .sreg o.fpOk
  | .fdiv o => o.s2 .sreg .sreg o.fpOk
  | .fsqrt o => o.s1 .sreg o.fpOk
  | .ffma o => o.s2 .sreg .sreg o.fpOk
  | .fcmp o => o.p [(.sreg, o.a), (.sreg, o.b)] (o.fpType && o.sub 4 4 == 0 && o.sub 8 3 ≤ 4 && o.below 11)
  | .fcvt o => o.s1 .sreg (o.sub 0 4 ≤ 12 && o.sub 8 4 ≤ 12 && o.sub 4 3 ≠ 7 && o.below 12)
  | .fminmax o => o.s2 .sreg .sreg (o.fpType && o.sub 4 4 == 0 && o.below 9)
  | .bru o => o.n none none true
  | .jmp o => o.n (some .sval) (some .sval) true
  | .call o => o.s2 .sval .sval true
  | .ret o => o.n (some .sreg) none true
  | .loop o => o.s1 .sreg true
  | .brk o => o.n (some .sreg) none true
  | .brl o => (o.n none none true).on (ct == .shader)
  | .jmpl o => (o.n (some .vreg) (some .sval) true).on (ct == .shader)
  | .calll o => (o.n (some .vreg) (some .sval) true).on (ct == .shader)
  | .retl o => (o.n none none true).on (ct == .shader)
  | .join o => (o.n none none true).on (ct == .shader)
  | .yieldp o => (o.n none none true).on (ct == .shader)
  | .csrr o => o.s0 (o.below 12)
  | .csrw o => o.s1 .sreg (o.below 12)
  | .csrs o => o.s1 .sreg (o.below 12)
  | .csrc o => o.s1 .sreg (o.below 12)
  | .sysc o => o.n none none (o.below 16)
  | .trap o => o.n none none (o.below 16)
  | .eret o => o.n none none true
  | .uret o => o.n none none true
  | .wfi o => o.n none none true
  | .halt o => o.n none none true
  | .brkpt o => o.n none none (o.below 16)
  | .tlbi o => o.n (if 2 ≤ o.sub 0 2 then some .sreg else none) (if o.sub 0 2 = 1 ∨ o.sub 0 2 = 2 then some .sreg else none)
      (o.sub 2 2 ≠ 3 && o.below 4)
  | .cmaint o => o.n (if 1 ≤ o.sub 0 3 ∧ o.sub 0 3 ≤ 3 then some .sreg else none) none
      (o.below 3 && o.sub 0 3 ≠ 7 && !(ct == .tile && (o.sub 0 3 == 3 || o.sub 0 3 == 4)))
  | .mts o => o.n (some .sreg) none (o.below 8 && stagingOk ct (o.sub 4 4) (o.sub 0 4))
  | .mfs o => o.s0 (o.below 8 && stagingOk ct (o.sub 4 4) (o.sub 0 4))
  | .mtq o => { o.n (some .sreg) (some .sreg) (o.below 2 && o.sub 0 2 ≠ 3 && ct == .tile) with dst := ⟨false, true, BitVec.ofNat 6 (o.sub 0 2)⟩ }
  | .evadd o => o.s2 .sval .sval true
  | .evld o => o.s1 .sval true
  | .evarm o => o.n (some .sreg) (some .sreg) o.armOk
  | .evwait o => o.n (some .sval) (some .sval) true
  | .lea o => o.s2 .sreg .sreg true
  | .addpc o => o.s0 true
  | .wid o => o.s0 (o.below 4 && o.sub 0 4 ≤ 7 && ct != .super && !(ct == .tile && o.sub 0 4 == 6))
  | .vnop => Shape.plain true
  | .vadd o => o.form ct .I .v [(.vval, o.a), (.vval, o.b)] true false
  | .vsub o => o.form ct .I .v [(.vval, o.a), (.vval, o.b)] true false
  | .vmul o => o.form ct .I .v [(.vval, o.a), (.vval, o.b)] true false
  | .vmulh o => o.form ct .I .v [(.vval, o.a), (.vval, o.b)] true false
  | .vmad o => o.form ct .I .v [(.vval, o.a), (.vval, o.b), (.vval, o.c)] true false
  | .vabs o => o.form ct .IF .v [(.vval, o.a)] true false
  | .vneg o => o.form ct .IF .v [(.vval, o.a)] true false
  | .vmin o => o.form ct .I .v [(.vval, o.a), (.vval, o.b)] true false
  | .vmax o => o.form ct .I .v [(.vval, o.a), (.vval, o.b)] true false
  | .vadds o => o.form ct .I .v [(.vval, o.a), (.vval, o.b)] true false
  | .vsubs o => o.form ct .I .v [(.vval, o.a), (.vval, o.b)] true false
  | .vavg o => o.form ct .I .v [(.vval, o.a), (.vval, o.b)] true false
  | .vsad o => o.form ct .I .v [(.vval, o.a), (.vval, o.b), (.vval, o.c)] true false
  | .vand o => o.form ct .I .v [(.vval, o.a), (.vval, o.b)] true false
  | .vor o => o.form ct .I .v [(.vval, o.a), (.vval, o.b)] true false
  | .vxor o => o.form ct .I .v [(.vval, o.a), (.vval, o.b)] true false
  | .vandn o => o.form ct .I .v [(.vval, o.a), (.vval, o.b)] true false
  | .vshl o => o.form ct .I .v [(.vval, o.a), (.vval, o.b)] true false
  | .vshr o => o.form ct .I .v [(.vval, o.a), (.vval, o.b)] true false
  | .vsar o => o.form ct .I .v [(.vval, o.a), (.vval, o.b)] true false
  | .vclz o => o.form ct .I .v [(.vval, o.a)] true false
  | .vpopc o => o.form ct .I .v [(.vval, o.a)] true false
  | .vbfx o => o.form ct .I .v [(.vval, o.a), (.vval, o.b), (.vval, o.c)] true false
  | .vbfi o => (o.form ct .I .v [(.vval, o.a), (.vval, o.b), (.vval, o.c)] true false).with [o.dst.reg.toNat]
  | .vbsel o => o.form ct .I .v [(.vval, o.a), (.vval, o.b), (.vval, o.c)] true false
  | .vfadd o => o.form ct .F .v [(.vval, o.a), (.vval, o.b)] true true
  | .vfsub o => o.form ct .F .v [(.vval, o.a), (.vval, o.b)] true true
  | .vfmul o => o.form ct .F .v [(.vval, o.a), (.vval, o.b)] true true
  | .vffma o => o.form ct .F .v [(.vval, o.a), (.vval, o.b), (.vval, o.c)] true true
  | .vfmin o => o.form ct .F .v [(.vval, o.a), (.vval, o.b)] true false
  | .vfmax o => o.form ct .F .v [(.vval, o.a), (.vval, o.b)] true false
  | .vrcp o => o.form ct .F .v [(.vval, o.a)] true true
  | .vrsq o => o.form ct .F .v [(.vval, o.a)] true true
  | .vsqrt o => o.form ct .F .v [(.vval, o.a)] true true
  | .vexp2 o => o.form ct .F .v [(.vval, o.a)] true true
  | .vlog2 o => o.form ct .F .v [(.vval, o.a)] true true
  | .vsin o => o.form ct .F .v [(.vval, o.a)] true true
  | .vcos o => o.form ct .F .v [(.vval, o.a)] true true
  | .vtanh o => o.form ct .F .v [(.vval, o.a)] true true
  | .vcvt o => o.formIn ct o.cvtFrom .X .v [(.vreg, o.a)] o.cvtOk true
  | .vquant o => (o.form ct .Q .vq [(.v4, o.a), (.vw, o.b)] (o.below 6 && o.width == 2#2) true).with o.a.four
  | .vdeq o => (o.formIn ct .f32 .D .v4 [(.vreg, o.a), (.vreg, o.b)]
      (o.below 5 && o.width == 2#2 && !o.a.uncounted o.ty .vreg) true).with (fourFrom o.dst.reg.toNat)
  | .vcmp o => o.form ct .IF .p [(.vreg, o.a), (.vreg, o.b)] (o.below 3 && o.sub 0 3 ≠ 7 && !(o.sub 0 3 == 6 && o.ty.isInt)) false
  | .vsel o => o.form ct .X .v [(.vval, o.a), (.vval, o.b), (.p, o.c)] true false
  | .vplog o => o.form ct .B .p [(.p, o.a), (.p, o.b)] (o.below 4) false
  | .vpcnt o => o.form ct .I .s [(.p, o.a)] (o.below 0) false
  | .vpfirst o => o.form ct .I .s [(.p, o.a)] (o.below 0) false
  | .vpany o => o.form ct .I .p [(.p, o.a)] (o.below 1) false
  | .vtbl o => o.form ct .B .v [(.vreg, o.a), (.vreg, o.b)] (o.below 1) false
  | .vperm o => o.form ct .B .v [(.vval, o.a), (.vval, o.b), (.vval, o.c)] true false
  | .vslide o => o.form ct .B .v [(.vreg, o.a), (.vreg, o.b)] (o.imm.toNat < 32 * frets o.width) false
  | .vshfl o => o.form ct .I .v (if o.sub 5 2 = 0 then [(.vreg, o.a), (.vreg, o.b)] else [(.vreg, o.a)])
      (o.sub 5 2 ≠ 0 || o.sub 0 5 == 0) false
  | .vbcast o => o.form ct .I .v [(.vval, o.a), (.sval, o.b)] true false
  | .vext o => o.form ct .I .s [(.vval, o.a), (.sval, o.b)] true false
  | .vins o => o.form ct .I .v [(.sval, o.a), (.sval, o.b)] true false
  | .vzip o => o.form ct .I .v [(.vreg, o.a), (.vreg, o.b)] (o.below 1) false
  | .vunzip o => o.form ct .I .v [(.vreg, o.a), (.vreg, o.b)] (o.below 1) false
  | .vredadd o => o.form ct .I .v [(.vval, o.a)] true false
  | .vredmin o => o.form ct .IF .v [(.vval, o.a)] true false
  | .vredmax o => o.form ct .IF .v [(.vval, o.a)] true false
  | .vredlog o => o.form ct .I .v [(.vreg, o.a)] (o.below 2 && o.sub 0 2 ≠ 3) false
  | .vscan o => o.form ct .I .v [(.vreg, o.a)] (o.below 3 && o.sub 0 2 ≠ 3) false
  | .vfredadd o => o.form ct .F .v [(.vval, o.a)] true true
  | .vmov o => o.form ct .X .v [(.vreg, o.a)] (o.below 0) false
  | .vmovS o => o.form ct .X .v [(.sreg, o.a)] (o.below 1 && o.sub 0 1 == 1) false
  | .vli o => ⟨[], .v, o.dst, [], o.spanOk ct && fld o.data 32 3 == 0⟩
  | .vlane o => o.form ct .I .v [] (o.below 4 && o.laneOk ct) false
  | .lnop => Shape.plain true
  | .ld o => o.form .sreg .s [] (!o.vfile && o.order.loads)
  | .vld o => o.form .sreg .v [] (o.vfile && o.order.loads && widthOk ct o.width)
  | .vlds o => o.form .sreg .v [] (o.vfile && o.order.loads && widthOk ct o.width && (ct != .shader || o.ty.bytes ≠ 8))
  | .vldg o => o.form .vreg .v [] (o.vfile && o.order.loads && widthOk ct o.width && o.ty.perElementOk ct)
  | .tld o => o.form (if ct = .shader then .vreg else .sreg) (if o.vfile then .v else .s) []
      (o.order.loads && o.scope.toNat ≤ 3 && typedOk ct (fld o.imm 13 2) && (o.vfile || ct == .tile)
        && (!o.vfile || widthOk ct o.width) && (ct != .shader || o.ty.bytes ≠ 8))
  | .gld o => o.form .sreg .v [] (o.vfile && o.order.loads && widthOk ct o.width)
  | .ldx o => o.form (if ct = .shader then .vreg else .sreg) (if ct = .shader then .v else .s) []
      (o.order.loads && o.vfile == (ct == .shader) && exclusiveTy ct o.ty && (ct != .shader || widthOk ct o.width))
  | .lpf o => o.form .sreg .none [] (o.order == .rlx && o.scope != 7#3)
  | .amadd o => o.atomic ct o.ty.isAtomicInt false
  | .ammin o => o.atomic ct o.ty.isAtomicInt false
  | .ammax o => o.atomic ct o.ty.isAtomicInt false
  | .amand o => o.atomic ct o.ty.isAtomicInt false
  | .amor o => o.atomic ct o.ty.isAtomicInt false
  | .amxor o => o.atomic ct o.ty.isAtomicInt false
  | .amswp o => o.atomic ct (o.ty.isAtomicInt || o.ty == .f32) false
  | .amcas o => o.atomic ct o.ty.isAtomicInt true
  | .amfadd o => o.atomic ct (o.ty == .f32) false
  | .aminc o => o.atomic ct (o.ty == .n32 || o.ty == .n64) false
  | .wnop => Shape.plain true
  | .st o => o.form .sreg .sreg o.order.stores
  | .vst o => o.form .sreg .vreg (o.order.stores && widthOk ct o.width)
  | .vsts o => o.form .sreg .vreg (o.order.stores && widthOk ct o.width && (ct != .shader || o.ty.bytes ≠ 8))
  | .vsct o => o.form .vreg .vreg (o.order.stores && widthOk ct o.width && o.ty.perElementOk ct)
  | .tst o => o.form (if ct = .shader then .vreg else .sreg) .vreg
      (o.order.stores && o.scope.toNat ≤ 3 && typedOk ct (fld o.imm 13 2) && widthOk ct o.width
        && (ct != .shader || o.ty.bytes ≠ 8))
  | .gst o => o.form .sreg .vreg (o.order.stores && widthOk ct o.width)
  | .stx o => o.form (if ct = .shader then .vreg else .sreg) (if ct = .shader then .vreg else .sreg)
      (o.order.stores && exclusiveTy ct o.ty && fld o.imm 11 4 ≠ 0 && (ct != .shader || widthOk ct o.width))
  | .cadd o => o.form (if ct = .shader then .vreg else .sreg) .vreg
      (o.order.stores && (o.ty == .i32 || o.ty == .i64 || o.ty == .f32 || o.ty == .bf16) && widthOk ct o.width
        && (ct != .shader || o.ty.bytes ≠ 8))
  | .cwb o => ⟨[(.sreg, o.base), (.sreg, o.index)], .none, Dst.unused, [], o.order == .rlx⟩
  | .mnop => Shape.plain (ct != .super)
  | .mma o => Shape.plain (ct == .tile && o.mmaOk)
  | .mmas o => Shape.plain (ct == .tile && o.mmasOk)
  | .mzero _ => Shape.plain (ct == .tile)
  | .mdrain o => Shape.plain (ct == .tile && fld o.low 27 1 == 0 && (!o.scl || o.bsel.toNat < 32))
  | .mlaccSave o => Shape.plain (ct == .tile && o.low == 0#28)
  | .mlaccLoad o => Shape.plain (ct == .tile && o.low == 1#28)
  | .wvmac o => ⟨[], .none, Dst.unused, o.wvRegs,
      ct == .shader && fmtPairOk o.fmtA o.fmtB && o.fmtA != 5#4 && !o.p7 && !o.cls && !o.q && !o.scl⟩
  | .cnop => Shape.plain true
  | .copy o => o.form ct (o.flags == 0#6) (spaceOk ct (o.sub 0 4) && o.sub 0 4 ≠ 5 && spaceOk ct (o.sub 4 4) && o.below 10
      && (if o.sub 4 4 = 5 then decide (o.sub 0 4 ≤ 3) else o.sub 8 2 == 0))
  | .gath o => o.form ct (o.flags == 0#6) (spaceOk ct (o.sub 0 4) && o.sub 0 4 ≠ 5 && spaceOk ct (o.sub 4 4) && o.sub 4 4 ≠ 5 && o.below 8)
  | .scat o => o.form ct (o.flags == 0#6) (spaceOk ct (o.sub 0 4) && o.sub 0 4 ≠ 5 && spaceOk ct (o.sub 4 4) && o.sub 4 4 ≠ 5 && o.below 8)
  | .qbcast o => o.form ct (o.flags == 0#6) (ct == .tile && o.sub 0 4 ≤ 3 && 1 ≤ o.sub 4 4 && o.sub 4 4 ≤ 3 && o.sub 8 4 ≠ 0 && o.below 12)
  | .pfb o => o.form ct (o.flags.toNat < 2) (o.sub 0 2 ≠ 3 && o.below 2)
  | .drop o => o.form ct (o.flags == 0#6) (o.sub 0 2 ≠ 3 && o.below 2)
  | .coll o => o.form ct (o.flags == 0#6) (o.collOk)
  | .xsort o => o.form ct (o.flags.toNat < 2) (o.low == 0#32)
  | .tmoveMove o => o.form ct (o.flags == 0#6) (o.low == 0#32)
  | .tmoveEvict o => o.form ct (o.flags == 0#6) (o.low == 1#32)
  | .tqpush o => o.form ct (o.flags == 0#6) (o.low == 0#32)
  | .rlaunch o => o.form ct (o.flags == 0#6) (o.low == 0#32)
  | .rtrace o => ⟨[], .none, Dst.unused, (List.range 8).map (o.sub 0 6 + ·) ++ fourFrom (o.sub 6 6),
      o.commonOk ct && ct == .shader && o.flags == 0#6 && o.below 12⟩
  | .qfence o => o.form ct (o.flags == 0#6) (o.below 16 && (ct != .shader || o.below 4))
  | .sopen o => o.form ct (o.flags == 0#6) (ct == .tile && o.below 6)
  | .sopenEvicted o => o.form ct (o.flags == 1#6) (ct == .super && o.below 6)
  | .satt o => o.form ct (o.flags.toNat < 16) (ct == .tile && o.below 10 && !(bit o.flags 3 && o.sub 6 4 == 0))
  | .srel o => o.form ct (o.flags == 0#6) (ct == .tile && o.low == 0#32)
  | .sevict o => o.form ct (o.flags == 0#6) (ct != .shader && o.low == 0#32)
  | .sdrop o => o.form ct (o.flags == 0#6) (ct != .shader && o.low == 0#32)
  | .ynop => Shape.plain true
  | .bar o => Shape.plain (o.barOk ct false)
  | .barphArrive o => Shape.plain (o.barOk ct false && !bit o.imm 11)
  | .barphWait o => Shape.plain (o.barOk ct true && o.imm == 0x800#12)
  | .fence o => YOp.form true (o.order != .rlx) (o.id == 0#8) (o.imm == 0#12)
  | .tkwait o => YOp.form (o.scope == 0#3) (o.order == .rlx) (ct != .shader || o.id.toNat < 32) (o.imm == 0#12)
  | .tktest o => YOp.form (o.scope == 0#3) (o.order == .rlx) (ct != .shader || o.id.toNat < 32) (1 ≤ o.imm.toNat && o.imm.toNat < 16)
  | .flagw o => YOp.form (ct == .tile && o.scope.toNat ≤ 4) o.order.loads (o.id.toNat < 32) (o.imm.toNat < 2)
  | .flagset o => YOp.form (ct == .tile && o.scope.toNat ≤ 4) o.order.stores (o.id.toNat < 32) (o.imm.toNat < 4)
  | .ulien o => YOp.form (o.scope == 0#3) (o.order == .rlx) (o.id == 0#8) (o.imm.toNat < 2)
  | .mergeStage => Shape.plain true
  | .idleCountExpiry => Shape.plain true
  | .shaderPartitionSelect => Shape.plain true
  | .pathWaitLimit => Shape.plain true
  | .resultLanding => Shape.plain true
  | .shutterDelivery => Shape.plain true
  | .queueEntryArrival => Shape.plain true
  | .flagSetArrival => Shape.plain true
  | .loadDataReturn => Shape.plain true
  | .memoryValueReturn => Shape.plain true
  | .writeBufferDrain => Shape.plain true
  | .emptyBundle => Shape.plain true
  | .tlbiCompletion => Shape.plain true
  | .cmaintCompletion => Shape.plain true
  | .delayedTriggerAction => Shape.plain true
  | .cooperativeMmaIssue => Shape.plain true
  | .arrayOccupancyEnd => Shape.plain true
  | .drainCommit => Shape.plain true
  | .engineCommandStart => Shape.plain true
  | .engineCommandComplete => Shape.plain true
  | .collectiveMatch => Shape.plain true
  | .rlaunchRemoteEnd => Shape.plain true
  | .remoteLaunchReceive => Shape.plain true
  | .baseLanding => Shape.plain true
  | .sashDirectoryAnswer => Shape.plain true
  | .sattAttach => Shape.plain true
  | .srelComplete => Shape.plain true
  | .sashWritebackAck => Shape.plain true
  | .sashRestoreComplete => Shape.plain true
  | .evictionWritebackFault => Shape.plain true
  | .reservationKill => Shape.plain true
  | .reservationAgeExpiry => Shape.plain true
  | .modeWrite => Shape.plain true
  | .fstatWrite => Shape.plain true
  | .faircfgWrite => Shape.plain true
  | .lstkWrite => Shape.plain true
  | .curlimWrite => Shape.plain true
  | .curwinWrite => Shape.plain true
  | .causeWrite => Shape.plain true
  | .svecWrite => Shape.plain true
  | .uvecWrite => Shape.plain true
  | .ptbaseWrite => Shape.plain true
  | .registerWrite => Shape.plain true
  | .faultRecordPost => Shape.plain true
  | .resumePortWrite => Shape.plain true
  | .faultRingTailWrite => Shape.plain true
  | .uncorrectableError => Shape.plain true
  | .uliEntry => Shape.plain true
  | .debugHalt => Shape.plain true
  | .preemptionRequest => Shape.plain true
  | .preemptionSave => Shape.plain true
  | .contextRestore => Shape.plain true
  | .budgetExpiry => Shape.plain true
  | .budgetFinalExpiry => Shape.plain true
  | .clusterCacheWriteback => Shape.plain true
  | .leaseExpiry => Shape.plain true
  | .epochSweep => Shape.plain true
  | .retentionEntry => Shape.plain true
  | .retentionWake => Shape.plain true
  | .partialJoinOnArrival => Shape.plain true
  | .rangeTableWrite => Shape.plain true
  | .directoryReadRequest => Shape.plain true
  | .directoryOwnershipRequest => Shape.plain true
  | .evictionNotice => Shape.plain true
  | .forward => Shape.plain true
  | .invalidation => Shape.plain true
  | .invalidationAck => Shape.plain true
  | .ownershipGrant => Shape.plain true
  | .writeUpdatePush => Shape.plain true
  | .tokenBucketRefill => Shape.plain true
  | .tableWalk => Shape.plain true
  | .tableWalkComplete => Shape.plain true
  | .tmoveCopyComplete => Shape.plain true
  | .doorbell => Shape.plain true
  | .recordBegin => Shape.plain true
  | .queueMap => Shape.plain true
  | .slotReclaim => Shape.plain true
  | .recordCancel => Shape.plain true
  | .groupDispatch => Shape.plain true
  | .localityScoreDecay => Shape.plain true
  | .gangLaunch => Shape.plain true
  | .gangReadyReport => Shape.plain true
  | .gangRelease => Shape.plain true
  | .groupEnd => Shape.plain true
  | .rerun => Shape.plain true
  | .preload => Shape.plain true
  | .parkedTaskStart => Shape.plain true
  | .hostWrite => Shape.plain true
  | .hostBlobAccess => Shape.plain true
  | .bind => Shape.plain true
  | .append => Shape.plain true
  | .cancel => Shape.plain true
  | .hostCounterRead => Shape.plain true
  | .hostCounterWrite => Shape.plain true
  | .counterRegionAccess => Shape.plain true
  | .portReset => Shape.plain true
  | .supervisorInterrupt => Shape.plain true
  | .timerCompare => Shape.plain true
  | .ipi => Shape.plain true
  | .flitReceive => Shape.plain true
  | .linkRetrain => Shape.plain true
  | .boot => Shape.plain true
  | .patrolScrub => Shape.plain true
  | .thermalLimit => Shape.plain true
  | .thermalRecover => Shape.plain true
  | .debugResume => Shape.plain true
  | .virtqueueNotification => Shape.plain true
  | .hostAttach => Shape.plain true

/-- The encoding of an operation is legal on a core type: none of the faults of R116 and R117 that its word and the core
type decide. -/
def Instr.legal (ct : CoreType) (i : Instr) : Bool := (i.shape ct).legal ct

/-- An instruction is well-formed when its encoding is legal on some core type. Events have no encoding. -/
def Instr.wf (i : Instr) : Bool := i.legal .tile || i.legal .shader || i.legal .super

end Sys2Proof
end

