-- ==== Sys2Proof/Machine/Int.lean ====
section
/-! DEFINITION. Integer results, as pure functions of the operands: scalar arithmetic and fields (R129 to R132, R161)
and the elements of the vector operations (R169, R171, R172, R190 to R193). -/

namespace Sys2Proof.Machine

/-! ## Bits -/

/-- The number of leading zero bits of x read as n bits; n for zero (R131, R171). -/
def clzNat (n x : Nat) : Nat := if x = 0 then n else n - 1 - Nat.log2 x

/-- The number of trailing zero bits of x read as n bits; n for zero (R131). -/
def ctzNat : Nat → Nat → Nat
  | 0, _ => 0
  | n + 1, x => if x % 2 = 1 then 0 else 1 + ctzNat n (x / 2)

/-- The number of one bits among the low n bits of x (R131, R171). -/
def popcNat : Nat → Nat → Nat
  | 0, _ => 0
  | n + 1, x => x % 2 + popcNat n (x / 2)

/-- The low n bits of x as a signed number. -/
def sextNat (n x : Nat) : Int :=
  if n ≠ 0 ∧ (x % 2 ^ n).testBit (n - 1) then (x % 2 ^ n : Nat) - (2 ^ n : Nat) else (x % 2 ^ n : Nat)

/-- An integer as n bits (R52). -/
def wrap (n : Nat) (x : Int) : Nat := (x % (2 ^ n : Nat)).toNat

/-! ## Scalar integers (R129 to R131) -/

/-- `add`: A + B. -/
def sAdd (a b : Word) : Word := a + b
/-- `sub`: A − B. -/
def sSub (a b : Word) : Word := a - b
/-- `mul`: the low 64 bits of A × B. -/
def sMul (a b : Word) : Word := a * b
/-- `mulh`: bits [127:64] of the signed product. -/
def sMulh (a b : Word) : Word := BitVec.ofInt 64 (a.toInt * b.toInt / 2 ^ 64)
/-- `mulhn`: bits [127:64] of the unsigned product. -/
def sMulhn (a b : Word) : Word := BitVec.ofNat 64 (a.toNat * b.toNat / 2 ^ 64)
/-- `div`: the signed quotient, truncated toward zero; all ones for B = 0 (R130). -/
def sDiv (a b : Word) : Word := if b = 0 then BitVec.allOnes 64 else BitVec.ofInt 64 (a.toInt.tdiv b.toInt)
/-- `divn`: the unsigned quotient; all ones for B = 0 (R130). -/
def sDivn (a b : Word) : Word := if b = 0 then BitVec.allOnes 64 else BitVec.ofNat 64 (a.toNat / b.toNat)
/-- `rem`: the signed remainder, with the sign of the dividend; A for B = 0 (R130). -/
def sRem (a b : Word) : Word := if b = 0 then a else BitVec.ofInt 64 (a.toInt.tmod b.toInt)
/-- `remn`: the unsigned remainder; A for B = 0 (R130). -/
def sRemn (a b : Word) : Word := if b = 0 then a else BitVec.ofNat 64 (a.toNat % b.toNat)
/-- `and`. -/
def sAnd (a b : Word) : Word := a &&& b
/-- `or`. -/
def sOr (a b : Word) : Word := a ||| b
/-- `xor`. -/
def sXor (a b : Word) : Word := a ^^^ b
/-- `andn`: A AND NOT B. -/
def sAndn (a b : Word) : Word := a &&& ~~~b
/-- `shl`: A << (B mod 64). -/
def sShl (a b : Word) : Word := a <<< (b.toNat % 64)
/-- `shr`: A >> (B mod 64) with zeros shifted in. -/
def sShr (a b : Word) : Word := a >>> (b.toNat % 64)
/-- `sar`: A >> (B mod 64) with copies of bit 63 shifted in. -/
def sSar (a b : Word) : Word := a.sshiftRight (b.toNat % 64)
/-- `rol`: A rotated left by B mod 64. -/
def sRol (a b : Word) : Word := a.rotateLeft (b.toNat % 64)
/-- `min`: the lesser, signed. -/
def sMin (a b : Word) : Word := if a.toInt ≤ b.toInt then a else b
/-- `minn`: the lesser, unsigned. -/
def sMinn (a b : Word) : Word := if a.toNat ≤ b.toNat then a else b
/-- `max`: the greater, signed. -/
def sMax (a b : Word) : Word := if a.toInt ≤ b.toInt then b else a
/-- `maxn`: the greater, unsigned. -/
def sMaxn (a b : Word) : Word := if a.toNat ≤ b.toNat then b else a
/-- `clz`. -/
def sClz (a : Word) : Word := BitVec.ofNat 64 (clzNat 64 a.toNat)
/-- `ctz`. -/
def sCtz (a : Word) : Word := BitVec.ofNat 64 (ctzNat 64 a.toNat)
/-- `popc`. -/
def sPopc (a : Word) : Word := BitVec.ofNat 64 (popcNat 64 a.toNat)
/-- `sext`: A[n−1:0] sign-extended. -/
def sSext (n : Nat) (a : Word) : Word := BitVec.ofInt 64 (sextNat n a.toNat)
/-- `zext`: A[n−1:0] zero-extended. -/
def sZext (n : Nat) (a : Word) : Word := BitVec.ofNat 64 (a.toNat % 2 ^ n)
/-- `bfx`: A[lsb+w−1:lsb], sign-extended if asked. -/
def sBfx (sx : Bool) (lsb w : Nat) (a : Word) : Word :=
  if sx then sSext w (a >>> lsb) else sZext w (a >>> lsb)
/-- `bfi`: D with bits [lsb+w−1:lsb] replaced by A[w−1:0]. -/
def sBfi (lsb w : Nat) (d a : Word) : Word :=
  let m := BitVec.ofNat 64 ((2 ^ w - 1) <<< lsb)
  (d &&& ~~~m) ||| ((a <<< lsb) &&& m)
/-- `lih`: (A << 27) OR k. -/
def sLih (a : Word) (k : BitVec 27) : Word := (a <<< 27) ||| k.setWidth 64
/-- `lea`: A + (B << sh) + k, k of 24 bits signed (R161). -/
def sLea (a b : Word) (sh : Nat) (k : Nat) : Word := a + (b <<< sh) + BitVec.ofInt 64 (sextNat 24 k)

/-- The conditions of `cmp` (R132). -/
def sCmp (cond : Nat) (a b : Word) : Bool :=
  match cond with
  | 0 => a == b
  | 1 => a != b
  | 2 => decide (a.toInt < b.toInt)
  | 3 => decide (a.toInt ≤ b.toInt)
  | 4 => decide (a.toNat < b.toNat)
  | _ => decide (a.toNat ≤ b.toNat)

/-- Bit i of a truth-table operation: t[2 × a + b] (R132, R182). -/
def truth (t : Nat) (a b : Bool) : Bool := t.testBit (2 * b2n a + b2n b)

/-- `plog` on whole P registers (R132). -/
def pLog (t : Nat) (a b : PWord) : PWord :=
  (if t.testBit 0 then ~~~a &&& ~~~b else 0) ||| (if t.testBit 1 then ~~~a &&& b else 0) |||
  (if t.testBit 2 then a &&& ~~~b else 0) ||| (if t.testBit 3 then a &&& b else 0)

/-! ## Vector elements -/

/-- The value of an element's bits under a type, signed or unsigned by the type. -/
def ElTy.val (t : ElTy) (x : Nat) : Int := if t.signed then sextNat (8 * t.bytes) x else (x : Int)

/-- The least value of an integer type (R51). -/
def ElTy.minVal (t : ElTy) : Int := if t.signed then -(2 ^ (8 * t.bytes - 1) : Nat) else 0

/-- The greatest value of an integer type (R51). -/
def ElTy.maxVal (t : ElTy) : Int := if t.signed then (2 ^ (8 * t.bytes - 1) : Nat) - 1 else (2 ^ (8 * t.bytes) : Nat) - 1

/-- A value clamped to a type's range, and whether the clamp changed it (R169). -/
def ElTy.clamp (t : ElTy) (x : Int) : Nat × Bool :=
  if x < ElTy.minVal t then (wrap (8 * t.bytes) (ElTy.minVal t), true)
  else if ElTy.maxVal t < x then (wrap (8 * t.bytes) (ElTy.maxVal t), true)
  else (wrap (8 * t.bytes) x, false)

/-- `vmulh`: the upper N bits of the exact product (R169). -/
def eMulh (t : ElTy) (a b : Nat) : Nat := wrap (8 * t.bytes) (Int.fdiv (ElTy.val t a * ElTy.val t b) (2 ^ (8 * t.bytes) : Nat))
/-- `vabs` on integers (R169). -/
def eAbs (t : ElTy) (a : Nat) : Nat := wrap (8 * t.bytes) (ElTy.val t a).natAbs
/-- `vmin` (R169). -/
def eMin (t : ElTy) (a b : Nat) : Nat := if ElTy.val t a ≤ ElTy.val t b then a else b
/-- `vmax` (R169). -/
def eMax (t : ElTy) (a b : Nat) : Nat := if ElTy.val t a ≤ ElTy.val t b then b else a
/-- `vavg`: floor((a + b + 1) ÷ 2) (R169). -/
def eAvg (t : ElTy) (a b : Nat) : Nat := wrap (8 * t.bytes) (Int.fdiv (ElTy.val t a + ElTy.val t b + 1) 2)
/-- `vsad`: |a − b| + c (R169). -/
def eSad (t : ElTy) (a b c : Nat) : Nat :=
  wrap (8 * t.bytes) ((ElTy.val t a - ElTy.val t b).natAbs + ElTy.val t c)
/-- `vshl` (R171). -/
def eShl (t : ElTy) (a b : Nat) : Nat := (a <<< (b % (8 * t.bytes))) % 2 ^ (8 * t.bytes)
/-- `vshr` (R171). -/
def eShr (t : ElTy) (a b : Nat) : Nat := a >>> (b % (8 * t.bytes))
/-- `vsar`, with copies of the top bit whatever the type (R171). -/
def eSar (t : ElTy) (a b : Nat) : Nat :=
  wrap (8 * t.bytes) (Int.fdiv (sextNat (8 * t.bytes) a) (2 ^ (b % (8 * t.bytes)) : Nat))

/-- The field position and width that `vbfx` and `vbfi` take from B and C (R172). -/
def fieldOf (t : ElTy) (b c : Nat) : Nat × Nat :=
  let n := 8 * t.bytes
  (b % n, min (c % (2 * n)) (n - b % n))

/-- `vbfx` (R172). -/
def eBfx (t : ElTy) (a b c : Nat) : Nat :=
  let n := 8 * t.bytes
  let (lsb, w) := fieldOf t b c
  if w = 0 then 0 else if t.signed then wrap n (sextNat w (a >>> lsb)) else (a >>> lsb) % 2 ^ w

/-- `vbfi`: D with the field replaced by the low bits of A (R172). -/
def eBfi (t : ElTy) (d a b c : Nat) : Nat :=
  let (lsb, w) := fieldOf t b c
  (d % 2 ^ lsb) + (a % 2 ^ w) * 2 ^ lsb + (d >>> (lsb + w)) * 2 ^ (lsb + w)

/-- `vbsel`: (a AND c) OR (b AND NOT c) (R171). -/
def eBsel (t : ElTy) (a b c : Nat) : Nat := (a &&& c) ||| (b &&& (c ^^^ (2 ^ (8 * t.bytes) - 1)))

/-- The conditions of `vcmp` on integers (R180). -/
def eCmp (t : ElTy) (cond a b : Nat) : Bool :=
  match cond with
  | 0 => a == b
  | 1 => a != b
  | 2 => decide (ElTy.val t a < ElTy.val t b)
  | 3 => decide (ElTy.val t a ≤ ElTy.val t b)
  | 4 => decide (ElTy.val t b < ElTy.val t a)
  | _ => decide (ElTy.val t b ≤ ElTy.val t a)

/-! ## Registers as runs of elements (R162) -/

/-- Element k of a register from bit `base`, of z bytes. -/
def elemAt (x : VWord) (base z k : Nat) : Nat := fld x (base + 8 * z * k) (8 * z)

/-- A write of some bytes of a register: which bytes, and their values. -/
structure VWrite where
  mask : PWord
  val : VWord
  deriving DecidableEq, Repr

/-- No byte written. -/
def VWrite.empty : VWrite := ⟨0, 0⟩

/-- A write with z bytes at byte b added to it. -/
def VWrite.add (w : VWrite) (b z x : Nat) : VWrite :=
  ⟨w.mask ||| BitVec.ofNat 128 ((2 ^ z - 1) <<< b), w.val ||| BitVec.ofNat 1024 ((x % 2 ^ (8 * z)) <<< (8 * b))⟩

/-- The element-wise write of a span of n elements of z bytes from byte b0: element k, where it participates, is f k. -/
def vmap (b0 z n : Nat) (part : Nat → Bool) (f : Nat → Nat) : VWrite :=
  (List.range n).foldl (fun w k => if part k then w.add (b0 + z * k) z (f k) else w) VWrite.empty

/-- The bit mask of the bytes of a mask: each byte's bit widened to 8 (the value bits that a write covers). -/
def byteBits (m : PWord) : VWord :=
  BitVec.ofNat 1024 ((List.range 128).foldl (fun acc i => if m.toNat.testBit i then acc ||| (255 <<< (8 * i)) else acc) 0)

/-- A register after a write. -/
def VWrite.onto (w : VWrite) (old : VWord) : VWord := (old &&& ~~~(byteBits w.mask)) ||| (w.val &&& byteBits w.mask)

/-- The register with every element of a type holding its own number (R92 `idx`): an integer, or its float. -/
def fillElems (z : Nat) (f : Nat → Nat) : VWord := (vmap 0 z (128 / z) (fun _ => true) f).val

/-! ## Permutes (R184 to R189), as the source of each byte or element -/

/-- `vtbl`: byte j of the result (R184). -/
def tblByte (hi : Bool) (a b : Nat → Nat) (j : Nat) : Nat :=
  b (16 * (j / 16) + (if hi then a j / 16 else a j % 16))

/-- `vperm`: byte j of the result, in a span of m bytes (R185). -/
def permByte (m : Nat) (a b c : Nat → Nat) (j : Nat) : Nat :=
  if c j < m then a (c j) else if c j < 2 * m then b (c j - m) else 0

/-- `vslide`: byte j of the result, in a span of m bytes (R186). -/
def slideByte (m s : Nat) (a b : Nat → Nat) (j : Nat) : Nat := if j + s < m then a (j + s) else b (j + s - m)

/-- `vshfl`: the source element of element k, in a span of n elements (R187). -/
def shflFrom (mode m n : Nat) (b : Nat → Nat) (k : Nat) : Nat :=
  match mode with
  | 0 => b k % n
  | 1 => if k ^^^ m < n then k ^^^ m else k
  | 2 => if m ≤ k then k - m else k
  | _ => if k + m < n then k + m else k

/-- `vzip`: element k of the result (R189). -/
def zipElem (h n : Nat) (a b : Nat → Nat) (k : Nat) : Nat :=
  if k % 2 = 0 then a (h * (n / 2) + k / 2) else b (h * (n / 2) + k / 2)

/-- `vunzip`: element k of the result (R189). -/
def unzipElem (h n : Nat) (a b : Nat → Nat) (k : Nat) : Nat :=
  if 2 * k + h < n then a (2 * k + h) else b (2 * k + h - n)

/-! ## Reductions and scans (R190 to R193) -/

/-- The running combination of the participating elements, from an identity. -/
def reduce (n : Nat) (part : Nat → Bool) (f : Nat → Nat) (op : Nat → Nat → Nat) (unit_ : Nat) : Nat :=
  (List.range n).foldl (fun acc k => if part k then op acc (f k) else acc) unit_

/-- The identity of integer minimum and maximum (R190). -/
def minUnit (t : ElTy) : Nat := wrap (8 * t.bytes) (ElTy.maxVal t)
def maxUnit (t : ElTy) : Nat := wrap (8 * t.bytes) (ElTy.minVal t)

/-- The logic of `vredlog` (R191): its operation and identity. -/
def redLog (op : Nat) (a b : Nat) : Nat := match op with | 0 => a &&& b | 1 => a ||| b | _ => a ^^^ b
def redLogUnit (t : ElTy) (op : Nat) : Nat := if op = 0 then 2 ^ (8 * t.bytes) - 1 else 0

/-- The operation and identity of `vscan` (R193). -/
def scanOp (t : ElTy) (op a b : Nat) : Nat :=
  match op with
  | 0 => (a + b) % 2 ^ (8 * t.bytes)
  | 1 => eMin t a b
  | _ => eMax t a b
def scanUnit (t : ElTy) (op : Nat) : Nat := match op with | 0 => 0 | 1 => minUnit t | _ => maxUnit t

/-- The elements that `vscan` writes: a running combination over the participating elements, with or without the element
itself (R193). -/
def scanElem (t : ElTy) (op : Nat) (excl : Bool) (part : Nat → Bool) (f : Nat → Nat) (k : Nat) : Nat :=
  reduce (if excl then k else k + 1) part f (scanOp t op) (scanUnit t op)

end Sys2Proof.Machine
end

