-- ==== Sys2Proof/Config.lean ====
section
/-! DEFINITION. What one implementation fixes, and the FREE VALUES: constants without a body, where the manual says that
a value results and does not say which (log entry 6). No statement rests on a value of them. -/

namespace Sys2Proof.Config

/-- A yes-or-no that the manual leaves open, fresh for each value of the state's counter and each item (log entry 6). -/
opaque freeBit : Nat → Nat → Bool

/-- A number that the manual leaves open, fresh for each value of the state's counter and each item (log entry 6). -/
opaque freeNat : Nat → Nat → Nat

/-- The part's f32 approximation g of a special function, by opcode 0x28 to 0x2F: "On one part, g is a fixed function
of the source bits" (R175; log entry 7). -/
opaque special : Nat → BitVec 32 → BitVec 32

/-- Whether ∞ × 0 + quiet NaN signals the invalid operation (log entry 14). -/
opaque fmaInvalid : Bool

/-- The bundle number at which the resident operating system starts each supervisor core (R460 step 5; log entry 3). -/
opaque osEntry : BitVec 42

/-- The entry of the boot monitor for sysc at K and for a double trap on a supervisor core (R146, R351; log entry 3). -/
opaque monitorEntry : BitVec 42

/-- The module number in the pod, COREID.MODULE (R43). -/
opaque module : BitVec 4

/-- The die whose port reaches CXL memory device i (R375, R449). -/
opaque cxlDie : Nat → Bool

/-- The CURLIM and CURWIN values of the configuration block for a core (R257, R460, R462). -/
opaque curlim : Nat → BitVec 16
opaque curwin : Nat → BitVec 8

/-- The words of the control page that the configuration block holds, by byte offset (R460). -/
opaque control : Nat → Option Word

/-- The resident operating system's service routines on tile cores: the bundle at a program counter from 3840 (R34, R353). -/
opaque serviceRoutine : Nat → BitVec 512

/-- The address of the resident operating system's program image: the base of supervisor code, in bytes (R85, R460; log entry 3). -/
opaque osImage : BitVec 48

/-- Whether a grant of the resident operating system names an ASID, and which (R451; log entry 12). -/
opaque grantAsid : Nat → Nat → Option (BitVec 16)

/-- The identity seed has been derived, each image verified: outcomes of the boot steps that depend on flash (R460). -/
opaque bootVerdict : Nat → Bool

/-- Whether a module belongs to the pod as it is configured (R384). -/
opaque pod : Nat → Bool

/-- The patch image that boot loads into the sequencers' patch RAMs: control-store addresses and the words in their place; and the patch
level of a part with and without it (R444). -/
opaque patchImage : List (BitVec 12 × BitVec 96)
opaque patchLevel : Bool → Word

/-- The Kwaol port that reaches a module (R457). -/
opaque portOf : Nat → Nat

/-- Whether the CRC-64 of a flit takes the bits of each byte least significant first: the manual gives the polynomial, not the bit order
(R457). -/
opaque crcReflected : Bool

/-- The alternative Kwaol port configured for a port that is down (R458). -/
opaque altPort : Nat → Option Nat

/-- The recorder's EVENT code of an event, and its payload words from the event's data (R464 gives neither; log
entry 13). -/
opaque eventCode : Nat → BitVec 16
opaque eventPayload : Nat → Word → Word → Word

end Sys2Proof.Config
end

