-- ==== Sys2Proof/Machine/Float.lean ====
section
/-! DEFINITION. The floating-point formats, rounding, conversion and arithmetic of chapter 02 (R53 to R73, R133 to R135,
R173), as pure functions: values are exact, and each result is rounded once. -/

namespace Sys2Proof.Machine

/-! ## Formats (R53, R54) -/

/-- A floating-point format: exponent bits, fraction bits, bias, and whether it has infinities. -/
structure Fmt where
  ebits : Nat
  mbits : Nat
  bias : Nat
  infs : Bool
  deriving DecidableEq, Repr

/-- The format of a floating type (R53); an integer type has none of its own and reads as `f32`. -/
def ElTy.fmt : ElTy → Fmt
  | .f16 => ⟨5, 10, 15, true⟩
  | .bf16 => ⟨8, 7, 127, true⟩
  | .e4m3 => ⟨4, 3, 7, false⟩
  | .e5m2 => ⟨5, 2, 15, true⟩
  | _ => ⟨8, 23, 127, true⟩

/-- The width of a format in bits. -/
def Fmt.width (f : Fmt) : Nat := 1 + f.ebits + f.mbits

/-- The sign bit in place, for a sign. -/
def Fmt.sign (f : Fmt) (neg : Bool) : Nat := if neg then 2 ^ (f.ebits + f.mbits) else 0

/-- The canonical NaN (R54). -/
def Fmt.nan (f : Fmt) : Nat :=
  if f.infs then (2 ^ f.ebits - 1) * 2 ^ f.mbits + 2 ^ (f.mbits - 1) else 2 ^ (f.ebits + f.mbits) - 1

/-- An infinity, which in `e4m3` is the canonical NaN (R61). -/
def Fmt.inf (f : Fmt) (neg : Bool) : Nat :=
  if f.infs then f.sign neg + (2 ^ f.ebits - 1) * 2 ^ f.mbits else f.nan

/-- The largest finite magnitude's bits (R54). -/
def Fmt.maxBits (f : Fmt) : Nat :=
  if f.infs then (2 ^ f.ebits - 1) * 2 ^ f.mbits - 1 else 2 ^ (f.ebits + f.mbits) - 2

/-- The significand of the largest finite magnitude, and the exponent of its unit. -/
def Fmt.maxSig (f : Fmt) : Nat := if f.infs then 2 ^ (f.mbits + 1) - 1 else 2 ^ (f.mbits + 1) - 2
def Fmt.maxUnit (f : Fmt) : Int :=
  (if f.infs then (2 ^ f.ebits - 2 : Nat) else (2 ^ f.ebits - 1 : Nat) : Nat) - (f.bias : Int) - f.mbits

/-- The exponent of the subnormal unit. -/
def Fmt.minUnit (f : Fmt) : Int := 1 - (f.bias : Int) - f.mbits

/-- A decoded value: a NaN, signalling or not; an infinity; or (−1)^neg × m × 2^e, zero with its sign. -/
inductive FVal where
  | nan (signalling : Bool)
  | inf (neg : Bool)
  | fin (neg : Bool) (m : Nat) (e : Int)
  deriving DecidableEq, Repr

/-- The value of a bit pattern (R53, R55). -/
def Fmt.decode (f : Fmt) (x : Nat) : FVal :=
  let neg := x.testBit (f.ebits + f.mbits)
  let e := (x >>> f.mbits) % 2 ^ f.ebits
  let m := x % 2 ^ f.mbits
  if e = 2 ^ f.ebits - 1 ∧ f.infs then
    if m = 0 then .inf neg else .nan (!m.testBit (f.mbits - 1))
  else if e = 2 ^ f.ebits - 1 ∧ m = 2 ^ f.mbits - 1 then .nan false
  else if e = 0 then .fin neg m f.minUnit
  else .fin neg (m + 2 ^ f.mbits) (e - (f.bias : Int) - f.mbits)

/-- Whether a pattern is a nonzero subnormal. -/
def Fmt.subnormal (f : Fmt) (x : Nat) : Bool :=
  (x >>> f.mbits) % 2 ^ f.ebits == 0 && x % 2 ^ f.mbits ≠ 0

/-- The value after FTZI (R64). -/
def Fmt.decodeIn (f : Fmt) (ftzi : Bool) (x : Nat) : FVal :=
  if ftzi && f.subnormal x then .fin (x.testBit (f.ebits + f.mbits)) 0 f.minUnit else f.decode x

/-! ## MODE and flags (R56 to R58, R69, R70) -/

/-- The flags of FSTAT, in the order of their bits. -/
def fNX : BitVec 5 := 1
def fUF : BitVec 5 := 2
def fOF : BitVec 5 := 4
def fDZ : BitVec 5 := 8
def fNV : BitVec 5 := 16
/-- The flags of MSTAT, in the order of their bits. -/
def mP7D : BitVec 4 := 1
def mSCLINV : BitVec 4 := 2
def mWTRUNC : BitVec 4 := 4
def mSATD : BitVec 4 := 8

/-- The group of MODE of a destination type (R56). -/
def ElTy.group : ElTy → Nat
  | .f32 => 0 | .f16 => 1 | .bf16 => 2 | .e4m3 => 3 | .e5m2 => 4
  | .i32 | .n32 | .i64 | .n64 => 5
  | .i16 | .n16 => 6
  | .i8 | .n8 => 7

/-- The fields of a type's group (R56). -/
def modeRnd (mode : Word) (t : ElTy) : Nat := fld mode (8 * ElTy.group t) 3
def modeSat (mode : Word) (t : ElTy) : Bool := bit mode (8 * ElTy.group t + 3)
def modeFtzi (mode : Word) (t : ElTy) : Bool := bit mode (8 * ElTy.group t + 4)
def modeFtzo (mode : Word) (t : ElTy) : Bool := bit mode (8 * ElTy.group t + 5)

/-- The effective rounding of an operation: its rounding code as MODE has them, SAT and FTZO of the destination, the
random word of each element under SR (R58, R62). -/
structure Eff where
  rm : Nat
  sat : Bool
  ftzo : Bool
  rand : Nat → Nat

/-- The effective mode of a destination type under an override field and a force-saturate bit (R58). -/
def effOf (mode : Word) (t : ElTy) (override : Nat) (sat : Bool) (rand : Nat → Nat) : Eff :=
  ⟨if override = 0 then modeRnd mode t else override - 1, modeSat mode t || sat, modeFtzo mode t, rand⟩

/-- A result's bits with the flags that it raises. -/
structure FRes where
  bits : Nat
  ff : BitVec 5
  mf : BitVec 4
  deriving DecidableEq, Repr

/-- A result without flags. -/
def FRes.pure (x : Nat) : FRes := ⟨x, 0, 0⟩

/-- A result with further flags. -/
def FRes.flag (r : FRes) (f : BitVec 5) : FRes := { r with ff := r.ff ||| f }
def FRes.mflag (r : FRes) (f : BitVec 4) : FRes := { r with mf := r.mf ||| f }

/-! ## Philox (R63) -/

/-- Some rounds of Philox-4×32. -/
def philoxRounds : Nat → Nat → Nat → Nat × Nat × Nat × Nat → Nat × Nat × Nat × Nat
  | 0, _, _, c => c
  | n + 1, k0, k1, (c0, c1, c2, c3) =>
    let p0 := 0xD2511F53 * c0
    let p1 := 0xCD9E8D57 * c2
    philoxRounds n ((k0 + 0x9E3779B9) % 2 ^ 32) ((k1 + 0xBB67AE85) % 2 ^ 32)
      ((p1 >>> 32) ^^^ c1 ^^^ k0, p1 % 2 ^ 32, (p0 >>> 32) ^^^ c3 ^^^ k1, p0 % 2 ^ 32)

/-- Word 0 of Philox-4×32-10 (R63). -/
def philox (k0 k1 c0 c1 c2 c3 : Nat) : Nat := (philoxRounds 10 k0 k1 (c0, c1, c2, c3)).1

/-- The random word of element k under SR (R62). -/
def srWord (seed : Word) (wid : Word) (step k : Nat) : Nat :=
  philox (fld seed 0 32) (fld seed 32 32) (k % 2 ^ 32) step (fld wid 0 32) (fld wid 32 32)

/-! ## Rounding (R61, R62, R64) -/

/-- An exact magnitude to be rounded: sign, and m × 2^e, plus some positive amount below 2^e when `sticky`. -/
structure Exact where
  neg : Bool
  m : Nat
  e : Int
  sticky : Bool
  deriving DecidableEq, Repr

/-- Whether the magnitude q + (rem, sticky) / 2^sh is rounded up to q + 1 (R61, R62). -/
def roundsUp (rm : Nat) (neg : Bool) (q rem sh : Nat) (sticky : Bool) (rand : Nat) : Bool :=
  let inexact := rem ≠ 0 || sticky
  match rm with
  | 0 => decide (2 ^ sh < 2 * rem) || (2 * rem == 2 ^ sh && sh ≠ 0 && (sticky || q % 2 == 1))
  | 1 => false
  | 2 => neg && inexact
  | 3 => !neg && inexact
  | 4 => sh ≠ 0 && decide (2 ^ sh ≤ 2 * rem)
  | _ => inexact && decide (rand < rem * 2 ^ 32 / 2 ^ sh)

/-- What an overflow delivers (R61). -/
def Fmt.overflow (f : Fmt) (sat : Bool) (rm : Nat) (neg : Bool) : FRes :=
  let big := f.sign neg + f.maxBits
  if sat then ⟨big, fOF ||| fNX, mSATD⟩
  else
    let toMax := rm = 1 ∨ (rm = 2 ∧ !neg) ∨ (rm = 3 ∧ neg)
    ⟨if toMax then big else f.inf neg, fOF ||| fNX, 0⟩

/-- The bits of a finite magnitude q × 2^g that lies on the grid, q at most 2^(mbits + 1). -/
def Fmt.encode (f : Fmt) (neg : Bool) (q : Nat) (g : Int) : Nat :=
  f.sign neg +
    (if q < 2 ^ f.mbits then q
     else if q = 2 ^ (f.mbits + 1) then ((g + 1 + f.mbits + f.bias).toNat) * 2 ^ f.mbits
     else ((g + f.mbits + f.bias).toNat) * 2 ^ f.mbits + (q - 2 ^ f.mbits))

/-- An exact value rounded once into a format (R61, R62, R64); k is its element index. -/
def Fmt.round (f : Fmt) (eff : Eff) (k : Nat) (x : Exact) : FRes :=
  if x.m = 0 then FRes.pure (f.sign x.neg)
  else
    let top : Int := Nat.log2 x.m + x.e
    let g : Int := max top (1 - (f.bias : Int)) - f.mbits
    let sh : Nat := (g - x.e).toNat
    let q0 : Nat := if x.e ≤ g then x.m >>> sh else x.m <<< (x.e - g).toNat
    let rem : Nat := x.m % 2 ^ sh
    let inexact := rem ≠ 0 || x.sticky
    let q := if roundsUp eff.rm x.neg q0 rem sh x.sticky (eff.rand k) then q0 + 1 else q0
    if f.maxUnit < g ∨ (g = f.maxUnit ∧ f.maxSig < q) then f.overflow eff.sat eff.rm x.neg
    else if q < 2 ^ f.mbits then
      if eff.ftzo then ⟨f.sign x.neg, fUF ||| fNX, 0⟩
      else ⟨f.encode x.neg q g, if inexact then fUF ||| fNX else 0, 0⟩
    else ⟨f.encode x.neg q g, if inexact then fNX else 0, 0⟩

/-- A signed integer times 2^e as an exact value; zero takes the sign given. -/
def Exact.ofInt (zneg : Bool) (x : Int) (e : Int) : Exact :=
  if x = 0 then ⟨zneg, 0, e, false⟩ else ⟨decide (x < 0), x.natAbs, e, false⟩

/-- The signed integer of a finite value in units of 2^u, u at most its exponent. -/
def unitsOf (neg : Bool) (m : Nat) (e u : Int) : Int :=
  let x : Int := (m : Int) * (2 ^ (e - u).toNat : Nat)
  if neg then -x else x

/-! ## Arithmetic (R68, R134, R173) -/

/-- The sign of a zero sum of operands of these signs (R68). -/
def zeroSign (rm : Nat) (a b : Bool) : Bool := if a = b then a else rm == 2

/-- A NaN result, invalid if asked. -/
def Fmt.nanRes (f : Fmt) (nv : Bool) : FRes := ⟨f.nan, if nv then fNV else 0, 0⟩

/-- a + b (R68). -/
def Fmt.add (f : Fmt) (eff : Eff) (k : Nat) : FVal → FVal → FRes
  | .nan s, .nan t => f.nanRes (s || t)
  | .nan s, _ => f.nanRes s
  | _, .nan t => f.nanRes t
  | .inf a, .inf b => if a = b then FRes.pure (f.inf a) else f.nanRes true
  | .inf a, _ => FRes.pure (f.inf a)
  | _, .inf b => FRes.pure (f.inf b)
  | .fin a m e, .fin b n d =>
    let u := min e d
    f.round eff k (Exact.ofInt (zeroSign eff.rm a b) (unitsOf a m e u + unitsOf b n d u) u)

/-- The negative of a value. -/
def FVal.negate : FVal → FVal
  | .nan s => .nan s
  | .inf a => .inf !a
  | .fin a m e => .fin (!a) m e

/-- The exact product of two values; an invalid product is a signalling NaN, so that it raises NV. -/
def FVal.mul : FVal → FVal → FVal
  | .nan s, .nan t => .nan (s || t)
  | .nan s, _ => .nan s
  | _, .nan t => .nan t
  | .inf a, .inf b => .inf (a != b)
  | .inf a, .fin b n _ => if n = 0 then .nan true else .inf (a != b)
  | .fin a m _, .inf b => if m = 0 then .nan true else .inf (a != b)
  | .fin a m e, .fin b n d => .fin (a != b) (m * n) (e + d)

/-- A value rounded into a format. -/
def Fmt.ofVal (f : Fmt) (eff : Eff) (k : Nat) : FVal → FRes
  | .nan s => f.nanRes s
  | .inf a => FRes.pure (f.inf a)
  | .fin a m e => f.round eff k ⟨a, m, e, false⟩

/-- a × b (R68). -/
def Fmt.mul (f : Fmt) (eff : Eff) (k : Nat) (a b : FVal) : FRes := f.ofVal eff k (a.mul b)

/-- a × b + c, rounded once (R68). Whether ∞ × 0 with a quiet NaN c is an invalid operation IEEE 754-2019 leaves to the
implementation (log entry 14). -/
def Fmt.fma (f : Fmt) (eff : Eff) (k : Nat) (a b c : FVal) : FRes :=
  match a, b, c with
  | .inf _, .fin _ 0 _, .nan false => f.nanRes Config.fmaInvalid
  | .fin _ 0 _, .inf _, .nan false => f.nanRes Config.fmaInvalid
  | _, _, _ => f.add eff k (a.mul b) c

/-- The exact quotient of two finite magnitudes, to more bits than any format and SR need. -/
def quotient (neg : Bool) (m n : Nat) (e : Int) : Exact :=
  let up := Nat.log2 n + 96 - min (Nat.log2 m) (Nat.log2 n + 96)
  ⟨neg, (m * 2 ^ up) / n, e - up, (m * 2 ^ up) % n ≠ 0⟩

/-- a ÷ b (R68). -/
def Fmt.div (f : Fmt) (eff : Eff) (k : Nat) : FVal → FVal → FRes
  | .nan s, .nan t => f.nanRes (s || t)
  | .nan s, _ => f.nanRes s
  | _, .nan t => f.nanRes t
  | .inf _, .inf _ => f.nanRes true
  | .inf a, .fin b _ _ => FRes.pure (f.inf (a != b))
  | .fin a _ _, .inf b => FRes.pure (f.sign (a != b))
  | .fin a m e, .fin b n d =>
    if n = 0 then
      if m = 0 then f.nanRes true else (FRes.pure (f.inf (a != b))).flag fDZ
    else if m = 0 then FRes.pure (f.sign (a != b))
    else f.round eff k (quotient (a != b) m n (e - d))

/-- The integer square root of x below 4^n, by bits. -/
def isqrtBits : Nat → Nat → Nat → Nat
  | 0, _, r => r
  | n + 1, x, r => isqrtBits n x (if (r + 2 ^ n) * (r + 2 ^ n) ≤ x then r + 2 ^ n else r)

/-- The integer square root. -/
def isqrt (x : Nat) : Nat := isqrtBits (Nat.log2 x / 2 + 1) x 0

/-- The exact square root of a finite magnitude, to more bits than any format and SR need. -/
def rootOf (m : Nat) (e : Int) : Exact :=
  let up : Nat := if (e - 192) % 2 = 0 then 192 else 193
  let r := isqrt (m * 2 ^ up)
  ⟨false, r, (e - up) / 2, r * r ≠ m * 2 ^ up⟩

/-- √a (R68). -/
def Fmt.sqrt (f : Fmt) (eff : Eff) (k : Nat) : FVal → FRes
  | .nan s => f.nanRes s
  | .inf a => if a then f.nanRes true else FRes.pure (f.inf false)
  | .fin a m e =>
    if m = 0 then FRes.pure (f.sign a) else if a then f.nanRes true else f.round eff k (rootOf m e)

/-! ## Comparison, minimum and maximum (R135, R180) -/

/-- Whether a < b, for values that are no NaN; the zeros are equal. -/
def FVal.lt : FVal → FVal → Bool
  | .inf a, .inf b => a && !b
  | .inf a, _ => a
  | _, .inf b => !b
  | .fin a m e, .fin b n d => let u := min e d; decide (unitsOf a m e u < unitsOf b n d u)
  | _, _ => false

/-- Whether a value is a NaN, a signalling NaN, negative. -/
def FVal.isNan : FVal → Bool
  | .nan _ => true
  | _ => false
def FVal.isSnan : FVal → Bool
  | .nan s => s
  | _ => false
def FVal.neg : FVal → Bool
  | .nan _ => false
  | .inf a => a
  | .fin a _ _ => a

/-- Whether a is the lesser under the order in which −0 is below +0 (R135). -/
def FVal.below (a b : FVal) : Bool := a.lt b || (!b.lt a && a.neg && !b.neg)

/-- A comparison's truth and flags: 0 eq, 1 ne, 2 lt, 3 le, 4 gt, 5 ge, 6 unordered (R135, R180). -/
def fCompare (cond : Nat) (a b : FVal) : Bool × BitVec 5 :=
  let snan := a.isSnan || b.isSnan
  if a.isNan || b.isNan then
    (cond == 1 || cond == 6, if snan || (2 ≤ cond && cond ≤ 5) then fNV else 0)
  else
    (match cond with
     | 0 => !a.lt b && !b.lt a
     | 1 => a.lt b || b.lt a
     | 2 => a.lt b
     | 3 => !b.lt a
     | 4 => b.lt a
     | 5 => !a.lt b
     | _ => false, 0)

/-- The minimum or maximum of two values; both NaN gives a NaN (R135). -/
def FVal.pick (max_ : Bool) (a b : FVal) : FVal :=
  if a.isNan then b else if b.isNan then a
  else if max_ then (if a.below b then b else a) else (if a.below b then a else b)

/-- The minimum or maximum as a result of its format; exact, with FTZO (R135). -/
def Fmt.pick (f : Fmt) (ftzo max_ : Bool) (a b : FVal) : FRes :=
  let eff : Eff := ⟨1, false, ftzo, fun _ => 0⟩
  let r := FVal.pick max_ a b
  (f.ofVal eff 0 (if r.isNan then .nan false else r)).flag (if a.isSnan || b.isSnan then fNV else 0)

/-! ## Conversions (R65 to R67, R176) -/

/-- The floating-point to floating-point conversion (R65). -/
def Fmt.convert (f : Fmt) (eff : Eff) (k : Nat) : FVal → FRes
  | .nan s => f.nanRes s
  | .inf a =>
    if f.infs then FRes.pure (f.inf a)
    else if eff.sat then ⟨f.sign a + f.maxBits, 0, mSATD⟩ else f.nanRes true
  | .fin a m e => f.round eff k ⟨a, m, e, false⟩

/-- An exact value rounded to a whole number under a mode, and whether it was inexact (R66). -/
def roundInt (eff : Eff) (k : Nat) (x : Exact) : Int × Bool :=
  let sh : Nat := (-x.e).toNat
  let q0 : Nat := if x.e < 0 then x.m >>> sh else x.m * 2 ^ x.e.toNat
  let rem : Nat := if x.e < 0 then x.m % 2 ^ sh else 0
  let q := if roundsUp eff.rm x.neg q0 rem sh x.sticky (eff.rand k) then q0 + 1 else q0
  (if x.neg then -(q : Int) else q, rem ≠ 0 || x.sticky)

/-- An exact value into an integer type (R66). -/
def ElTy.ofExact (t : ElTy) (eff : Eff) (k : Nat) (x : Exact) : FRes :=
  let (q, inexact) := roundInt eff k x
  let nx := if inexact then fNX else 0
  if q < ElTy.minVal t ∨ ElTy.maxVal t < q then
    if eff.sat then ⟨(ElTy.clamp t q).1, fNV ||| nx, mSATD⟩ else ⟨wrap (8 * t.bytes) q, fNV ||| nx, 0⟩
  else ⟨wrap (8 * t.bytes) q, nx, 0⟩

/-- A value into an integer type (R66). -/
def ElTy.ofFVal (t : ElTy) (eff : Eff) (k : Nat) : FVal → FRes
  | .nan _ => ⟨0, fNV, 0⟩
  | .inf a =>
    ⟨wrap (8 * t.bytes) (if a then ElTy.minVal t else ElTy.maxVal t), fNV, if eff.sat then mSATD else 0⟩
  | .fin a m e => ElTy.ofExact t eff k ⟨a, m, e, false⟩

/-- A conversion of an element's bits between any two types under a MODE (R65 to R67). -/
def convertEl (mode : Word) (st dt : ElTy) (eff : Eff) (k : Nat) (x : Nat) : FRes :=
  if st.isInt then
    if dt.isInt then
      let v := ElTy.val st x
      if v < ElTy.minVal dt ∨ ElTy.maxVal dt < v then
        if eff.sat then ⟨(ElTy.clamp dt v).1, 0, mSATD⟩ else FRes.pure (wrap (8 * dt.bytes) v)
      else FRes.pure (wrap (8 * dt.bytes) v)
    else (ElTy.fmt dt).round eff k (Exact.ofInt false (ElTy.val st x) 0)
  else
    let v := (ElTy.fmt st).decodeIn (modeFtzi mode st) x
    if dt.isInt then ElTy.ofFVal dt eff k v else (ElTy.fmt dt).convert eff k v

/-! ## Block scales (R73) -/

/-- Whether an `f32` pattern is a valid block scale (R73). -/
def scaleOk (x : Nat) : Bool := !x.testBit 31 && 1 ≤ (x >>> 23) % 256 && (x >>> 23) % 256 ≤ 254

/-- The significand and exponent of a valid scale: m × 2^e. -/
def scaleVal (x : Nat) : Nat × Int := (x % 2 ^ 23 + 2 ^ 23, ((x >>> 23) % 256 : Nat) - 150)

end Sys2Proof.Machine
end

