-- ==== Sys2Proof/Machine/Special.lean ====
section
/-! DEFINITION. The special functions 0x28 to 0x2F (R174, R175). Special cases are exact. For every other source the part's
approximation g is a FREE VALUE held to the bound of R175 (log entry 7): the constant `Config.special` without a body
proposes a value, which stands where the bound admits it; the bound is checked against a fixed-point evaluation of
the function to about 100 bits. -/

namespace Sys2Proof.Machine

/-! ## Fixed-point evaluation, 128 fraction bits -/

/-- ln 2, 2π and π/2 with 128 fraction bits. -/
def fxLn2 : Int := 0xb17217f7d1cf79abc9e3b39803f2f6af
def fxTwoPi : Int := 0x6487ed5110b4611a62633145c06e0e689
def fxHalfPi : Int := 0x1921fb54442d18469898cc51701b839a2
def fxOne : Int := 2 ^ 128

/-- The Taylor sum of exp from term n on, t being term n. -/
def expTerms : Nat → Int → Int → Int → Int
  | 0, _, _, _ => 0
  | fuel + 1, y, n, t => t + expTerms fuel y (n + 1) (t * y / (2 ^ 128 * (n + 1)))

/-- exp y for 0 ≤ y ≤ 20. -/
def fxExp (y : Int) : Int := expTerms 110 y 0 fxOne

/-- The Taylor sum of sin from term n on, t being term n. -/
def sinTerms : Nat → Int → Int → Int → Int
  | 0, _, _, _ => 0
  | fuel + 1, y2, n, t => t + sinTerms fuel y2 (n + 2) (-(t * y2 / (2 ^ 128 * ((n + 1) * (n + 2)))))

/-- sin y. -/
def fxSin (y : Int) : Int :=
  let r := y % fxTwoPi
  sinTerms 40 (r * r / 2 ^ 128) 1 r

/-- The fraction bits of log2 m, for m in [1, 2). -/
def log2Bits : Nat → Int → Int → Int → Int
  | 0, _, _, acc => acc
  | fuel + 1, m, w, acc =>
    let s := m * m / 2 ^ 128
    if 2 * fxOne ≤ s then log2Bits fuel (s / 2) (w / 2) (acc + w) else log2Bits fuel s (w / 2) acc

/-- A finite magnitude in fixed point. -/
def fxOf (neg : Bool) (m : Nat) (e : Int) : Int :=
  let x : Int := if -128 ≤ e then (m : Int) * (2 ^ (e + 128).toNat : Nat) else (m : Int) / (2 ^ (-e - 128).toNat : Nat)
  if neg then -x else x

/-- The function's value at a finite nonzero source that is no special case, as an integer times a power of two. -/
def fnApprox (op : Nat) (neg : Bool) (m : Nat) (e : Int) : Int × Int :=
  let sg : Int := if neg then -1 else 1
  match op with
  | 0x28 => let q := quotient neg 1 m (-e); (sg * q.m, q.e)
  | 0x29 => let r := rootOf m e; let q := quotient false 1 r.m (-r.e); (q.m, q.e)
  | 0x2B =>
    let x := fxOf neg m e
    let i := x / fxOne
    (fxExp ((x - i * fxOne) * fxLn2 / 2 ^ 128), i - 128)
  | 0x2C =>
    let k : Int := Nat.log2 m
    let mant : Int := (m : Int) * 2 ^ 128 / (2 ^ k.toNat : Nat)
    ((k + e) * fxOne + log2Bits 90 mant (2 ^ 127) 0, -128)
  | 0x2D => (fxSin (fxOf neg m e), -128)
  | 0x2E => (fxSin (fxOf neg m e + fxHalfPi), -128)
  | _ =>
    let ex := fxExp (2 * fxOf false m e)
    (sg * ((ex - fxOne) * fxOne / (ex + fxOne)), -128)

/-- The `f32` format. -/
def fmt32 : Fmt := ElTy.fmt .f32

/-- The exponent of one unit in the last place of a finite `f32` pattern. -/
def ulpExp (y : Nat) : Int := max ((y >>> 23) % 256 : Nat) 1 - 150

/-- The accuracy bound of R175, as an integer times a power of two. -/
def boundOf (op : Nat) (neg : Bool) (m : Nat) (e : Int) (y : Nat) : Int × Int :=
  match op with
  | 0x28 | 0x29 => (1, ulpExp y)
  | 0x2B => (2, ulpExp y)
  | 0x2C =>
    if !(FVal.fin neg m e).lt (.fin false 1 (-1)) && !(FVal.fin false 2 0).lt (.fin neg m e) then (1, -22) else (2, ulpExp y)
  | 0x2D | 0x2E => if (FVal.fin false m e).lt (.fin false 32769 0) && !(FVal.fin false 32768 0).lt (.fin false m e) then (1, -21) else (2, 0)
  | _ => (1, -22)

/-- Whether the bound of a result is an absolute error (R175). -/
def boundAbsolute (op : Nat) (neg : Bool) (m : Nat) (e : Int) : Bool :=
  (op == 0x2C && !(FVal.fin neg m e).lt (.fin false 1 (-1)) && !(FVal.fin false 2 0).lt (.fin neg m e)) || decide (0x2D ≤ op)

/-- Whether a pattern is within the bound: finite, |y − f(x)| at most the bound (and a slack for the evaluation: 2^-60 of the value, and
2^-100 beside an absolute bound), and a sine or cosine in [−1, 1]. -/
def fnAdmits (op : Nat) (neg : Bool) (m : Nat) (e : Int) (y : Nat) : Bool :=
  match fmt32.decode y with
  | .fin yn ym ye =>
    let (a, ae) := fnApprox op neg m e
    let (b, be) := boundOf op neg m e y
    let u := min (min ye ae) (min be (-160))
    let at_ (x x' : Int) : Int := x * (2 ^ (x' - u).toNat : Nat)
    let ay := at_ a ae
    let slack := ay.natAbs / 2 ^ 60 + if boundAbsolute op neg m e then (at_ 1 (-100)).natAbs else 0
    decide ((unitsOf yn ym ye u - ay).natAbs ≤ (at_ b be).natAbs + slack)
      && !((op == 0x2D || op == 0x2E) && (FVal.fin false 1 0).lt (.fin false ym ye))
  | _ => false

/-- The nearest `f32` to the function's value. -/
def fnNearest (op : Nat) (neg : Bool) (m : Nat) (e : Int) : Nat :=
  let (a, ae) := fnApprox op neg m e
  (fmt32.round ⟨0, true, false, fun _ => 0⟩ 0 (Exact.ofInt false a ae)).bits

/-- The part's approximation g of a special function at a source that is no special case (R175). A power of a source of −256 or less is
within 2 ulp of 0, which is what those below 2^-149 come to. -/
def gOf (op : Nat) (src : Nat) (neg : Bool) (m : Nat) (e : Int) : Nat :=
  let y := (Config.special op (BitVec.ofNat 32 src)).toNat
  if op = 0x2B ∧ neg ∧ 8 ≤ (Nat.log2 m : Int) + e then (if y ≤ 2 then y else 0)
  else if fnAdmits op neg m e y then y else fnNearest op neg m e

/-- Whether a pattern is below the smallest normal number of a format in magnitude. -/
def Fmt.tiny (f : Fmt) (y : Nat) : Bool := decide (y % 2 ^ (f.ebits + f.mbits) < 2 ^ f.mbits)

/-- Whether g is the function's exact value: of the special functions' results outside R175's special cases, only the reciprocal of a power
of two can be. -/
def fnExact (op g : Nat) (neg : Bool) (m : Nat) (e : Int) : Bool :=
  op == 0x28 && m == 2 ^ Nat.log2 m
    && g == (fmt32.round ⟨1, false, false, fun _ => 0⟩ 0 ⟨neg, 1, -((Nat.log2 m : Int) + e), false⟩).bits

/-- A special function's result from g of its source (R174): rounded to the format, with NX; UF where what is delivered is tiny and not the
function's exact value (R64; DEDUCED, log entry 7). -/
def fnRound (f : Fmt) (eff : Eff) (k g : Nat) (exact : Bool) : FRes :=
  match fmt32.decode g with
  | .fin yn ym ye =>
    let r := f.round eff k ⟨yn, ym, ye, false⟩
    r.flag (if f.tiny r.bits && !(exact && r.ff = 0) then fUF ||| fNX else fNX)
  | w => (f.convert eff k w).flag fNX

/-- A special case's exact result (R175), if the source is one. -/
def fnSpecial (f : Fmt) (eff : Eff) (k op : Nat) : FVal → Option FRes
  | .nan s => some (f.nanRes s)
  | .inf a =>
    match op with
    | 0x28 => some (FRes.pure (f.sign a))
    | 0x29 => some (if a then f.nanRes true else FRes.pure 0)
    | 0x2B => some (FRes.pure (if a then 0 else f.inf false))
    | 0x2C => some (if a then f.nanRes true else FRes.pure (f.inf false))
    | 0x2D | 0x2E => some (f.nanRes true)
    | _ => some (f.round eff k ⟨a, 1, 0, false⟩)
  | .fin a m e =>
    if m = 0 then
      match op with
      | 0x28 => some ((FRes.pure (f.inf a)).flag fDZ)
      | 0x29 => some ((FRes.pure (f.inf a)).flag fDZ)
      | 0x2B => some (f.round eff k ⟨false, 1, 0, false⟩)
      | 0x2C => some ((FRes.pure (f.inf true)).flag fDZ)
      | 0x2D => some (FRes.pure (f.sign a))
      | 0x2E => some (f.round eff k ⟨false, 1, 0, false⟩)
      | _ => some (FRes.pure (f.sign a))
    else
      match op with
      | 0x29 => if a then some (f.nanRes true) else none
      | 0x2B =>
        if 0 ≤ e ∨ m % 2 ^ (-e).toNat = 0 then
          let i := unitsOf a m e (min e 0) / (2 ^ (-(min e 0)).toNat : Nat)
          some (f.round eff k ⟨false, 1, max (-100000) (min 100000 i), false⟩)
        else none
      | 0x2C =>
        if a then some (f.nanRes true)
        else if m = 2 ^ Nat.log2 m then some (f.round eff k (Exact.ofInt false (Nat.log2 m + e) 0)) else none
      | 0x2F => if (FVal.fin false m e).lt (.fin false 9 0) then none else some (f.round eff k ⟨a, 1, 0, false⟩)
      | _ => none

/-- Whether the exact value of a reciprocal or power exceeds every finite `f32`, so that it overflows (R61, R174). -/
def fnOverflows (op : Nat) (neg : Bool) (m : Nat) (e : Int) : Bool :=
  let (a, ae) := fnApprox op neg m e
  (op == 0x28 || op == 0x2B) && decide (128 ≤ (Nat.log2 a.natAbs : Int) + ae)

/-- A special function of an element after FTZI, as a result of its type (R174, R175). -/
def fnResult (f : Fmt) (eff : Eff) (k op : Nat) (v : FVal) : FRes :=
  if op = 0x2A then
    match fmt32.sqrt ⟨eff.rm, eff.sat, false, eff.rand⟩ k v with
    | r => (f.convert eff k (fmt32.decode r.bits)).flag r.ff
  else
    match fnSpecial f eff k op v with
    | some r => r
    | none =>
      match v with
      | .fin a m e =>
        if op = 0x2B && !a && decide (8 ≤ (Nat.log2 m : Int) + e) then f.overflow eff.sat eff.rm false
        else if !(op = 0x2B && a && decide (8 ≤ (Nat.log2 m : Int) + e)) && fnOverflows op a m e then f.overflow eff.sat eff.rm (a && op == 0x28)
        else
          let g := gOf op (fmt32.round ⟨1, false, false, fun _ => 0⟩ 0 ⟨a, m, e, false⟩).bits a m e
          fnRound f eff k g (fnExact op g a m e)
      | _ => f.nanRes false

end Sys2Proof.Machine
end

