-- ==== Sys2Proof/Machine/StreamState.lean ====
section
/-! DEFINITION. The state of a stream: a tile context, a wave, a supervisor core (chapters 01, 04, 06, 08, 11). Every
field is plain data. -/

namespace Sys2Proof.Machine

/-- The state of a token (R24), with what an ERROR recorded (R269) and the completion scope (R265). -/
inductive Token where
  | idle
  | pending
  | done (scope : Nat)
  | error (cause : BitVec 8) (tval : Word)
  deriving DecidableEq, Repr

/-- The code of a token state where one is stored (R262). -/
def Token.code : Token → Nat
  | .idle => 0 | .pending => 1 | .done _ => 2 | .error _ _ => 3

/-- One entry of a bypass latch; lost after a preemption (R93, R47). -/
structure LatchEntry where
  val : VWord
  lost : Bool
  deriving DecidableEq, Repr

/-- The latches of a context, most recent entry first (R93). -/
structure Latches where
  s : List LatchEntry
  va : List LatchEntry
  vb : List LatchEntry
  l : List LatchEntry
  c : List LatchEntry
  deriving DecidableEq, Repr

/-- Where a result goes: a register, an outbound queue, or the latch alone (R95). -/
inductive ResDest where
  | s (r : BitVec 6)
  | v (r : BitVec 6)
  | p (r : BitVec 4)
  | push (o : BitVec 2)
  | none
  deriving DecidableEq, Repr

/-- A result that has not landed: the context time from which it is visible, its bundle, its slot, where it goes, which
bytes (bits of a P register) it writes, its value, whether it enters the slot's latch, its flags (R8, R71, R93, R354).
A result whose context stands still is an entry of the shutter file. -/
structure Result where
  due : Nat
  seq : Nat
  slot : Slot
  dest : ResDest
  mask : PWord
  val : VWord
  latch : Bool
  nw : Bool
  ff : BitVec 5
  mf : BitVec 4
  deriving DecidableEq, Repr

/-- What a translation gives: the physical address and the leaf's rights, type, SYNCV, class and EMASK (R401, R402); `w` is W
with IMM = 0 (R404), `d` says that it may serve writes (R405). -/
structure Xl where
  pa : Nat
  r : Bool
  w : Bool
  x : Bool
  u : Bool
  em : Nat
  ty : Nat
  sync : Bool
  qos : Nat
  d : Bool
  deriving DecidableEq, Repr

/-- One element of an access: its number, its virtual address, its translation. -/
structure Elem where
  k : Nat
  va : Nat
  x : Xl
  deriving DecidableEq, Repr

/-- A load whose data has not returned: when its result is due, what it reads and where the bytes go (R204); `own` holds the bytes
of a V register that its path may write (R164). -/
structure Load where
  due : Nat
  seq : Nat
  dest : ResDest
  nw : Bool
  ty : ElTy
  lanewise : Bool
  own : PWord
  elems : List Elem
  strm : Bool
  deriving DecidableEq, Repr

/-- A line of a write buffer: the bytes that stores have written and not passed on (R208); whether of a WT page (R376), of a SYNCV
page (R392); the effective class of the last store (R393). -/
structure WbLine where
  line : Nat
  wt : Bool
  sync : Bool
  cls : Nat
  mask : PWord
  val : VWord
  deriving DecidableEq, Repr

/-- An attached sash (R311): the directory's die and entry, its rights, and where its pages lie. Its base has landed
(R308) from when it is reachable. -/
structure Attach where
  die : Bool
  entry : Nat
  name : Word
  rw : Bool
  space : Nat
  base : Nat
  pages : Nat
  landed : Bool
  deriving DecidableEq, Repr

/-- A command in an engine queue: the instruction with its fields, the staging registers of its engine as it read them at issue
(R23), the V registers of `rtrace` (R294), its lanes, level, address space (R300) and attached sashes (R314); whether it has started, whether
pieces of its writes are visible already (R32), and the clock from which it may complete; once its writes are done the completion scope that they wait for (R264); the error that ends it
at its next start (R270); entries or statuses so far; the other members of its collective (R285). -/
structure Command where
  op : Instr
  o : COp
  token : Nat
  cls : Nat
  ulic : Bool
  rel : Bool
  staging : List Word
  regs : List VWord
  lanes : Lanes
  priv : BitVec 2
  asid : BitVec 16
  seq : Nat
  attached : List Attach
  started : Bool
  shown : Bool
  due : Nat
  moved : Option Nat
  fail : Option (BitVec 8 × Word)
  info : List Nat
  members : List CollMember
  deriving DecidableEq, Repr

/-- A recoverable fault that a stream or an engine queue waits on (R361): its cause, address, access code and slot, the path of
a wave and the program counter that it records, and, once its record is posted, the resume value it waits for. -/
structure FaultWait where
  cause : BitVec 8
  va : Nat
  access : Nat
  slot : Nat
  lanes : Lanes
  pc : Word
  resume : Option (BitVec 16)
  deriving DecidableEq, Repr

/-- A pending counter-trigger ULI: the counter and the argument (R160). -/
structure Uli where
  ctr : Nat
  arg : Nat
  deriving DecidableEq, Repr

/-- A translation that a held bundle waits for (R347, R410): the address, whether for a write, the access code of its record
(R362), the raising slot, and on a wave the path. -/
structure Miss where
  va : Nat
  write : Bool
  code : Nat
  slot : Nat
  lanes : Lanes
  pc : Word
  deriving DecidableEq, Repr

/-- An `evwait` that waits: its counter and threshold, its path's program counter, whether the counter has reached the
threshold since (R158, R159). -/
structure Await where
  ctr : Nat
  thr : Word
  pc : Word
  hit : Bool
  deriving DecidableEq, Repr

/-- A `tlbi` that has issued and not completed: its kind, reach, address and ASID (R151). -/
structure TlbiWait where
  kind : Nat
  reach : Nat
  va : Nat
  asid : BitVec 16
  deriving DecidableEq, Repr

/-- A `bar` that the bundle at a program counter has arrived in, by its barrier and the number of its arrival (R229); none while
the wave has not arrived. -/
structure BarWait where
  pc : Word
  id : Nat
  ticket : Option Nat
  deriving DecidableEq, Repr

/-- The threads of a wave that have reached a barrier in its present arrival (R221), the n that the first of them named,
whether a `barph.arrive` is among them. -/
structure Reached where
  lanes : Lanes
  n : Nat
  ph : Bool
  deriving DecidableEq, Repr

/-- A value to land at a bundle boundary after a token: the base that `sopen` or `satt` returns (R308), a failure
predicate (R313). -/
structure BaseLand where
  seq : Nat
  dest : ResDest
  val : Word
  name : Word
  deriving DecidableEq, Repr

/-- The CSRs that a stream holds (R40). -/
structure Csrs where
  priv : BitVec 2
  uie : Bool
  inuli : Bool
  llost : Bool
  insvc : Bool
  qown : Bool
  mode : Word
  fflags : BitVec 5
  srstep : BitVec 32
  mflags : BitVec 4
  cause : BitVec 16
  epc : Word
  tval : Word
  uvec : BitVec 42
  uepc : Word
  lmask : Lanes
  seed : Word
  wid : Word
  widf : BitVec 48
  freezeCl : BitVec 32
  freezeAll : BitVec 32
  fair : BitVec 13
  lstkBase : BitVec 48
  lstkDepth : BitVec 12
  wbwin : BitVec 16
  abwin : BitVec 16
  kbwin : BitVec 16
  gswin : BitVec 17
  asid : BitVec 16
  deriving DecidableEq, Repr

/-- The threads of a wave (R13 to R17, R139 to R142): which exist and are active (not halted), which are suspended, their
program counters, their return stacks (top first) and spilled counts, the wait count of each path by its program
counter, what `yieldp` and `join` asked for, and the lanes that wait in `wfi`. -/
structure Threads where
  exist : Lanes
  active : Lanes
  suspended : Lanes
  pcs : File 5 Word
  chip : File 5 (List Word)
  spill : File 5 Nat
  waits : Table Word Nat
  first : Option Word
  yielded : List Word
  lowest : Bool
  wfi : Lanes
  regs : Nat
  deriving DecidableEq, Repr

/-- Why a stream does not issue (R9, R149, R150, R360, R361, R366): it has not been released yet (R437), it has been saved. -/
inductive Stop where
  | running
  | halted
  | wfi
  | debug
  | fault (w : FaultWait)
  | staged
  | saved
  deriving DecidableEq, Repr

/-- The unit of work that a stream runs (R38, R430): queue, record, unit (gang or group) and member (core-task or wave). -/
structure Job where
  queue : Nat
  record : Nat
  unit : Nat
  member : Nat
  deriving DecidableEq, Repr

/-- A stream. -/
structure Stream where
  /-- S, V and P registers (R19) and the two shadow sets of s56 to s63 (R22). -/
  s : File 6 Word
  v : File 6 VWord
  p : File 4 PWord
  uliSet : File 3 Word
  svcSet : File 3 Word
  /-- Program counter of a tile context or supervisor core, in bundles (R85). -/
  pc : Word
  csr : Csrs
  thr : Threads
  latches : Latches
  /-- Staging registers that are not zero, at 16 × engine + index (R153). -/
  staging : Table Nat Word
  tokens : Table Nat Token
  queues : Table Nat (List Command)
  /-- Tokens whose completion ULI is pending, and pending counter-trigger ULIs, oldest first (R359). -/
  tokenUlis : List (Nat × Nat)
  ulis : List Uli
  /-- Context time (R7), bundles issued, idle cycles left (R89). -/
  time : Nat
  seq : Nat
  idle : Nat
  /-- Results that have not landed, loads and returned values outstanding (R8, R204, R212). -/
  pend : List Result
  loads : List Load
  returns : List Result
  bases : List BaseLand
  wbuf : List WbLine
  attached : List Attach
  /-- Per barrier, the number of the latest `barph.arrive` (R222); the `bar`s that presented bundles have arrived in (R229); of
  a wave, the threads that have reached each barrier (R221). The next bundle waits for the
  acknowledgements of a fence at a scope, 8 for every acknowledgement (R223, R333). -/
  arrived : Table Nat Nat
  waiting : List BarWait
  reached : Table Nat Reached
  fenced : Option Nat
  awaits : List Await
  stop : Stop
  /-- Faults that engine queues wait on (R270); the widest completion scope among each queue's completed commands (R266). -/
  faultQ : Table Nat FaultWait
  widest : Table Nat Nat
  /-- Requests that wait for a boundary (R360). -/
  preempt : Option Requester
  debugReq : Bool
  /-- The presented bundle is the resumed SB bundle of a restore, or waits in a hold (R9). -/
  held : Bool
  /-- The sash directory was asked for the held bundle (R305) and answers at this logical time; it has answered. -/
  dirAsk : Option (BitVec 48)
  dirAns : Bool
  /-- The translation that the held bundle waits for. -/
  miss : Option Miss
  tlbiWait : List TlbiWait
  cmaintWait : Bool
  /-- What the stream runs, its launch's requester class (R393), the image's base address on shader and supervisor
  cores (R85), CYCLE at the start of its residence (R372). -/
  job : Option Job
  cls : Nat
  image : BitVec 48
  since : Nat
  deriving DecidableEq, Repr

/-- The state of a token (R262); what has not been set is IDLE. -/
def Stream.token (x : Stream) (t : Nat) : Token := Table.get .idle x.tokens t

/-- Whether a returned base or failure predicate may land: its token is no longer PENDING (R308, R313). -/
def Stream.mayLand (x : Stream) (b : BaseLand) : Bool := !x.queues.any fun q => q.2.any fun c => decide (c.seq = b.seq)

/-! ## Launch values (R426, R42 to R46, R56) -/

/-- The CSRs at context or wave launch, for what the launch does not set. -/
def Csrs.launch : Csrs :=
  { priv := 0, uie := false, inuli := false, llost := false, insvc := false, qown := false,
    mode := 0x0800000008000000, fflags := 0, srstep := 0, mflags := 0, cause := 0, epc := 0, tval := 0, uvec := 0,
    uepc := 0, lmask := 0, seed := 0, wid := 0, widf := 0, freezeCl := 0, freezeAll := 0, fair := 64, lstkBase := 0,
    lstkDepth := 0, wbwin := 0, abwin := 0, kbwin := 0, gswin := 0, asid := 0 }

/-- Latches that all hold zero (R93). -/
def Latches.zero : Latches :=
  let e : List LatchEntry := List.replicate 4 ⟨0, false⟩
  ⟨e, e, e, e, e⟩

/-- Latches that are all lost (R47). -/
def Latches.lost : Latches :=
  let e : List LatchEntry := List.replicate 4 ⟨0, true⟩
  ⟨e, e, e, e, e⟩

/-- No threads. -/
def Threads.none : Threads :=
  { exist := 0, active := 0, suspended := 0, pcs := File.fill 5 0, chip := File.fill 5 [], spill := File.fill 5 0,
    waits := [], first := Option.none, yielded := [], lowest := false, wfi := 0, regs := 64 }

/-- A stream with nothing set by a launch. -/
def Stream.launch : Stream :=
  { s := File.fill 6 0, v := File.fill 6 0, p := File.fill 4 0, uliSet := File.fill 3 0, svcSet := File.fill 3 0, pc := 0,
    csr := Csrs.launch, thr := Threads.none, latches := Latches.zero, staging := [], tokens := [], queues := [],
    tokenUlis := [], ulis := [], time := 0, seq := 0, idle := 0, pend := [], loads := [], returns := [], bases := [],
    wbuf := [], attached := [], arrived := [], waiting := [], reached := [], fenced := none, awaits := [],
    stop := .running, faultQ := [], widest := [], preempt := none,
    debugReq := false, held := false, dirAsk := none, dirAns := false, miss := none, tlbiWait := [],
    cmaintWait := false, job := none, cls := 7,
    image := 0, since := 0 }

end Sys2Proof.Machine
end

