-- ==== Sys2Proof/Machine/MemState.lean ====
section
/-! DEFINITION. The state of the cores beside their streams, and of the memory system: typed buffers, queues, flags,
the matrix arrays, caches, directory, translation, counters and fault rings (chapters 01, 07, 10 to 13). -/

namespace Sys2Proof.Machine

/-! ## Cores -/

/-- An element of a long-accumulator tile (R77): its 640 bits and sideband bits PINF, NINF, NAN in bits 0, 1, 2. -/
structure Lacc where
  val : BitVec 640
  tags : BitVec 3
  deriving DecidableEq, Repr

/-- Who holds a typed-buffer page: a context's window by its job, or a sash by directory die and entry (R302, R437). -/
inductive PageOwner where
  | free
  | window (j : Job)
  | sash (die : Bool) (entry : Nat)
  deriving DecidableEq, Repr

/-- A region that an M operation reads (R234, R235): the stream whose it is, its space (0 W, 1 A, 2 memory), the addresses of its
rows, their bytes, the pages of memory with their translations, and the bytes as they were at issue. -/
structure MatRegion where
  st : StreamId
  space : Nat
  rows : List Nat
  len : Nat
  pages : List Elem
  bytes : List Byte
  deriving DecidableEq, Repr

/-- The scales that an M operation read (R236): A's by row and K block, B's by N-tile and K block; none without SCL. -/
structure MatScales where
  a : List Nat
  b : List Nat
  deriving DecidableEq, Repr

/-- What an M operation does to its tile at the end of its occupancy: products of A and B, each in one region or two halves
(R240), with the index bytes of `mmas`; the tile cleared; its tags loaded; nothing. -/
inductive ArrayWork where
  | products (o : MOp) (a b : List MatRegion) (index : Option MatRegion) (sc : Option MatScales) (p7 ftza ftzb : Bool)
  | zero (tile : Nat)
  | tags (tile : Nat) (image : List Byte)
  | drain (tile : Nat)
  deriving DecidableEq, Repr

/-- What a core receives of a cooperative operation (R241): from which core, the array clocks that core had worked before the common
issue, the clocks of its occupancy, whether its half comes first in K. -/
structure Feed where
  core : Nat
  start : Nat
  clocks : Nat
  deriving DecidableEq, Repr

/-- What the matrix array runs (R230, R231): the stream, the array clocks that it takes and those left, the work, the flags besides its
own, the context's time at which its flags are delivered (R71, R354), what it waits for of other cores. -/
structure Occupancy where
  st : StreamId
  clocks : Nat
  left : Nat
  work : ArrayWork
  mf : BitVec 4
  due : Nat
  feeds : List Feed
  deriving DecidableEq, Repr

/-- What the drain unit's commit buffer holds of an operation (R251, R252, R357): the context's time at which its writes are
committed, which are bytes by address in a space (0 W, 1 A, 2 memory with the pages' translations); the tile whose tags it loads. -/
structure Drain where
  st : StreamId
  due : Nat
  space : Nat
  size : Nat
  writes : List (Nat × Nat)
  pages : List Elem
  tags : Option Nat
  deriving DecidableEq, Repr

/-- An entry of a reservation table (R213, R216): the thread (a lane of a wave), its granule, its age in core clocks, the
place that watches it (R383). -/
structure Reservation where
  st : StreamId
  lane : Nat
  granule : Nat
  made : Nat
  place : Nat
  deriving DecidableEq, Repr

/-- A line of an L1 data cache (R374, R379, R409), with SYNCV of its page (R392). -/
structure L1Line where
  vline : Nat
  asid : BitVec 16
  pline : Nat
  data : VWord
  r : Bool
  w : Bool
  x : Bool
  u : Bool
  em : Bool
  ty : Nat
  sync : Bool
  qos : Nat
  stamp : BitVec 16
  epoch : Bool
  deriving DecidableEq, Repr

/-- A line of an instruction cache of a shader or supervisor core: virtual line with ASID, and its bytes (R374, R152). -/
structure ILine where
  vline : Nat
  asid : BitVec 16
  data : VWord
  u : Bool
  deriving DecidableEq, Repr

/-- The state that every core has: the vector base, the current limit and window (R257), the currents of the last clocks,
newest first (R256), the page-table base (R399), the clock count CYCLE (R41), the reservation table (R213), the L1. -/
structure Common where
  svec : BitVec 42
  curlim : BitVec 16
  curwin : BitVec 8
  currents : List Nat
  ptbase : BitVec 52
  cycle : Word
  reservations : List Reservation
  l1 : List L1Line
  icache : List ILine
  deriving DecidableEq, Repr

/-- A tile core beside its contexts: queues Q0 to Q7 (R27), O0 to O2 with the tile clock of each push, sync flags (R28) and
those under way with the clock of their `flagset` (R227), the banks and what they hold
(R34), the typed buffers (R29, R30) with page owners (R437) and last writers (R488), the array, the array clocks for
which the drain unit is still busy and its commit buffer (R230, R357); the array clocks worked since reset, and as they were at the start
of the tile clock; `coop` holds the operands of a cooperative `mma` that may issue in this clock, and what they wait for (R241). -/
structure TileCore where
  com : Common
  inq : File 3 (List VWord)
  outq : File 2 (List (VWord × BitVec 48))
  flags : BitVec 32
  flagSets : List (Nat × BitVec 48)
  bank0 : BitVec 2
  bank1 : BitVec 2
  banks : Table (Nat × Nat) Bundle
  wbuf : List Host.Cell
  abuf : List Host.Cell
  kbuf : Table Nat Lacc
  owners : Table (Nat × Nat) PageOwner
  writers : Table (Nat × Nat) (BitVec 16)
  array : Option Occupancy
  drain : Nat
  commits : List Drain
  worked : Nat
  workedAt : Nat
  coop : Option (List MatRegion × List MatRegion × List Feed)
  deriving DecidableEq, Repr

/-- A shader core beside its waves: the group store and its allocations in KiB by job (R33), the partitions' round-robin
pointers (R49), the first partition offered (R256), CURLIM and CURWIN as they stand in the clock (R257), victim tags and scores of
each wave (R436). -/
structure ShaderCore where
  com : Common
  gs : List Host.Cell
  gsOwners : List (Nat × Nat × Job)
  gsWriters : Table Nat (BitVec 16)
  turn : File 2 Nat
  first : Nat
  lim : BitVec 16
  len : BitVec 8
  victims : Table Nat (List (Nat × BitVec 16))
  scores : Table Nat Nat
  deriving DecidableEq, Repr

/-- A supervisor core beside its stream. -/
structure SuperCore where
  com : Common
  deriving DecidableEq, Repr

/-- An arrival at a barrier: who, the n that it names, its number at the barrier. -/
structure Arrival where
  st : StreamId
  n : Nat
  ticket : Nat
  deriving DecidableEq, Repr

/-- A barrier (R221): its phase, the arrivals of its current instance, the first of which gives the instance's n, those that
belong to later instances in order, and the number of the next arrival. -/
structure Barrier where
  phase : Bool
  arrivals : List Arrival
  next : List Arrival
  tick : Nat
  deriving DecidableEq, Repr

/-! ## Caches and the directory -/

/-- A line of a cluster cache: the bytes present and the dirty ones (R378), its fill stamp (R379), SYNCV of the page it was
written through (R392), the effective class of its last store (R393). -/
structure ClLine where
  line : Nat
  data : VWord
  valid : PWord
  dirty : PWord
  sync : Bool
  cls : Nat
  stamp : BitVec 16
  epoch : Bool
  deriving DecidableEq, Repr

/-- The states of a line in a die L2 or supervisor L2 (R374). -/
inductive Moesi where
  | m | o | e | s
  deriving DecidableEq, Repr

/-- A line of a caching agent (R384). -/
structure AgentLine where
  agent : Nat
  line : Nat
  st : Moesi
  data : VWord
  deriving DecidableEq, Repr

/-- The states of a directory entry (R385, R388). -/
inductive DirState where
  | u | s | e | o | b
  deriving DecidableEq, Repr

/-- A directory entry (R385). -/
structure DirEntry where
  st : DirState
  coarse : Bool
  nptr : Nat
  owner : BitVec 8
  sharers : BitVec 64
  age : Nat
  deriving DecidableEq, Repr

/-- A line of a base die's system cache (R374, R396): the class that allocated it, whether LPDDR-6 lacks its bytes. -/
structure L3Line where
  line : Nat
  cls : Nat
  dirty : Bool
  deriving DecidableEq, Repr

/-- A pin of `pfb` (R280, R281): its level, the die or slice that holds it, the line, the ASID, the class. -/
structure Pin where
  level : Nat
  die : Bool
  line : Nat
  asid : BitVec 16
  cls : Nat
  deriving DecidableEq, Repr

/-! ## Translation (R398 to R410) -/

/-- A cached translation: the page's first virtual address and its size in bytes, the ASID, the leaf (R401); `d` says
whether it may serve writes (R405). -/
structure TlbEntry where
  va : Nat
  size : Nat
  asid : BitVec 16
  leaf : Word
  d : Bool
  deriving DecidableEq, Repr

/-- A pointer entry of a walk cache: the ASID, the level of the table it points to, the address bits above, the entry. -/
structure WalkPtr where
  asid : BitVec 16
  level : Nat
  pre : Nat
  entry : Word
  deriving DecidableEq, Repr

/-- Who waits for a walk: a stream's held bundle; a command of an engine queue, or the read or write of a sash's region, each with its address
and access code (R270, R410). -/
inductive WalkWaiter where
  | stream (st : StreamId)
  | engine (st : StreamId) (queue va access : Nat)
  | sash (key va access : Nat)
  deriving DecidableEq, Repr

/-- A walk in flight (R410): the TLB it fills, the page, whether for a write, whether for a fetch, its requesters in order; killed by
`tlbi`. -/
structure Walk where
  tlb : Nat
  asid : BitVec 16
  page : BitVec 36
  write : Bool
  fetch : Bool
  waiters : List WalkWaiter
  killed : Bool
  deriving DecidableEq, Repr

/-- A tier-object request in service or waiting (R414): the object's table index, the target place, whether an evict,
who asked (a stream's queue; none for a move of the sequencer's own, on the die of `st`), the class of its accesses (R393), the frames
taken, whether its copy is under way and the logical time from which it may complete. -/
structure TierReq where
  obj : Nat
  place : Nat
  module_ : Nat
  dev : Nat
  evict : Bool
  st : StreamId
  queue : Option Nat
  cls : Nat
  frames : List Nat
  active : Bool
  due : Nat
  deriving DecidableEq, Repr

/-! ## Counters and faults -/

/-- A counter's trigger (R160), with the core-task that a kind 1 target is bound to and how often that had been rerun at the arm. -/
structure Trigger where
  threshold : Word
  kind : Nat
  target : Nat
  asid : BitVec 16
  job : Option Job
  run : Nat
  deriving DecidableEq, Repr

/-- An agent that faults: a stream or an engine queue (R362). -/
structure FaultAgent where
  st : StreamId
  queue : Option Nat
  deriving DecidableEq, Repr

/-- A fault record that waits for room in its die's ring (R363). -/
structure FaultRecord where
  agent : FaultAgent
  cause : BitVec 8
  va : Nat
  asid : BitVec 16
  access : Nat
  ltime : BitVec 48
  deriving DecidableEq, Repr

/-- The memory system and what hangs on it. -/
structure MemSys where
  /-- The bytes at home (R447), in canonical form: addresses rising, no byte 0 listed. -/
  mem : List Host.Cell
  poison : List Nat
  clusters : Table Nat (List ClLine)
  retained : List Nat
  partials : Table (Nat × Nat) VWord
  ranges : File 4 (Word × Word)
  /-- OWN: the effective class of the access being performed (R393). -/
  cls : Nat
  lines : List AgentLine
  /-- The supervisor cluster caches: clean victims of the private L2s, oldest first (R374). -/
  victims : List AgentLine
  dir : Table Nat DirEntry
  allocs : Nat
  owed : Table Nat Nat
  present : List Nat
  pins : List Pin
  /-- The system caches, least recently used line first (R396). -/
  l3 : List L3Line
  buckets : Table (Bool × Nat) Nat
  clusterTlbs : Table Nat (List TlbEntry)
  dieTlbs : Table Bool (List TlbEntry)
  superTlbs : Table Nat (List TlbEntry)
  /-- The supervisor cores' first-level TLBs: of instructions (true) and of data (R408). -/
  superFirst : Table (Nat × Bool) (List TlbEntry)
  walkCaches : Table Nat (List WalkPtr)
  walks : List Walk
  tier : List TierReq
  lclock0 : BitVec 16
  lclock1 : BitVec 16
  epoch0 : Bool
  epoch1 : Bool
  counters : Table Nat Word
  owners : Table Nat (BitVec 16)
  triggers : Table Nat Trigger
  delayed : List (Nat × Trigger)
  waitingFaults : List FaultRecord
  resumes : Table FaultAgent (BitVec 16)
  heads : Table Bool (BitVec 32)
  deriving DecidableEq, Repr

/-! ## Reset values -/

/-- The state of a core at module reset, with its SVEC (R353). -/
def Common.reset (svec : BitVec 42) : Common :=
  { svec := svec, curlim := 96, curwin := 64, currents := [], ptbase := 0, cycle := 0, reservations := [], l1 := [],
    icache := [] }

/-- A tile core at module reset. -/
def TileCore.reset : TileCore :=
  { com := Common.reset 3840, inq := File.fill 3 [], outq := File.fill 2 [], flags := 0, flagSets := [], bank0 := 0, bank1 := 1,
    banks := [], wbuf := [], abuf := [], kbuf := [], owners := [], writers := [], array := none, drain := 0, commits := [],
    worked := 0, workedAt := 0, coop := none }

/-- A shader core at module reset. -/
def ShaderCore.reset : ShaderCore :=
  { com := Common.reset 0, gs := [], gsOwners := [], gsWriters := [], turn := File.fill 2 0, first := 0, lim := 96,
    len := 64, victims := [], scores := [] }

/-- A supervisor core at module reset. -/
def SuperCore.reset : SuperCore := { com := Common.reset 0 }

/-- A barrier at reset. -/
def Barrier.reset : Barrier := { phase := false, arrivals := [], next := [], tick := 0 }

/-- The memory system at module reset: nothing listed, every cache empty. The agents present are the die L2s and the
supervisor cores (R384). -/
def MemSys.reset : MemSys :=
  { mem := [], poison := [], clusters := [], retained := [], partials := [],
    ranges := File.fill 4 (0, 0), cls := 7, lines := [], victims := [], dir := [], allocs := 0, owed := [],
    present := [0, 1] ++ (List.range 32).map (0x10 + ·), pins := [], l3 := [], buckets := [], clusterTlbs := [],
    dieTlbs := [], superTlbs := [], superFirst := [], walkCaches := [], walks := [], tier := [], lclock0 := 0, lclock1 := 0,
    epoch0 := false, epoch1 := false, counters := [], owners := [], triggers := [], delayed := [], waitingFaults := [],
    resumes := [], heads := [] }

end Sys2Proof.Machine
end

