-- ==== Sys2Proof/Machine/SchedState.lean ====
section
/-! DEFINITION. The state of the Burbel sequencers: sash directories (chapter 09), queues, slots, launches, parked and
requeued tasks, save areas (chapter 14), with the remote launches and collectives that the engines have under way. -/

namespace Sys2Proof.Machine

/-- The states of a sash (R304). -/
inductive SashState where
  | free | resident | evicting | evicted | restoring | dead
  deriving DecidableEq, Repr

/-- An entry of a sash directory (R303), with the task that created it (R317), and what a creation, move, restore or eviction under
way needs (R304): the core and first page it goes to, whether it is a move or a creation, the command it serves, whether the
sequencer started it and for which request, the logical time from which it may complete, whether its bytes are written, whether it is
to be dropped then. -/
structure SashEntry where
  name : Word
  st : SashState
  cls : BitVec 2
  space : BitVec 2
  pages : BitVec 8
  core : BitVec 6
  base : BitVec 8
  backing : BitVec 48
  asid : BitVec 16
  gen : BitVec 32
  attach : BitVec 9
  rwh : Bool
  creator : BitVec 32
  lastrel : BitVec 48
  advanced : Bool
  toCore : BitVec 6
  toBase : BitVec 8
  moving : Bool
  creating : Bool
  client : Option (StreamId × Nat)
  own : Bool
  request : Nat
  due : Nat
  wrote : Bool
  dropping : Bool
  maker : Option Job
  deriving DecidableEq, Repr

/-- A unit that is on cores: its streams by member, which have ended, whether one failed; for a gang the dies that
have reported ready (R437), the last report's logical time, and the release time. -/
structure Placed where
  unit : Nat
  members : List (Nat × StreamId)
  ended : List Nat
  failed : Bool
  ready0 : Bool
  ready1 : Bool
  lastReady : BitVec 48
  release : Option (BitVec 48)
  deriving DecidableEq, Repr

/-- The 256 bytes of a launch record, as 32 words (R422). -/
abbrev Rec := File 5 Word

/-- The values of a raster descriptor (R296). -/
structure Raster where
  width : Nat
  height : Nat
  prims : Nat
  verts : Nat
  deriving DecidableEq, Repr

/-- A record that has begun (R430), with the copy in the slot (R431): STATE, CODE of the first failure, NEXT, DONE, the
number of units, those on cores, the reruns each member has had (R441), whether ENDCTR passed R439; the sections of its image by
offset and length (R425), its raster descriptor; the attachments that its ended contexts still hold (R317); the logical time at
which its groups became resident, and whether its dispatch has stopped for the budget (R372) or a preemption (R365). -/
structure Launch where
  queue : Nat
  record : BitVec 32
  copy : Rec
  asid : BitVec 16
  st : Nat
  code : Option (BitVec 8)
  next : Nat
  done : Nat
  units : Nat
  placed : List Placed
  reruns : Table (Nat × Nat) Nat
  endOk : Bool
  order : Nat
  sections : List (Nat × Nat)
  raster : Option Raster
  held : List Attach
  since : Option Nat
  paused : Bool
  deriving DecidableEq, Repr

/-- Why a task stands at the head of its queue (R372, R441, R442): saved in an area, to rerun (on a core, where it is tied
to one), discarded when parked. -/
inductive Requeued where
  | saved (area : Nat)
  | rerun (core : Option Nat)
  | discarded
  deriving DecidableEq, Repr

/-- A hardware queue slot of the device (R431): the queue, when it was mapped, when it last placed a group, PRIO of the record
that last stood at DISP. -/
structure QSlot where
  queue : Nat
  mapped : Nat
  placedAt : BitVec 48
  prio : Nat
  deriving DecidableEq, Repr

/-- A save area in use (R370, R434): the queue, the area's number, the core, the task with its context as it was saved, and with
it the core's queues where it owned them (R367) and the core's flags. -/
structure SaveArea where
  queue : Nat
  area : Nat
  core : Nat
  job : Job
  stream : Stream
  inq : File 3 (List VWord)
  outq : File 2 (List (VWord × BitVec 48))
  flags : BitVec 32
  deriving DecidableEq, Repr

/-- A preloaded task (R442): its core, its job, the windows it has (W, A, K as first page and pages). -/
structure Parked where
  core : Nat
  job : Job
  w : Nat × Nat
  a : Nat × Nat
  k : Nat × Nat
  deriving DecidableEq, Repr

/-- A remote launch sent (R290): the serial number, the stream and its address space, where the end is reported: the status
word's translation, if there is one, the counter and the increment. -/
structure RemoteSent where
  serial : Nat
  st : StreamId
  asid : BitVec 16
  rstat : Option Xl
  ctr : Nat
  inc : Word
  deriving DecidableEq, Repr

/-- A remote launch received (R290): the peer, its serial number, the record it became. -/
structure RemoteRun where
  peer : Nat
  serial : Nat
  queue : Nat
  record : BitVec 32
  deriving DecidableEq, Repr

/-- The sequencers: the sash directories by key; by queue the TAIL that the last doorbell brought (R429), the slots by number,
since when each waiting queue waits (R432), how many queues have been mapped and the last; the launches that have not ended, the
tasks at the heads of their queues, the save areas in use, the preloaded tasks, the queues being unmapped with the class that
reclaims (R434), the records to be cancelled (R432), the records that have ended and that HEAD has not passed (R430), the queue
that last placed a group (R435); streams whose task has ended by a cause and that wait for their engine commands, with whether a
rerun is asked and the cause (R441); remote launches sent, running, arriving, and the next serial number (R290); the sashes that a
request found faulting (R318); a count that orders launches and sash commands. -/
structure Sched where
  sashes : Table Nat SashEntry
  tails : Table Nat (BitVec 32)
  slots : Table Nat QSlot
  waits : Table Nat (BitVec 48)
  mapCount : Nat
  lastMapped : Nat
  launches : List Launch
  requeued : List (Job × Requeued)
  saves : List SaveArea
  parked : List Parked
  draining : List (Nat × Nat)
  cancels : List (Nat × BitVec 32)
  finals : List (Nat × BitVec 32)
  lastPlaced : Nat
  ending : List (StreamId × Bool × Nat)
  sent : List RemoteSent
  received : List RemoteRun
  arriving : List RemoteLaunch
  serials : Nat
  faulted : List (Nat × Nat)
  order : Nat
  deriving DecidableEq, Repr

/-- The sequencers at module reset: no sash, no queue mapped, nothing begun. -/
def Sched.reset : Sched :=
  { sashes := [], tails := [], slots := [], waits := [], mapCount := 0, lastMapped := 65535, launches := [],
    requeued := [], saves := [], parked := [], draining := [], cancels := [], finals := [], lastPlaced := 65535,
    ending := [], sent := [], received := [], arriving := [], serials := 0, faulted := [], order := 0 }

/-- A directory entry that holds nothing. -/
def SashEntry.none : SashEntry :=
  { name := 0, st := .free, cls := 0, space := 0, pages := 0, core := 0, base := 0, backing := 0, asid := 0, gen := 0,
    attach := 0, rwh := false, creator := 0, lastrel := 0, advanced := false, toCore := 0, toBase := 0, moving := false,
    creating := false, client := Option.none, own := false, request := 0, due := 0, wrote := false, dropping := false,
    maker := Option.none }

end Sys2Proof.Machine
end

