-- ==== Sys2Proof/Machine/HostState.lean ====
section
/-! DEFINITION. The state at the part's edges: host ports, Kwaol ports, the event recorder, boot, power (chapter 15). -/

namespace Sys2Proof.Machine

/-- A context of a virtio-gpu device and the ASID that a grant bound it to (R451). -/
structure GpuContext where
  id : Nat
  asid : Option (BitVec 16)
  deriving DecidableEq, Repr

/-- How a submission's latest command answered (R451). -/
inductive Submission where
  | none | ok | invalidContext | invalidParameter
  deriving DecidableEq, Repr

/-- The PCI functions of a host port (R449, R450). -/
inductive PortFunction where
  | gpu | vsock | console
  deriving DecidableEq, Repr

/-- A function by its number. -/
def PortFunction.ofNum : Nat → Option PortFunction
  | 0 => some .gpu
  | 1 => some .vsock
  | 2 => some .console
  | _ => none

/-- The virtio features that the functions offer (R450). -/
inductive VirtioFeature where
  | version1 | accessPlatform | ringPacked | contextInit | resourceBlob | streamSockets
  deriving DecidableEq, Repr

/-- The virtio device type of a function, and what it offers (R450). -/
def PortFunction.device : PortFunction → Nat
  | .gpu => 16 | .vsock => 19 | .console => 3
def PortFunction.features : PortFunction → List VirtioFeature
  | .gpu => [.version1, .accessPlatform, .ringPacked, .contextInit, .resourceBlob]
  | .vsock => [.version1, .accessPlatform, .ringPacked, .streamSockets]
  | .console => [.version1, .accessPlatform, .ringPacked]

/-- The ports of a function's console: 0 for management, 1 the stream of the event recorder (R450). -/
def PortFunction.consoles : PortFunction → List Nat
  | .console => [0, 1] | _ => []

/-- Whether the resident operating system serves a function's virtqueues, so that a notification raises source 0x01 (R450, R456): console
port 1 is the recorder's. -/
def PortFunction.served (f : PortFunction) (port : Nat) : Bool :=
  match f with | .gpu => false | .vsock => true | .console => port ≠ 1

/-- The CID of the part on the socket device of a die's port (R450). -/
def portCid (d : Bool) : Nat := 3 + (if d then 1 else 0)

/-- The capset of the context type of the virtio-gpu device (R451). -/
def gpuCapset : Nat := 0x51

/-- The kinds of a port reset (R454). -/
inductive ResetKind where
  | hot | linkDown | functionLevel
  deriving DecidableEq, Repr

/-- A kind by its number: of a port reset as its row's subject names it. -/
def ResetKind.code : ResetKind → Nat
  | .hot => 0 | .linkDown => 1 | .functionLevel => 2
def ResetKind.ofNum : Nat → ResetKind
  | 1 => .linkDown | 2 => .functionLevel | _ => .hot

/-- A host port: its virtio-gpu contexts and blobs, the notification ring and count of the counter page (R453), MSI-X
vector 1 pending, the latest answer of a submission and read, whether its cache agent is present and the lines that its HDM decoder
covers, by first line and number (R449), a reset in progress and its kind (R454), the appends that wait for room in their queue's
ring: queue, blob, offset (R289); submissions that wait for that, by context, fence and words, and the fence of the latest submission
all of whose commands are done (R451); the entries of the recorder that have been streamed on console port 1, and the latest one
(R464). -/
structure Port where
  ctxs : List GpuContext
  blobs : List Blob
  ring : Table Nat (BitVec 32)
  count : BitVec 32
  msix : Bool
  answer : Submission
  read : List Byte
  attached : Bool
  window : Nat × Nat
  resetting : Bool
  kind : ResetKind
  waiting : List (Nat × Blob × Nat)
  subs : List (Nat × Nat × List (BitVec 32))
  fence : Option Nat
  streamed : BitVec 32
  console : List Byte
  deriving DecidableEq, Repr

/-- What a flit carries beside its sequence (R457): its type, channel, source and destination as 2 × module + die, the payload bytes used. -/
structure Flit where
  type : Nat
  vc : Nat
  src : Nat
  dst : Nat
  data : List Byte
  deriving DecidableEq, Repr

/-- A Kwaol port (R457 to R459): SEQ to send, SEQ expected, what waits to be sent, the retry buffer, the flits of it to be
sent again, the 256 bytes that it sent in the latest clock, the logical times of the NAKs seen, failed retrains, STOP per channel as sent
and as received, the receiver's flits per channel and what they carry in order of arrival, NAK to send, down. -/
structure Link where
  next : BitVec 12
  expected : BitVec 12
  out : List Flit
  retry : List (BitVec 12 × Flit)
  resend : List (BitVec 12)
  wire : List Byte
  naks : List (BitVec 48)
  fails : Nat
  stopSent : BitVec 4
  stopSeen : BitVec 4
  held : File 2 Nat
  got : List Flit
  nak : Bool
  down : Bool
  deriving DecidableEq, Repr

/-- An entry of the event recorder (R464). -/
structure RecEntry where
  w0 : Word
  w1 : Word
  w2 : Word
  w3 : Word
  deriving DecidableEq, Repr

/-- What boot has reached (R460). -/
inductive BootStage where
  | start | identity | config | firmware | trained | done | recovery
  deriving DecidableEq, Repr

/-- The edges of the part. -/
structure Edge where
  port0 : Port
  port1 : Port
  links : Table Nat Link
  recorder : Table Nat RecEntry
  recCount : BitVec 32
  recSeqs : Table Nat (BitVec 32)
  ctl : Table Nat Word
  boot : BootStage
  identity : Bool
  /-- The patch RAM of the sequencers, at most 128 entries: the control-store words that it replaces (R444). -/
  patch : List (BitVec 12 × BitVec 96)
  configured : Table CoreId (BitVec 16)
  lowered : Table Bool Nat
  deriving DecidableEq, Repr

/-- A host port at reset. -/
def Port.reset : Port :=
  { ctxs := [], blobs := [], ring := [], count := 0, msix := false, answer := .none, read := [], attached := false,
    window := (0, 0), resetting := false, kind := .hot, waiting := [], subs := [], fence := Option.none, streamed := 0, console := [] }

/-- A Kwaol port at reset. -/
def Link.reset : Link :=
  { next := 0, expected := 0, out := [], retry := [], resend := [], naks := [], fails := 0, stopSent := 0, stopSeen := 0,
    wire := [], held := File.fill 2 0, got := [], nak := false, down := false }

/-- The edges at power-on reset. -/
def Edge.reset : Edge :=
  { port0 := Port.reset, port1 := Port.reset, links := [], recorder := [], recCount := 0, recSeqs := [], ctl := [],
    boot := .start, identity := false, patch := [], configured := [], lowered := [] }

end Sys2Proof.Machine
end

