-- ==== Sys2Proof/Machine/State.lean ====
section
/-! DEFINITION. The state of the module, the reasons a step can stop, and the machine right after reset. -/

namespace Sys2Proof.Machine

/-- The reasons a step stops with a fault. There is none: what the manual calls an exception is taken by the part
(R346, R350, R361) and is a next state; an access that reaches nothing reads zero (R447). -/
inductive Fault where
  deriving DecidableEq, Repr

/-- The reasons a step refuses. -/
inductive Refusal where
  /-- The instruction has no meaning yet; raised by the dispatch alone. Safe: nothing is said of the instruction. -/
  | notModelled (mnemonic : String)
  deriving DecidableEq, Repr

/-- A barrier: of a casement, of a group of a shader core (R221), by its id. -/
inductive BarKey where
  | tile (casement id : Nat)
  | shader (core queue record unit id : Nat)
  deriving DecidableEq, Repr

/-- What happens next (OWN, log entry 4): a row of the opcode table on its subject; the issue of a bundle: on a wave, the
paths A and B by their program counters (R15); a clock of the shader cores or of the supervisor cores within the tile clock. -/
inductive Item where
  | row (i : Instr) (x : Subject)
  | issue (st : StreamId) (a b : Option Word)
  | clock (shader : Bool)
  deriving DecidableEq, Repr

/-- The bundle being issued (OWN, log entry 4): its stream, its path's lanes and program counter, its header, the slot whose
operation is run, how many SR steps the other path of the pair takes first (R348), where its operations have sent the
program counter, whether they left the straight path (a trap, a hold), and the FSTAT and MSTAT flags they raised. -/
structure Issue where
  st : StreamId
  lanes : Lanes
  pc : Word
  header : BitVec 32
  slot : Slot
  srBase : Nat
  npc : Option Word
  moved : Bool
  ff : BitVec 5
  mf : BitVec 4
  deriving DecidableEq, Repr

/-- The state of the module. -/
structure State where
  /-- Streams: tile contexts and waves that have been launched, supervisor cores. -/
  streams : Table StreamId Stream
  barriers : Table BarKey Barrier
  tiles : Table Nat TileCore
  shaders : Table Nat ShaderCore
  supers : Table Nat SuperCore
  mm : MemSys
  sched : Sched
  edge : Edge
  /-- Logical time in tile clocks (R463), and how often it has wrapped. -/
  ltime : BitVec 48
  wraps : Nat
  /-- How much of the current shader and supervisor clock has passed, in sixteenths: a tile clock is 21 sixteenths of a shader
  clock and 30 of a supervisor clock (log entry 5). -/
  shaderPhase : Nat
  superPhase : Nat
  /-- OWN: the index of the next free value (log entry 6). -/
  free : Nat
  /-- OWN: what the event that is being run is about. -/
  subject : Subject
  /-- OWN: what happens next (log entry 4). -/
  agenda : List Item
  /-- OWN: the bundle being issued (log entry 4). -/
  iss : Issue
  deriving DecidableEq, Repr

/-- No bundle is being issued. -/
def Issue.none : Issue :=
  { st := .super 0, lanes := 0, pc := 0, header := 0, slot := .s, srBase := 0, npc := Option.none, moved := false, ff := 0, mf := 0 }

/-- A stream that has not been launched: nothing issues. -/
def Stream.absent : Stream := { Stream.launch with stop := .halted }

/-- The machine right after reset: logical time 0, every cache, queue and directory empty, no context launched, and boot
about to run at M on supervisor core 0 of die 0 (R460; log entries 2 and 3). -/
def State.reset : State :=
  { streams := [(.super 0, { Stream.absent with csr := { Csrs.launch with priv := 3 } })], barriers := [], tiles := [],
    shaders := [], supers := [], mm := MemSys.reset, sched := Sched.reset, edge := Edge.reset, ltime := 0, wraps := 0,
    shaderPhase := 0, superPhase := 0, free := 0, subject := .none, agenda := [.row .boot .none], iss := Issue.none }

end Sys2Proof.Machine
end

