-- ==== Sys2Proof/Machine/Ops.lean ====
section
/-! DEFINITION. The named operations over memory, registers and the module's parts: the memory's canonical form, parts of
the state, registers with their shadow sets, results and their landing, the recorder, taking a service trap or a
recoverable fault and returning from one. -/

namespace Sys2Proof

/-- The die of a core (R43). -/
def CoreId.die : CoreId → Nat
  | .tile n => n / 32
  | .shader n => n / 64
  | .super n => n / 16

/-- The die of a stream's core. -/
def StreamId.die (st : StreamId) : Nat := st.core.die

/-- Whether the stream is a tile context, a wave, a supervisor core. -/
def StreamId.isTile : StreamId → Bool
  | .tile _ _ => true
  | _ => false
def StreamId.isWave : StreamId → Bool
  | .wave _ _ => true
  | _ => false
def StreamId.isSuper : StreamId → Bool
  | .super _ => true
  | _ => false

/-- The tile core of a stream. -/
def StreamId.tileOf (st : StreamId) : Nat := match st with | .tile c _ => c | _ => 0

end Sys2Proof

namespace Sys2Proof.Machine

/-! ## Memory in canonical form -/

/-- The byte at an address: 0 where none is listed (log entry 1). -/
def Mem.get : List Host.Cell → Nat → Byte
  | [], _ => 0
  | (a, b) :: t, k => if a = k then b else if k < a then 0 else Mem.get t k

/-- The memory with one byte written: a 0 is never listed. -/
def Mem.put : List Host.Cell → Nat → Byte → List Host.Cell
  | [], k, v => if v = 0 then [] else [(k, v)]
  | (a, b) :: t, k, v =>
    if k < a then (if v = 0 then (a, b) :: t else (k, v) :: (a, b) :: t)
    else if k = a then (if v = 0 then t else (k, v) :: t)
    else (a, b) :: Mem.put t k v

/-- Every listed address is above a bound and addresses rise; no listed byte is 0. -/
def Mem.above : Nat → List Host.Cell → Bool
  | _, [] => true
  | lo, (a, b) :: t => decide (lo ≤ a) && decide (b ≠ 0) && Mem.above (a + 1) t

/-- The canonical form of a memory. -/
def Mem.wf (m : List Host.Cell) : Bool := Mem.above 0 m

/-- The n bytes from an address. -/
def Mem.bytes (m : List Host.Cell) (a n : Nat) : List Byte :=
  let w := m.filter fun c => decide (a ≤ c.1 ∧ c.1 < a + n)
  (List.range n).map fun k => Mem.get w (a + k)

/-- The cells of a list of bytes from an address: a 0 is never listed. -/
def Mem.cells : Nat → List Byte → List Host.Cell
  | _, [] => []
  | a, b :: t => if b = 0 then Mem.cells (a + 1) t else (a, b) :: Mem.cells (a + 1) t

/-- The memory with a list of bytes written from an address. -/
def Mem.putBytes (m : List Host.Cell) (a : Nat) (l : List Byte) : List Host.Cell :=
  (m.filter fun c => decide (c.1 < a)) ++ Mem.cells a l ++ m.filter fun c => decide (a + l.length ≤ c.1)

/-- The number that bytes hold, least significant first (R2). -/
def leNat : List Byte → Nat
  | [] => 0
  | b :: t => b.toNat + 256 * leNat t

/-- The n bytes of a number, least significant first. -/
def leBytes : Nat → Nat → List Byte
  | 0, _ => []
  | n + 1, x => BitVec.ofNat 8 x :: leBytes n (x / 256)

/-- The number in n bytes of a memory. -/
def Mem.num (m : List Host.Cell) (a n : Nat) : Nat := leNat (Mem.bytes m a n)

/-- The memory with a number written in n bytes. -/
def Mem.putNum (m : List Host.Cell) (a n x : Nat) : List Host.Cell := Mem.putBytes m a (leBytes n x)

/-! ## Parts of the state -/

/-- A stream. -/
def State.stream (s : State) (st : StreamId) : Stream := Table.get Stream.absent s.streams st

/-- The state with a stream replaced. -/
def State.setStream (s : State) (st : StreamId) (x : Stream) : State :=
  { s with streams := Table.put s.streams st x }

/-- The state with a stream changed. -/
def State.modStream (s : State) (st : StreamId) (f : Stream → Stream) : State := s.setStream st (f (s.stream st))

/-- Tile clocks since module reset, as CYCLE counts them (R41). -/
def State.clocks (s : State) : Nat := s.ltime.toNat + 2 ^ 48 * s.wraps

/-- The state of a core that nothing has touched since reset, after n of its clocks. -/
def Common.after (k : Common) (n : Nat) : Common := { k with cycle := BitVec.ofNat 64 n }

/-- A tile core. -/
def State.tile (s : State) (n : Nat) : TileCore :=
  Table.get { TileCore.reset with com := TileCore.reset.com.after s.clocks } s.tiles n

/-- The state with a tile core changed. -/
def State.modTile (s : State) (n : Nat) (f : TileCore → TileCore) : State :=
  { s with tiles := Table.put s.tiles n (f (s.tile n)) }

/-- A shader core. -/
def State.shader (s : State) (n : Nat) : ShaderCore :=
  Table.get { ShaderCore.reset with com := ShaderCore.reset.com.after (21 * s.clocks / 16) } s.shaders n

/-- The state with a shader core changed. -/
def State.modShader (s : State) (n : Nat) (f : ShaderCore → ShaderCore) : State :=
  { s with shaders := Table.put s.shaders n (f (s.shader n)) }

/-- A supervisor core. -/
def State.super (s : State) (n : Nat) : SuperCore :=
  Table.get { com := SuperCore.reset.com.after (30 * s.clocks / 16) } s.supers n

/-- The state with a supervisor core changed. -/
def State.modSuper (s : State) (n : Nat) (f : SuperCore → SuperCore) : State :=
  { s with supers := Table.put s.supers n (f (s.super n)) }

/-- What every core has. -/
def State.common (s : State) : CoreId → Common
  | .tile n => (s.tile n).com
  | .shader n => (s.shader n).com
  | .super n => (s.super n).com

/-- The state with what every core has changed. -/
def State.modCommon (s : State) (c : CoreId) (f : Common → Common) : State :=
  match c with
  | .tile n => s.modTile n fun t => { t with com := f t.com }
  | .shader n => s.modShader n fun t => { t with com := f t.com }
  | .super n => s.modSuper n fun t => { t with com := f t.com }

/-- The state with the memory system changed. -/
def State.modMem (s : State) (f : MemSys → MemSys) : State := { s with mm := f s.mm }

/-- The state with the sequencers changed. -/
def State.modSched (s : State) (f : Sched → Sched) : State := { s with sched := f s.sched }

/-- The state with the part's edges changed. -/
def State.modEdge (s : State) (f : Edge → Edge) : State := { s with edge := f s.edge }

/-- The state with events to come after all others. -/
def State.post (s : State) (l : List Item) : State := { s with agenda := s.agenda ++ l }

/-- The state with an event to come after all others. -/
def State.row (s : State) (i : Instr) (x : Subject) : State := s.post [.row i x]

/-- The state with events to come next. -/
def State.next (s : State) (l : List Item) : State := { s with agenda := l ++ s.agenda }

/-- What the manual leaves open (log entry 6): a number and a yes-or-no for each item k of what is being run, and the state
with the index used. -/
def State.pick (s : State) (k : Nat) : Nat := Config.freeNat s.free (8 * k + s.iss.slot.code)
def State.pickBit (s : State) (k : Nat) : Bool := Config.freeBit s.free (8 * k + s.iss.slot.code)
def State.picked (s : State) : State := { s with free := s.free + 1 }

/-! ## The control page, the recorder -/

/-- The value at reset of a control word by its byte offset: LEASE (R379), QOTA, RESV and LATCLS (R394), MIN (R427), CMP
(R456); 0 elsewhere. -/
def ctlReset (off : Nat) : Word :=
  if off = 0x100 ∨ off = 0x120 then 8192
  else if off = 0xA80 ∨ off = 0xA88 ∨ off = 0xA90 ∨ off = 0xA98 ∨ off = 0xAA0 ∨ off = 0xAA8 ∨ off = 0xAB0 ∨ off = 0xAB8 then 4
  else if 0x3100 ≤ off ∧ off < 0x3200 then BitVec.allOnes 64
  else if off = 0x800 then 0x0000000000400400
  else if off = 0x820 then 0x0000000100400400
  else if off = 0x840 ∨ off = 0x860 then 0x0000000300000400
  else if off = 0x880 then 0x0000000500000200
  else if off = 0x8A0 then 0x0000000400000100
  else if off = 0x8C0 then 0x0000000400000200
  else if off = 0x8E0 then 0x0000000700000080
  else 0

/-- A control word, with its reset value where nothing was written. -/
def State.ctl (s : State) (off : Nat) : Word := Table.get (ctlReset off) s.edge.ctl off

/-- The state with a control word set. -/
def State.setCtl (s : State) (off : Nat) (v : Word) : State :=
  s.modEdge fun e => { e with ctl := Table.put e.ctl off v }

/-- The sources of the recorder (R464). -/
inductive Source where
  | sequencer | faultRing | port | memory | thermal | link | boot | control | ecc
  deriving DecidableEq, Repr

/-- The kind code of a source. -/
def Source.code : Source → Nat
  | .sequencer => 0 | .faultRing => 1 | .port => 2 | .memory => 3 | .thermal => 4 | .link => 5 | .boot => 6
  | .control => 7 | .ecc => 8

/-- LTIME and SOURCE of a recorder entry. -/
def RecEntry.ltime (e : RecEntry) : BitVec 48 := e.w0.setWidth 48
def RecEntry.source (e : RecEntry) : Nat := fld e.w0 48 16

/-- The recorder with an entry put at its place below number n: entries of the same LTIME with a greater SOURCE, which were written
before it, move up (R464). -/
def recInsert (t : Table Nat RecEntry) (e : RecEntry) : Nat → Nat → Table Nat RecEntry
  | _, 0 => t
  | n, k + 1 =>
    match (if n = 0 then none else Table.find t ((n - 1) % 4096)) with
    | some p =>
      if p.ltime = e.ltime ∧ e.source < p.source then recInsert (Table.put t (n % 4096) p) e (n - 1) k
      else Table.put t (n % 4096) e
    | none => Table.put t (n % 4096) e

/-- The state with an entry written to the event recorder (R464). The EVENT code and the payload, which the manual does not
give, are free (log entry 13). -/
def State.note (s : State) (k : Source) (die unit : Nat) (event : Nat) (asid : BitVec 16) (p q : Word) : State :=
  let src := k.code * 4096 + (die % 2) * 2048 + unit % 2048
  let seq := Table.get 0 s.edge.recSeqs src
  let w0 := s.ltime.setWidth 64 ||| (BitVec.ofNat 64 src <<< 48)
  let w1 := seq.setWidth 64 ||| ((Config.eventCode event).setWidth 64 <<< 32) ||| (asid.setWidth 64 <<< 48)
  let e : RecEntry := ⟨w0, w1, Config.eventPayload event p q, Config.eventPayload event q p⟩
  s.modEdge fun x =>
    { x with recorder := recInsert x.recorder e x.recCount.toNat 4096, recCount := x.recCount + 1,
             recSeqs := Table.put x.recSeqs src (seq + 1) }

/-! ## Registers -/

/-- Whether a context or wave runs a handler: a service routine or a ULI handler (R358). -/
def Stream.inHandler (x : Stream) : Bool := x.csr.insvc || x.csr.inuli

/-- An S register: s56 to s63 name a shadow set in a service routine and in a ULI handler (R22). -/
def Stream.readS (x : Stream) (r : BitVec 6) : Word :=
  if r.toNat < 56 then File.get x.s r
  else if x.csr.insvc then File.get x.svcSet (r.setWidth 3)
  else if x.csr.inuli then File.get x.uliSet (r.setWidth 3)
  else File.get x.s r

/-- A stream with an S register written, in the set that its number names. -/
def Stream.writeS (x : Stream) (r : BitVec 6) (v : Word) : Stream :=
  if r.toNat < 56 then { x with s := File.set x.s r v }
  else if x.csr.insvc then { x with svcSet := File.set x.svcSet (r.setWidth 3) v }
  else if x.csr.inuli then { x with uliSet := File.set x.uliSet (r.setWidth 3) v }
  else { x with s := File.set x.s r v }

/-- A V register. -/
def Stream.readV (x : Stream) (r : BitVec 6) : VWord := File.get x.v r

/-- A stream with the masked bytes of a V register written. -/
def Stream.writeV (x : Stream) (r : BitVec 6) (mask : PWord) (v : VWord) : Stream :=
  { x with v := File.set x.v r (VWrite.onto ⟨mask, v⟩ (File.get x.v r)) }

/-- A P register: p0 reads as all ones (R21). -/
def Stream.readP (x : Stream) (r : BitVec 4) : PWord := if r = 0 then BitVec.allOnes 128 else File.get x.p r

/-- A stream with the masked bits of a P register written; a write to p0 is discarded (R21). -/
def Stream.writeP (x : Stream) (r : BitVec 4) (mask : PWord) (v : PWord) : Stream :=
  if r = 0 then x else { x with p := File.set x.p r ((File.get x.p r &&& ~~~mask) ||| (v &&& mask)) }

/-- The test bit of the element whose lowest byte is j (R96, R21). -/
def Stream.test (x : Stream) (p : Pred) (j : Nat) : Bool := (bit (x.readP p.p) j) ^^ p.neg

/-! ## Latches, results and their landing -/

/-- The latch entries of a slot, the most recent first; slots M, W and Y have none (R93). -/
def Latches.of (l : Latches) : Slot → List LatchEntry
  | .s => l.s | .va => l.va | .vb => l.vb | .l => l.l | .c => l.c | _ => []

/-- A slot by its code. -/
def Slot.ofCode (n : Nat) : Slot :=
  match n with
  | 0 => .s | 1 => .va | 2 => .vb | 3 => .m | 4 => .l | 5 => .w | 6 => .c | _ => .y

/-- The latches after a value enters a slot's latch 0 (R93): the entry at depth 3 is dropped. -/
def Latches.enter (l : Latches) (sl : Slot) (v : VWord) : Latches :=
  let e : LatchEntry := ⟨v, false⟩
  match sl with
  | .s => { l with s := e :: l.s.take 3 }
  | .va => { l with va := e :: l.va.take 3 }
  | .vb => { l with vb := e :: l.vb.take 3 }
  | .l => { l with l := e :: l.l.take 3 }
  | .c => { l with c := e :: l.c.take 3 }
  | _ => l

/-- A latch entry by slot code and depth; one that does not exist reads zero. -/
def Latches.at_ (l : Latches) (sl : BitVec 3) (d : BitVec 2) : LatchEntry :=
  ((l.of (Slot.ofCode sl.toNat))[d.toNat]?).getD ⟨0, false⟩

/-- A context after one result lands in it: the register, its slot's latch, its flags (R71, R93, R108). -/
def Stream.land (x : Stream) (r : Result) : Stream :=
  let x1 :=
    if r.nw then x
    else match r.dest with
      | .s k => { x with s := File.set x.s k (r.val.setWidth 64) }
      | .v k => x.writeV k r.mask r.val
      | .p k => x.writeP k r.mask (r.val.setWidth 128)
      | .push _ => x
      | .none => x
  { x1 with
    latches := if r.latch then x1.latches.enter r.slot (r.val &&& byteBits r.mask) else x1.latches,
    csr := { x1.csr with fflags := x1.csr.fflags ||| r.ff, mflags := x1.csr.mflags ||| r.mf } }

/-- A stream that takes a result at once: handler mode, waves and supervisor cores have no latches and no context time
(R18, R358); the register is the one its number names. An outbound queue takes its entry elsewhere (`State.takeNow`). -/
def Stream.landNow (x : Stream) (r : Result) : Stream :=
  let x1 :=
    if r.nw then x
    else match r.dest with
      | .s k => x.writeS k (r.val.setWidth 64)
      | .v k => x.writeV k r.mask r.val
      | .p k => x.writeP k r.mask (r.val.setWidth 128)
      | .push _ => x
      | .none => x
  { x1 with csr := { x1.csr with fflags := x1.csr.fflags ||| r.ff, mflags := x1.csr.mflags ||| r.mf } }

/-- Results in the order in which they land: by due time, then issue order, then slot (R93, R108). -/
def Result.before (a b : Result) : Bool :=
  a.due < b.due || (a.due == b.due && (a.seq < b.seq || (a.seq == b.seq && a.slot.code ≤ b.slot.code)))

/-- A result put in its place in an ordered list. -/
def Result.insert (r : Result) : List Result → List Result
  | [] => [r]
  | h :: t => if r.before h then r :: h :: t else h :: r.insert t

/-- The results that are due at a context time, in landing order. -/
def dueResults (time : Nat) (l : List Result) : List Result :=
  (l.filter fun r => r.due ≤ time).foldr Result.insert []

/-- A tile core after an entry is pushed to an outbound queue in a tile clock (R27, R95). -/
def State.pushAt (s : State) (clock : BitVec 48) (core : Nat) (o : BitVec 2) (v : VWord) : State :=
  s.modTile core fun t => { t with outq := File.set t.outq o (File.get t.outq o ++ [(v, clock)]) }

/-- A tile core after an entry is pushed to an outbound queue in the current tile clock. -/
def State.pushOut (s : State) (core : Nat) (o : BitVec 2) (v : VWord) : State := s.pushAt s.ltime core o v

/-- The state after a stream takes a result at once, in the current tile clock (R18, R27, R95, R358). -/
def State.takeNow (s : State) (st : StreamId) (r : Result) : State :=
  let s := s.modStream st fun x => x.landNow r
  match st, r.dest with
  | .tile c _, .push o => s.pushOut c o r.val
  | _, _ => s

/-- The state after one result lands, an outbound entry in the tile clock given (R8, R27). -/
def State.landAt (s : State) (clock : BitVec 48) (st : StreamId) (r : Result) : State :=
  let u := s.modStream st fun x => x.land r
  match st, r.dest with
  | .tile c _, .push o => u.pushAt clock c o r.val
  | _, _ => u

/-- The state after one due result lands: at the end of the tile clock before this one, in which its outbound entry is pushed (R8, R27,
R95, R355). -/
def State.landOne (s : State) (st : StreamId) (r : Result) : State := s.landAt (s.ltime - 1) st r

/-- The state after every result of a tile context that is due by its context time has landed (R8, R108, R355). -/
def State.landDue (s : State) (st : StreamId) : State :=
  let x := s.stream st
  let due := dueResults x.time x.pend
  let s := s.setStream st { x with pend := x.pend.filter fun r => x.time < r.due }
  due.foldl (fun s r => s.landOne st r) s

/-- Whether results of a stream wait for context time: on a tile context outside handler mode. -/
def State.timed (s : State) (st : StreamId) : Bool := st.isTile && !(s.stream st).inHandler

/-- The state after the operation being issued delivers a result with a published latency (R8, R107): on a tile context it
lands at its time; elsewhere it is taken at once, and its flags are ORed after the bundle's CSR write (R71, `State.flagged`). -/
def State.deliver (s : State) (r : Result) : State :=
  let st := s.iss.st
  if s.timed st then s.modStream st fun x => { x with pend := x.pend ++ [r] }
  else
    let s := s.takeNow st { r with ff := 0, mf := 0 }
    { s with iss := { s.iss with ff := s.iss.ff ||| r.ff, mf := s.iss.mf ||| r.mf } }

/-- The state after the flags that the bundle being issued delivered at once are ORed into FSTAT and MSTAT (R71, R144). -/
def State.flagged (s : State) : State :=
  s.modStream s.iss.st fun x =>
    { x with csr := { x.csr with fflags := x.csr.fflags ||| s.iss.ff, mflags := x.csr.mflags ||| s.iss.mf } }

/-- The result of the operation being issued. -/
def State.result (s : State) (lat : Nat) (dest : ResDest) (nw : Bool) (mask : PWord) (val : VWord) (ff : BitVec 5)
    (mf : BitVec 4) : Result :=
  let x := s.stream s.iss.st
  { due := x.time + lat, seq := x.seq, slot := s.iss.slot, dest := dest, mask := mask, val := val,
    latch := match dest with | .p _ => false | .none => nw | _ => true, nw := nw, ff := ff, mf := mf }

/-- The destination that a field names in the S file, the V file (R95). -/
def dstS (d : Dst) : ResDest := if d.qo then .push (d.reg.setWidth 2) else .s d.reg
def dstV (d : Dst) : ResDest := if d.qo then .push (d.reg.setWidth 2) else .v d.reg

/-- The state after an S result: 64 bits, zero-extended where a latch or queue takes it (R93, R95). -/
def State.putS (s : State) (lat : Nat) (d : Dst) (v : Word) (ff : BitVec 5) (mf : BitVec 4) : State :=
  s.deliver (s.result lat (dstS d) d.nw (BitVec.allOnes 128) (v.setWidth 1024) ff mf)

/-- The state after a V result: the bytes written, zero elsewhere in the latch (R93, R98). -/
def State.putV (s : State) (lat : Nat) (d : Dst) (w : VWrite) (ff : BitVec 5) (mf : BitVec 4) : State :=
  s.deliver (s.result lat (dstV d) d.nw w.mask (w.val &&& byteBits w.mask) ff mf)

/-- The state after a P result on the masked bits; it enters no latch (R93). -/
def State.putP (s : State) (lat : Nat) (d : Dst) (mask v : PWord) (ff : BitVec 5) : State :=
  s.deliver (s.result lat (.p (d.reg.setWidth 4)) d.nw mask (v.setWidth 1024) ff 0)

/-- The state after flags alone (R71). -/
def State.putFlags (s : State) (lat : Nat) (ff : BitVec 5) (mf : BitVec 4) : State :=
  s.deliver (s.result lat .none false 0 0 ff mf)

/-! ## Threads of a wave (R13, R14) -/

/-- The lanes of a wave whose threads are active, not suspended and not waiting in `wfi`. -/
def Threads.live (t : Threads) : Lanes := t.active &&& ~~~t.suspended &&& ~~~t.wfi

/-- The lanes as a list. -/
def lanesOf (m : Lanes) : List Nat := (List.range 32).filter fun k => bit m k

/-- A set of lanes from a list. -/
def ofLanes (l : List Nat) : Lanes := l.foldl (fun m k => m ||| BitVec.twoPow 32 k) 0

/-- The lanes that share a program counter: a path. -/
def Threads.path (t : Threads) (pc : Word) : Lanes :=
  ofLanes ((lanesOf t.live).filter fun k => t.pcs.get ⟨k % 32, Nat.mod_lt _ (by decide)⟩ == pc)

/-- The paths of a wave: each program counter with its lanes. -/
def Threads.paths (t : Threads) : List (Word × Lanes) :=
  (((lanesOf t.live).map fun k => t.pcs.get ⟨k % 32, Nat.mod_lt _ (by decide)⟩).eraseDups).map fun pc => (pc, t.path pc)

/-- Whether a path ranks before another: more threads, then the lower program counter (R14). -/
def pathBefore (a b : Word × Lanes) : Bool :=
  let n := (lanesOf a.2).length
  let m := (lanesOf b.2).length
  m < n || (n == m && a.1.toNat < b.1.toNat)

/-- A path put in its rank. -/
def rankPath (p : Word × Lanes) : List (Word × Lanes) → List (Word × Lanes)
  | [] => [p]
  | h :: t => if pathBefore p h then p :: h :: t else h :: rankPath p t

/-- The paths of a wave as they are ranked for its next issue opportunity: by R14, the lowest first after a `join`, those that
yielded last (R142), the one that has waited too long first (R16). -/
def Threads.ranked (t : Threads) : List (Word × Lanes) :=
  let l := t.paths.foldr rankPath []
  let front := fun (l : List (Word × Lanes)) (f : Word × Lanes → Bool) => l.filter f ++ l.filter fun p => !f p
  let low := l.foldl (fun (m : Nat) (p : Word × Lanes) => min m p.1.toNat) (2 ^ 64)
  let l := if t.lowest then front l fun p => decide (p.1.toNat = low) else l
  let l := front l fun p => !t.yielded.contains p.1
  match t.first with | some pc => front l fun p => decide (p.1 = pc) | Option.none => l

/-- A lane as a register number. -/
def lane (k : Nat) : BitVec 5 := BitVec.ofNat 5 k

/-- Threads with the program counter of each lane of a set changed. -/
def Threads.jump (t : Threads) (m : Lanes) (pc : Nat → Word) : Threads :=
  { t with pcs := (lanesOf m).foldl (fun f k => File.set f (lane k) (pc k)) t.pcs }

/-- The bytes of a V register that belong to a set of lanes (R21). -/
def laneBytes (m : Lanes) : PWord :=
  BitVec.ofNat 128 ((lanesOf m).foldl (fun acc k => acc ||| (15 <<< (4 * k))) 0)

/-! ## Reservations -/

/-- The state with the reservations of threads of a stream cleared: of the lanes given on a wave (R215). -/
def State.clearReservations (s : State) (st : StreamId) (lanes : Lanes) : State :=
  s.modCommon st.core fun c =>
    { c with reservations := c.reservations.filter fun r => !(r.st = st && (!st.isWave || bit lanes r.lane)) }

/-! ## Traps and faults -/

/-- Cause codes (R346). -/
def cILLOP : BitVec 8 := 0x01
def cPRIV : BitVec 8 := 0x02
def cALIGN : BitVec 8 := 0x03
def cPFAULT : BitVec 8 := 0x04
def cPERM : BitVec 8 := 0x05
def cUNIF : BitVec 8 := 0x06
def cCONV : BitVec 8 := 0x07
def cSYSC : BitVec 8 := 0x08
def cBRKPT : BitVec 8 := 0x09
def cSOFT : BitVec 8 := 0x0A
def cATTMISS : BitVec 8 := 0x0B
def cBOUNDS : BitVec 8 := 0x0C
def cSTACKOV : BitVec 8 := 0x0D
def cTOKEN : BitVec 8 := 0x0E
def cECC : BitVec 8 := 0x0F
def cBUDGET : BitVec 8 := 0x10

/-- CAUSE as an entry writes it (R352). -/
def causeWord (code : BitVec 8) (plev : BitVec 2) (int : Bool) (slot : Nat) (recov : Bool) : BitVec 16 :=
  BitVec.ofBool recov ++ BitVec.ofNat 4 slot ++ BitVec.ofBool int ++ plev ++ code

/-- The program counter of a stream as its traps record it: of the path being issued on a wave. -/
def State.pcOf (s : State) (st : StreamId) : Word := if st.isWave then s.iss.pc else (s.stream st).pc

/-- The state after what a tile context has in flight in its core's array and commit buffer is discarded (R47, R349). -/
def State.dropArray (s : State) (st : StreamId) : State :=
  if st.isTile then
    s.modTile st.tileOf fun t =>
      { t with commits := t.commits.filter fun d => decide (d.st ≠ st), array := t.array.filter fun a => decide (a.st ≠ st) }
  else s

/-- The state after a stream is stopped for good: its results in flight are discarded, nothing of it issues (R47, R349, R351). -/
def State.halt (s : State) (st : StreamId) : State :=
  (s.modStream st fun x =>
    { x with stop := .halted, pend := [], loads := [], returns := [], held := false,
             thr := { x.thr with active := 0 } }).dropArray st

/-- The state after a core-task or group ends by a cause (R349, R351, R361): its results in flight are discarded, nothing of it
issues, and the sequencer comes next: its rerun policy, where it applies (R441), or the launch's failure. -/
def State.endTask (s : State) (st : StreamId) (code : BitVec 8) (tval : Word) (again : Bool) : State :=
  let s := s.halt st
  let s := s.note .sequencer st.die 0 1 (s.stream st).csr.asid (code.setWidth 64) tval
  let s := s.modSched fun d => { d with ending := d.ending ++ [(st, again, code.toNat)] }
  s.row .rerun (.streamFlagWord st again (code.setWidth 64))

/-- The state after the entry of a service routine (R350), or a double trap (R351), on the lanes given. `epc` is the bundle
to record, whose waits are performed again when it is presented again (R359). -/
def State.service (s : State) (st : StreamId) (code : BitVec 8) (tval : Word) (int : Bool) (slot : Nat) (recov : Bool)
    (lanes : Lanes) (epc : Word) : State :=
  let x := s.stream st
  let s := s.clearReservations st lanes
  if x.csr.insvc then
    if st.isSuper then
      let s := s.modStream st fun x =>
        { x with csr := { x.csr with priv := 3 }, pc := Config.monitorEntry.setWidth 64, stop := .running }
      s.note .boot st.die 0 2 x.csr.asid (code.setWidth 64) tval
    else s.endTask st code tval true
  else
    let vec := (s.common st.core).svec.setWidth 64
    let csr := { x.csr with cause := causeWord code x.csr.priv int slot recov, epc := epc, tval := tval, priv := 1,
                            insvc := true, lmask := if st.isWave then lanes else x.csr.lmask }
    let thr := if st.isWave then
      { x.thr.jump lanes (fun _ => vec) with suspended := x.thr.suspended ||| (x.thr.active &&& ~~~lanes) } else x.thr
    s.setStream st { x with csr := csr, thr := thr, pc := if st.isWave then x.pc else vec, stop := .running, held := false,
                            miss := none, dirAsk := none, dirAns := false,
                            awaits := x.awaits.filter fun a => st.isWave && decide (a.pc ≠ epc) }

/-- The state after the bundle being issued raises a service trap: it has no effect (R347). -/
def State.trap (s : State) (code : BitVec 8) (tval : Word) (slot : Nat) : State :=
  s.service s.iss.st code tval false slot false s.iss.lanes (s.pcOf s.iss.st)

/-- Whether a cached translation serves an address of an address space: G matches every one (R401). -/
def TlbEntry.covers (e : TlbEntry) (asid : BitVec 16) (va : Nat) : Bool :=
  decide (e.va ≤ va ∧ va < e.va + e.size) && (e.asid = asid || bit e.leaf 5)

/-- The state after what is cached for an address that has failed its checks is forgotten, so that its replay walks afresh
(R410): in the TLBs that serve the stream and in its L1. -/
def State.forget (s : State) (st : StreamId) (asid : BitVec 16) (va : Nat) : State :=
  let keep := fun (l : List TlbEntry) => l.filter fun e => !e.covers asid va
  let s := s.modMem fun m =>
    { m with clusterTlbs := m.clusterTlbs.map fun e => (e.1, keep e.2), dieTlbs := m.dieTlbs.map fun e => (e.1, keep e.2),
             superTlbs := m.superTlbs.map fun e => (e.1, keep e.2), superFirst := m.superFirst.map fun e => (e.1, keep e.2) }
  s.modCommon st.core fun k => { k with l1 := k.l1.filter fun l => !(l.vline = va / 128 && l.asid = asid) }

/-- The state after an agent's recoverable fault (R361): the stream stops, its trap registers are written unless it is in a
service routine, its record, which for a fetch holds 64 × PC (R362), waits to be posted (R363). On a supervisor core it is a service
trap (R346). -/
def State.fault (s : State) (st : StreamId) (code : BitVec 8) (va access slot : Nat) (lanes : Lanes) (epc : Word) :
    State :=
  let s := s.forget st (s.stream st).csr.asid va
  if st.isSuper then s.service st code (BitVec.ofNat 64 va) false slot false lanes epc
  else
    let x := s.stream st
    let s := s.clearReservations st lanes
    let csr := if x.csr.insvc then x.csr else
      { x.csr with cause := causeWord code x.csr.priv false slot true, epc := epc, tval := BitVec.ofNat 64 va,
                   lmask := x.csr.lmask }
    let w : FaultWait := ⟨code, va, access, slot, lanes, epc, none⟩
    let s := s.setStream st { x with csr := csr, stop := .fault w, held := false, miss := none, dirAsk := none, dirAns := false }
    let r : FaultRecord := ⟨⟨st, none⟩, code, if access = 3 then 64 * epc.toNat % 2 ^ 48 else va, x.csr.asid, access, s.ltime⟩
    let s := s.modMem fun m => { m with waitingFaults := m.waitingFaults ++ [r] }
    s.row .faultRecordPost (.die (st.die == 1))

/-! ## Interrupt sources (R456) -/

/-- The state with an interrupt source pending at a supervisor core: its bit of the core's PEND word. -/
def State.pend (s : State) (core src : Nat) : State :=
  s.setCtl (0x3000 + 8 * core) (s.ctl (0x3000 + 8 * core) ||| BitVec.twoPow 64 src)

/-- The state with an interrupt source pending at the core that its TARGET names. -/
def State.raiseSource (s : State) (src : Nat) : State := s.pend (fld (s.ctl (0xE00 + 8 * src)) 0 5) src

/-- The state after an ignored write of the control page is noted, which is interrupt source 0x07 (R448, R456). -/
def State.ignored (s : State) (off : Nat) (v : Word) : State :=
  (s.note .control 0 0 off 0 (BitVec.ofNat 64 off) v).raiseSource 7

/-- The stream after `eret` (R148): the pc from EPC on the lanes given, the level from CAUSE, the other paths of a wave
resume. -/
def Stream.eret (x : Stream) (wave : Bool) (lanes : Lanes) : Stream :=
  { x with
    csr := { x.csr with priv := (x.csr.cause.extractLsb' 8 2), insvc := false },
    pc := if wave then x.pc else x.csr.epc,
    thr := if wave then { x.thr.jump lanes (fun _ => x.csr.epc) with suspended := 0 } else x.thr }

/-- The stream after `uret` (R148). -/
def Stream.uret (x : Stream) (wave : Bool) (lanes : Lanes) : Stream :=
  { x with
    csr := { x.csr with inuli := false, uie := true },
    pc := if wave then x.pc else x.csr.uepc,
    thr := if wave then x.thr.jump lanes (fun _ => x.csr.uepc) else x.thr }

/-- The stream after a ULI enters (R359), with s56 and s57 of the ULI shadow set as its source gives them. The waits of the bundle that
it interrupts are performed again after it. -/
def Stream.uli (x : Stream) (a b : Word) : Stream :=
  { x with
    csr := { x.csr with uepc := x.pc, inuli := true, uie := false },
    uliSet := File.set (File.set x.uliSet 0 a) 1 b,
    pc := x.csr.uvec.setWidth 64, held := false, miss := none, dirAsk := none, dirAns := false, stop := .running, awaits := [] }

end Sys2Proof.Machine
end

