-- ==== Sys2Proof/Machine/Operands.lean ====
section
/-! DEFINITION. The operand forms (R91 to R96, R126, R163, R164): source fields, test bits, spans, and what an operation's
fields ask of the state before its bundle may issue. -/

namespace Sys2Proof.Machine

/-! ## Queue heads -/

/-- The entries of an inbound queue of a stream's core; a core without queues has none. -/
def State.queue (s : State) (st : StreamId) (q : BitVec 3) : List VWord :=
  match st with
  | .tile c _ => File.get (s.tile c).inq q
  | _ => []

/-- The head entry of a queue; zero while it is empty, which no bundle that issues reads (R27). -/
def State.head (s : State) (st : StreamId) (q : BitVec 3) : VWord := (s.queue st q).headD 0

/-- The outbound entries that results and returned values under way have reserved (R95). -/
def reservedOut (x : Stream) (o : BitVec 2) : Nat := ((x.pend ++ x.returns).filter fun r => decide (r.dest = .push o)).length

/-- The entries of an outbound queue that are held or reserved (R19, R95); a core without queues has none. -/
def State.outUsed (s : State) (st : StreamId) (o : BitVec 2) : Nat :=
  match st with
  | .tile c _ => (File.get (s.tile c).outq o).length + reservedOut (s.stream st) o
  | _ => 0

/-- Whether an outbound queue is full: 16 entries held or reserved (R19, R95). -/
def State.outFull (s : State) (st : StreamId) (o : BitVec 2) : Bool := 16 ≤ s.outUsed st o

/-! ## Source fields -/

/-- A 64-bit operand (R91, R92, R126): a latch or queue gives its low 64 bits; `idx` is 0 and `one` is 1. -/
def State.srcS (s : State) (imm : Word) (x : Src) : Word :=
  let st := s.iss.st
  match x with
  | .reg r => (s.stream st).readS r
  | .latch sl d _ => ((s.stream st).latches.at_ sl d).val.setWidth 64
  | .queue _ q => (s.head st q).setWidth 64
  | .special c =>
    if c = 0#6 then imm else if c = 2#6 then BitVec.allOnes 64 else if c = 4#6 then 1 else 0

/-- The S-slot immediate: imm27, sign-extended (R92). -/
def SOp.immS (o : SOp) : Word := o.imm.signExtend 64

/-- Operands A and B of an S word. -/
def State.sA (s : State) (o : SOp) : Word := s.srcS (SOp.immS o) o.a
def State.sB (s : State) (o : SOp) : Word := s.srcS (SOp.immS o) o.b

/-- A P operand: a register, or the low 128 bits of another source (log entry 8). -/
def State.srcP (s : State) (x : Src) : PWord :=
  let st := s.iss.st
  match x with
  | .reg r => (s.stream st).readP (r.setWidth 4)
  | .latch sl d _ => ((s.stream st).latches.at_ sl d).val.setWidth 128
  | .queue _ q => (s.head st q).setWidth 128
  | .special c => if c = 2#6 then BitVec.allOnes 128 else if c = 4#6 then 1 else 0

/-- The immediate imm7 as an element (R92): reduced to an integer type's width, converted exactly to a float type; where an
8-bit float type cannot hold it the manual states no value, and a free one stands for it (log entry 9). -/
def immElem (t : ElTy) (imm : BitVec 7) (open_ : Nat) : Nat :=
  let v := imm.toInt
  if t.isInt then wrap (8 * t.bytes) v
  else
    let f := ElTy.fmt t
    let eff : Eff := effOf 0 t 1 false (fun _ => 0)
    let r := f.round eff 0 (Exact.ofInt false v 0)
    if r.ff = 0 then r.bits else open_ % 2 ^ (8 * t.bytes)

/-- The element that `one` stands for (R92). -/
def oneElem (t : ElTy) : Nat :=
  if t.isInt then 1 else (Fmt.round (ElTy.fmt t) (effOf 0 t 1 false (fun _ => 0)) 0 (Exact.ofInt false 1 0)).bits

/-- The element that `idx` gives to element k (R92). -/
def idxElem (t : ElTy) (k : Nat) : Nat :=
  if t.isInt then wrap (8 * t.bytes) k
  else (Fmt.round (ElTy.fmt t) (effOf 0 t 1 false (fun _ => 0)) 0 (Exact.ofInt false k 0)).bits

/-- A 1024-bit operand of a type (R91, R92). -/
def State.srcV (s : State) (t : ElTy) (imm : BitVec 7) (x : Src) : VWord :=
  let st := s.iss.st
  match x with
  | .reg r => (s.stream st).readV r
  | .latch sl d _ => ((s.stream st).latches.at_ sl d).val
  | .queue _ q => s.head st q
  | .special c =>
    if c = 0#6 then fillElems t.bytes (fun _ => immElem t imm (s.pick 0))
    else if c = 2#6 then BitVec.allOnes 1024
    else if c = 3#6 then fillElems t.bytes (idxElem t)
    else if c = 4#6 then fillElems t.bytes (fun _ => oneElem t)
    else 0

/-- Operands A, B and C of a V word in the V file, and A and B in the S file (R163). -/
def State.vA (s : State) (o : VOp) : VWord := s.srcV o.ty o.imm o.a
def State.vB (s : State) (o : VOp) : VWord := s.srcV o.ty o.imm o.b
def State.vC (s : State) (o : VOp) : VWord := s.srcV o.ty o.imm o.c
def State.vAs (s : State) (o : VOp) : Word := s.srcS (o.imm.signExtend 64) o.a
def State.vBs (s : State) (o : VOp) : Word := s.srcS (o.imm.signExtend 64) o.b

/-! ## Test bits and spans -/

/-- The lowest lane of a set, 0 of none. -/
def firstLane (m : Lanes) : Nat := (lanesOf m).headD 0

/-- The test bit of an S operation (R96): bit 0, on waves the bit of the lowest active lane of the path. -/
def State.testS (s : State) (p : Pred) : Bool :=
  (s.stream s.iss.st).test p (if s.iss.st.isWave then 4 * firstLane s.iss.lanes else 0)

/-- The first byte, and the number of bytes, of a V operation's span (R98). -/
def spanByte (o : VOp) : Nat := 32 * o.off.toNat
def spanLen (o : VOp) : Nat := 32 * frets o.width

/-- Element k of a span with elements of z bytes participates (R164): its test bit, and on a wave its lane. -/
def State.part (s : State) (p : Pred) (b0 z k : Nat) : Bool :=
  (s.stream s.iss.st).test p (b0 + z * k)
    && (!s.iss.st.isWave || bit s.iss.lanes ((b0 + z * k) / 4))

/-- Whether the path of a bundle writes only the upper half of an element of 8 bytes, whose lower half lies in another path (R164);
suspended threads form no path (R13). -/
def State.upper (s : State) (b0 z k : Nat) : Bool :=
  let j := (b0 + z * k) / 4
  let t := (s.stream s.iss.st).thr
  let others := t.active &&& ~~~t.suspended &&& ~~~s.iss.lanes
  z = 8 && s.iss.st.isWave && bit others j && bit s.iss.lanes (j + 1)

/-- Whether an element is written, by the path's lanes in it: it participates, or its other half does in its own path (R164). -/
def State.wrote (s : State) (p : Pred) (b0 z k : Nat) : Bool :=
  s.part p b0 z k || ((s.stream s.iss.st).test p (b0 + z * k) && s.upper b0 z k)

/-- The bytes that a path may write: on a wave, those of its lanes (R164). -/
def State.own (s : State) : PWord := if s.iss.st.isWave then laneBytes s.iss.lanes else BitVec.allOnes 128

/-- The state after a V operation delivers its elements: the bytes written, within the path's lanes. -/
def State.putElems (s : State) (lat : Nat) (d : Dst) (w : VWrite) (ff : BitVec 5) (mf : BitVec 4) : State :=
  s.putV lat d { w with mask := w.mask &&& s.own } ff mf

/-! ## What the fields of an operation ask of the state -/

/-- The queues that sources read. -/
def queuesOf (l : List (SrcKind × Src)) : List (BitVec 3) :=
  l.filterMap fun e => match e.2 with | .queue _ q => some q | _ => none

/-- The outbound queue that an operation names: by its destination (R95), or as `mtq` does (R154). -/
def Shape.out (h : Shape) : Option (BitVec 2) :=
  match h.dkind with
  | .none | .s | .v => if h.dst.qo then some (h.dst.reg.setWidth 2) else none
  | _ => none

/-- The V registers that an operation's fields name. -/
def Shape.vnamed (h : Shape) : List Nat :=
  (h.srcs.map fun e =>
    match e.1, e.2 with
    | .vval, .reg r | .vreg, .reg r | .vw, .reg r => [r.toNat]
    | .v4, .reg r => fourFrom r.toNat
    | _, _ => []).flatten
  ++ (match h.dkind with
      | .v | .vq => if h.dst.nw || h.dst.qo then [] else [h.dst.reg.toNat]
      | .v4 => if h.dst.nw then [] else fourFrom h.dst.reg.toNat
      | _ => [])
  ++ h.vregs

/-- Whether a source names a latch entry that was lost (R47, R42). -/
def State.lostSrc (s : State) (x : Src) : Bool :=
  match x with
  | .latch sl d _ => ((s.stream s.iss.st).latches.at_ sl d).lost
  | _ => false

/-- Whether an operation's encoding is one that its stream may issue in a slot: R97 to R117 for its core type, queues only with
STATUS.QOWN (R26), V registers below the wave's count (R20), S and Y slots alone in a tile core's handler (R358). -/
def State.encOk (s : State) (i : Instr) (sl : Slot) : Bool :=
  let st := s.iss.st
  let x := s.stream st
  let h := i.shape st.ctype
  i.legal st.ctype
    && ((queuesOf h.srcs).isEmpty && (Shape.out h).isNone || x.csr.qown)
    && (!st.isWave || (Shape.vnamed h).all fun r => r < x.thr.regs)
    && (!(st.isTile && x.inHandler) || sl == .s || sl == .y)

/-- The V registers that a wave's ray traversals under way will write (R295). -/
def Stream.rayRegs (x : Stream) : List Nat :=
  x.queues.flatMap fun q => q.2.flatMap fun c => match c.op with | .rtrace o => fourFrom (o.sub 6 6) | _ => []

/-- Whether an operation waits: for an empty queue head that it reads, a full queue that it pushes to (R27), a V register that a ray
traversal will write (R295). -/
def State.queueHold (s : State) (i : Instr) : Bool :=
  let st := s.iss.st
  let h := i.shape st.ctype
  let rays := (s.stream st).rayRegs
  (Shape.vnamed h).any (fun r => rays.contains r) ||
  (queuesOf h.srcs).any (fun q => (s.queue st q).isEmpty)
    || (match Shape.out h with | some o => s.outFull st o | none => false)

/-- Whether an operation reads a lost latch entry. -/
def State.readsLost (s : State) (i : Instr) : Bool := (i.shape s.iss.st.ctype).srcs.any fun e => s.lostSrc e.2

end Sys2Proof.Machine
end

