-- ==== Sys2Proof/Machine/Flags.lean ====
section
/-! DEFINITION. Rounding modes, the stochastic-rounding step, and the flags an operation takes and raises (R56 to R71), and
the plan of an operation: what its bundle's checks ask of it (R118, R347) and what it does when the bundle issues. -/

namespace Sys2Proof.Machine

/-! ## Modes and flags -/

/-- MODE as an operation captures it at issue (R60). -/
def State.mode (s : State) : Word := (s.stream s.iss.st).csr.mode

/-- The step that an operation reads from SRSTEP: after those of the operations before it (R69). -/
def State.srStep (s : State) : Nat := ((s.stream s.iss.st).csr.srstep.toNat + s.iss.srBase) % 2 ^ 32

/-- The WID that rounding under SR uses (R62): the thread's own on a wave, by lane. -/
def State.widOf (s : State) (st : StreamId) (l : Nat) : Word :=
  let x := s.stream st
  match st with
  | .tile _ _ => x.csr.wid
  | .wave _ _ => x.csr.wid + BitVec.ofNat 64 l
  | .super _ => 0

/-- The random words of an operation: element k in the lane of its lowest byte (R62). -/
def State.rand (s : State) (laneOf : Nat → Nat) (k : Nat) : Nat :=
  srWord (s.stream s.iss.st).csr.seed (s.widOf s.iss.st (laneOf k)) s.srStep k

/-- The lane that scalar rounding uses on a wave: the lowest active lane of the path (log entry 10). -/
def State.scalarLane (s : State) (_ : Nat) : Nat := firstLane s.iss.lanes

/-- The effective mode of an S operation with a destination type and a sub-field override (R58). -/
def State.effS (s : State) (t : ElTy) (override : Nat) (sat : Bool) : Eff :=
  effOf s.mode t override sat (s.rand s.scalarLane)

/-- The effective mode of a V operation (R58), its elements of z bytes counted from bit 0 of the register. Under SR on a wave an element
draws with the WID of the lane it lies in; so does sum number j of `vfredadd` with that of lane z·j/4, whether or not the lane takes part:
R62 and R192 give the sum's k and not its thread (DESIGN CHOICE, log entry 41). -/
def State.effV (s : State) (o : VOp) (t : ElTy) : Eff :=
  effOf s.mode t o.rnd.toNat o.sat (s.rand fun k => t.bytes * k / 4)

/-- Whether an effective rounding is stochastic: MODE's code 5 (R58). -/
def Eff.isSr (e : Eff) : Bool := e.rm == 5

/-- The state after an operation of a rounding kind under SR advances SRSTEP (R69). -/
def State.stepSr (s : State) : State :=
  s.modStream s.iss.st fun x => { x with csr := { x.csr with srstep := x.csr.srstep + 1 } }

/-- The flags of a list of results, ORed. -/
def orFlags (l : List FRes) : BitVec 5 × BitVec 4 := l.foldl (fun f r => (f.1 ||| r.ff, f.2 ||| r.mf)) (0, 0)

/-! ## Plans -/

/-- What a bundle raises: a service trap with its TVAL, or a recoverable fault at an address with an access code (R346). -/
inductive Raise where
  | service (code : BitVec 8) (tval : Word)
  | recover (code : BitVec 8) (va access : Nat)
  deriving DecidableEq, Repr

/-- What the addresses of an operation come to (R118, R347): all reached, one that raises, or one whose translation must be
asked for first. -/
inductive Reach where
  | ok
  | raise (r : Raise)
  | ask (f : State → State)

/-- A write of a CSR: its number, the value that it makes of the old one, the W1C bits that it clears (R143, R144). -/
structure CsrWrite where
  num : Nat
  new : Word → Word
  w1c : Word

/-- What one operation of a bundle asks and does. `enc` and `priv` say that its encoding and its level are right; `hold`
that it waits, and `wait` what its first presentation does even so; `out` the outbound queue that it pushes to; `val` and `addr`
what it raises from operand values and from addresses (R118); `csr` the CSR that it writes; `sr` that it takes an SR step; `lost`
that it reads a lost latch entry; `eff` its effect, `fin` the part that comes after every slot (R146, R69). -/
structure Plan where
  slot : Slot
  enc : Bool := true
  priv : Bool := true
  hold : Bool := false
  out : Option (BitVec 2) := none
  csr : Option CsrWrite := none
  wait : State → State := id
  val : Option Raise := none
  addr : Reach := .ok
  sr : Bool := false
  lost : Bool := false
  eff : State → State := id
  fin : State → State := id

/-- The plan of an operation from its fields alone. -/
def State.base (s : State) (i : Instr) : Plan :=
  { slot := s.iss.slot, enc := s.encOk i s.iss.slot, hold := s.queueHold i, out := Shape.out (i.shape s.iss.st.ctype),
    lost := s.readsLost i }

/-- The plan of an operation with an effect. -/
def State.plan (s : State) (i : Instr) (eff : State → State) : Plan := { s.base i with eff := eff }

/-- The plan of an S operation: with a test bit of 0 it has no effect and raises nothing but encoding traps (R96, R128). -/
def State.scalar (s : State) (i : Instr) (o : SOp) (p : Plan) : Plan :=
  if s.testS o.pred then p else { slot := s.iss.slot, enc := s.encOk i s.iss.slot }

/-- The header of the bundle being issued. -/
def State.hdr (s : State) : Header := Header.ofBits s.iss.header

/-- The queues that a header pops (R87, R90). -/
def popped (h : Header) : List (BitVec 3) := ((List.range 8).filter fun q => bit h.pop q).map (BitVec.ofNat 3)

/-- Whether the header is legal: no reserved bit, and a pop only by the owner of queues, not of Q3 in a ULI handler
(R87, R90). A service routine entered from a ULI handler, where INULI still stands (R350), may pop Q3 (DESIGN CHOICE, log entry 44). -/
def State.headerOk (s : State) : Bool :=
  let h := s.hdr
  let x := s.stream s.iss.st
  h.reserved = 0 && (h.pop = 0 || (s.iss.st.isTile && x.csr.qown && !(x.csr.inuli && !x.csr.insvc && bit h.pop 3)))

/-- What becomes of a bundle that is presented. -/
inductive Verdict where
  | go
  | held
  | raise (slot : Nat) (r : Raise)
  | ask (f : State → State)

/-- What the addresses of an operation decide, if anything. -/
def Plan.reaches (p : Plan) : Option Verdict :=
  match p.addr with
  | .ok => none
  | .raise r => some (.raise p.slot.code r)
  | .ask f => some (.ask f)

/-- Whether the pushes of a bundle do not all find room in an outbound queue (R27, R95). -/
def State.overflows (s : State) (ps : List Plan) : Bool :=
  (List.range 3).any fun k =>
    let o := BitVec.ofNat 2 k
    let n := (ps.filter fun p => decide (p.out = some o)).length
    decide (1 < n) && decide (16 < s.outUsed s.iss.st o + n)

/-- The checks of R118 in their order: header, encodings, privilege; holds; operand values; addresses. -/
def State.verdict (s : State) (ps : List Plan) : Verdict :=
  if !s.headerOk then .raise 8 (.service cILLOP 8)
  else match ps.find? (fun p => !p.enc) with
  | some p => .raise p.slot.code (.service cILLOP (BitVec.ofNat 64 p.slot.code))
  | none => match ps.find? (fun p => !p.priv) with
    | some p => .raise p.slot.code (.service cPRIV (BitVec.ofNat 64 p.slot.code))
    | none =>
      if (popped s.hdr).any (fun q => (s.queue s.iss.st q).isEmpty) || ps.any (fun p => p.hold) || s.overflows ps then .held
      else match ps.findSome? (fun p => p.val.map fun r => (p.slot.code, r)) with
      | some (sl, r) => .raise sl r
      | none => match ps.findSome? (fun p => p.reaches) with
        | some v => v
        | none => .go

/-- The state after the bundle being issued raises what its checks found. -/
def State.raise (s : State) (slot : Nat) (r : Raise) : State :=
  match r with
  | .service code tval => s.trap code tval slot
  | .recover code va access => s.fault s.iss.st code va access slot s.iss.lanes (s.pcOf s.iss.st)

/-- The state after a queue head is consumed (R27). -/
def State.popQueue (s : State) (st : StreamId) (q : BitVec 3) : State :=
  match st with
  | .tile c _ => s.modTile c fun t => { t with inq := File.set t.inq q ((File.get t.inq q).drop 1) }
  | _ => s

/-- The stream after its bundle issues: the pc moves on, and on a tile context's main stream context time advances and the
header's idle cycles begin (R7, R85, R89). -/
def Stream.advance (x : Stream) (st : StreamId) (iss : Issue) : Stream :=
  let h := Header.ofBits iss.header
  let x := { x with seq := x.seq + 1, held := false, dirAsk := none, dirAns := false, miss := none }
  match st with
  | .tile _ _ =>
    let pc := iss.npc.getD (x.pc + 1)
    if x.inHandler then { x with pc := pc } else { x with pc := pc, time := x.time + 1, idle := h.idle.toNat }
  | .super _ => { x with pc := iss.npc.getD (x.pc + 1) }
  | .wave _ _ =>
    let thr := { x.thr with waits := Table.drop x.thr.waits iss.pc }
    { x with thr := if iss.moved then thr else thr.jump iss.lanes fun _ => iss.npc.getD (iss.pc + 1) }

/-- The state after the bundle being issued has had its effects: pops, then the stream moves on. -/
def State.finish (s : State) : State :=
  let st := s.iss.st
  let s := (popped s.hdr).foldl (fun s q => s.popQueue st q) s
  let s := s.modStream st fun x => x.advance st s.iss
  s.picked

/-- The state in which a bundle begins to have its effects: it has delivered no flags. -/
def State.fresh (s : State) : State := { s with iss := { s.iss with ff := 0, mf := 0 } }

/-- The effects of a bundle's operations in slot order, with STATUS.LLOST for lost latch entries read (R42). -/
def State.effects (s : State) (ps : List Plan) : State :=
  let s := s.fresh
  let s := if ps.any (fun p => p.lost) then
    s.modStream s.iss.st fun x => { x with csr := { x.csr with llost := true } } else s
  ps.foldl (fun s p => p.eff { s with iss := { s.iss with slot := p.slot } }) s

/-- What comes after every slot: `sysc`, and writes of CSRs (R146, R69). -/
def State.finals (s : State) (ps : List Plan) : State := ps.foldl (fun s p => p.fin s) s

/-- The state after a bundle is presented with the plans of its operations (R118, R347); flags that it delivers at once are ORed
after its CSR write (R71). -/
def State.run (s : State) (ps : List Plan) : State :=
  match s.verdict ps with
  | .go => (((s.effects ps).finish).finals ps).flagged
  | .held => ps.foldl (fun s p => p.wait s) (s.modStream s.iss.st fun x => { x with held := true })
  | .ask f => f (s.modStream s.iss.st fun x => { x with held := true })
  | .raise slot r => s.raise slot r

end Sys2Proof.Machine
end

