-- ==== Sys2Proof/Machine/Scalar.lean ====
section
/-! DEFINITION. The scalar operations: integer arithmetic and logic, fields and constants, compares and predicates, floating
point, staging registers, queue pushes, addresses and identity (R126 to R135, R153, R154, R161). -/

namespace Sys2Proof.Machine

/-- What a meaning answers. -/
abbrev Out := Host.Outcome State Fault Refusal

/-- The issue of a bundle that holds one operation. -/
def State.single (s : State) (p : Plan) : Out := .next (s.run [p])

/-- No effect (R128, R88). -/
def planNop (s : State) : Plan := s.base .nop

/-- A bundle of `NOP` alone. -/
def execNop (s : State) : Out := s.single (planNop s)

/-- No effect (R88). -/
def planVnop (s : State) : Plan := s.base .vnop

/-- A bundle of `VNOP` alone. -/
def execVnop (s : State) : Out := s.single (planVnop s)

/-- No effect (R88). -/
def planLnop (s : State) : Plan := s.base .lnop

/-- A bundle of `LNOP` alone. -/
def execLnop (s : State) : Out := s.single (planLnop s)

/-- No effect (R88). -/
def planWnop (s : State) : Plan := s.base .wnop

/-- A bundle of `WNOP` alone. -/
def execWnop (s : State) : Out := s.single (planWnop s)

/-- No effect (R88); a supervisor core does not have it (R18). -/
def planMnop (s : State) : Plan := s.base .mnop

/-- A bundle of `MNOP` alone. -/
def execMnop (s : State) : Out := s.single (planMnop s)

/-- No effect (R88). -/
def planCnop (s : State) : Plan := s.base .cnop

/-- A bundle of `CNOP` alone. -/
def execCnop (s : State) : Out := s.single (planCnop s)

/-- No effect (R88). -/
def planYnop (s : State) : Plan := s.base .ynop

/-- A bundle of `YNOP` alone. -/
def execYnop (s : State) : Out := s.single (planYnop s)

/-- The plan of an S operation that writes S[d] with a latency. -/
def State.planS (s : State) (i : Instr) (o : SOp) (lat : Nat) (v : Word) : Plan :=
  s.scalar i o (s.plan i fun t => t.putS lat o.dst v 0 0)

/-- The bits of a P register that an S operation writes (R127): all, on a wave those of the path's lanes. -/
def State.predBits (s : State) : PWord := s.own

/-- The plan of an S operation that writes P[d]. -/
def State.planP (s : State) (i : Instr) (o : SOp) (lat : Nat) (mask v : PWord) (ff : BitVec 5) : Plan :=
  s.scalar i o (s.plan i fun t => t.putP lat o.dst (mask &&& t.predBits) v ff)

/-- A P value whose bits are all one bit. -/
def allBits (b : Bool) : PWord := if b then BitVec.allOnes 128 else 0

/-! ## Integer arithmetic and logic (R129, R130) -/

/-- A + B (R129). -/
def planAdd (o : SOp) (s : State) : Plan :=
  s.planS (.add o) o 1 (sAdd (s.sA o) (s.sB o))

/-- A bundle of `ADD` alone. -/
def execAdd (o : SOp) (s : State) : Out := s.single (planAdd o s)

/-- A − B (R129). -/
def planSub (o : SOp) (s : State) : Plan :=
  s.planS (.sub o) o 1 (sSub (s.sA o) (s.sB o))

/-- A bundle of `SUB` alone. -/
def execSub (o : SOp) (s : State) : Out := s.single (planSub o s)

/-- The low 64 bits of A × B (R129). -/
def planMul (o : SOp) (s : State) : Plan :=
  s.planS (.mul o) o 3 (sMul (s.sA o) (s.sB o))

/-- A bundle of `MUL` alone. -/
def execMul (o : SOp) (s : State) : Out := s.single (planMul o s)

/-- Bits [127:64] of the signed product (R129). -/
def planMulh (o : SOp) (s : State) : Plan :=
  s.planS (.mulh o) o 3 (sMulh (s.sA o) (s.sB o))

/-- A bundle of `MULH` alone. -/
def execMulh (o : SOp) (s : State) : Out := s.single (planMulh o s)

/-- Bits [127:64] of the unsigned product (R129). -/
def planMulhn (o : SOp) (s : State) : Plan :=
  s.planS (.mulhn o) o 3 (sMulhn (s.sA o) (s.sB o))

/-- A bundle of `MULHN` alone. -/
def execMulhn (o : SOp) (s : State) : Out := s.single (planMulhn o s)

/-- The signed quotient, truncated; all ones for B = 0 (R129). -/
def planDiv (o : SOp) (s : State) : Plan :=
  s.planS (.div o) o 12 (sDiv (s.sA o) (s.sB o))

/-- A bundle of `DIV` alone. -/
def execDiv (o : SOp) (s : State) : Out := s.single (planDiv o s)

/-- The unsigned quotient; all ones for B = 0 (R129). -/
def planDivn (o : SOp) (s : State) : Plan :=
  s.planS (.divn o) o 12 (sDivn (s.sA o) (s.sB o))

/-- A bundle of `DIVN` alone. -/
def execDivn (o : SOp) (s : State) : Out := s.single (planDivn o s)

/-- The signed remainder; A for B = 0 (R129). -/
def planRem (o : SOp) (s : State) : Plan :=
  s.planS (.rem o) o 12 (sRem (s.sA o) (s.sB o))

/-- A bundle of `REM` alone. -/
def execRem (o : SOp) (s : State) : Out := s.single (planRem o s)

/-- The unsigned remainder; A for B = 0 (R129). -/
def planRemn (o : SOp) (s : State) : Plan :=
  s.planS (.remn o) o 12 (sRemn (s.sA o) (s.sB o))

/-- A bundle of `REMN` alone. -/
def execRemn (o : SOp) (s : State) : Out := s.single (planRemn o s)

/-- A AND B (R129). -/
def planAnd (o : SOp) (s : State) : Plan :=
  s.planS (.and o) o 1 (sAnd (s.sA o) (s.sB o))

/-- A bundle of `AND` alone. -/
def execAnd (o : SOp) (s : State) : Out := s.single (planAnd o s)

/-- A OR B (R129). -/
def planOr (o : SOp) (s : State) : Plan :=
  s.planS (.or o) o 1 (sOr (s.sA o) (s.sB o))

/-- A bundle of `OR` alone. -/
def execOr (o : SOp) (s : State) : Out := s.single (planOr o s)

/-- A XOR B (R129). -/
def planXor (o : SOp) (s : State) : Plan :=
  s.planS (.xor o) o 1 (sXor (s.sA o) (s.sB o))

/-- A bundle of `XOR` alone. -/
def execXor (o : SOp) (s : State) : Out := s.single (planXor o s)

/-- A AND NOT B (R129). -/
def planAndn (o : SOp) (s : State) : Plan :=
  s.planS (.andn o) o 1 (sAndn (s.sA o) (s.sB o))

/-- A bundle of `ANDN` alone. -/
def execAndn (o : SOp) (s : State) : Out := s.single (planAndn o s)

/-- A << (B mod 64) (R129). -/
def planShl (o : SOp) (s : State) : Plan :=
  s.planS (.shl o) o 1 (sShl (s.sA o) (s.sB o))

/-- A bundle of `SHL` alone. -/
def execShl (o : SOp) (s : State) : Out := s.single (planShl o s)

/-- A >> (B mod 64), zeros shifted in (R129). -/
def planShr (o : SOp) (s : State) : Plan :=
  s.planS (.shr o) o 1 (sShr (s.sA o) (s.sB o))

/-- A bundle of `SHR` alone. -/
def execShr (o : SOp) (s : State) : Out := s.single (planShr o s)

/-- A >> (B mod 64), copies of bit 63 shifted in (R129). -/
def planSar (o : SOp) (s : State) : Plan :=
  s.planS (.sar o) o 1 (sSar (s.sA o) (s.sB o))

/-- A bundle of `SAR` alone. -/
def execSar (o : SOp) (s : State) : Out := s.single (planSar o s)

/-- A rotated left by B mod 64 (R129). -/
def planRol (o : SOp) (s : State) : Plan :=
  s.planS (.rol o) o 1 (sRol (s.sA o) (s.sB o))

/-- A bundle of `ROL` alone. -/
def execRol (o : SOp) (s : State) : Out := s.single (planRol o s)

/-- The lesser, signed (R129). -/
def planMin (o : SOp) (s : State) : Plan :=
  s.planS (.min o) o 1 (sMin (s.sA o) (s.sB o))

/-- A bundle of `MIN` alone. -/
def execMin (o : SOp) (s : State) : Out := s.single (planMin o s)

/-- The lesser, unsigned (R129). -/
def planMinn (o : SOp) (s : State) : Plan :=
  s.planS (.minn o) o 1 (sMinn (s.sA o) (s.sB o))

/-- A bundle of `MINN` alone. -/
def execMinn (o : SOp) (s : State) : Out := s.single (planMinn o s)

/-- The greater, signed (R129). -/
def planMax (o : SOp) (s : State) : Plan :=
  s.planS (.max o) o 1 (sMax (s.sA o) (s.sB o))

/-- A bundle of `MAX` alone. -/
def execMax (o : SOp) (s : State) : Out := s.single (planMax o s)

/-- The greater, unsigned (R129). -/
def planMaxn (o : SOp) (s : State) : Plan :=
  s.planS (.maxn o) o 1 (sMaxn (s.sA o) (s.sB o))

/-- A bundle of `MAXN` alone. -/
def execMaxn (o : SOp) (s : State) : Out := s.single (planMaxn o s)

/-! ## Fields and constants (R131) -/

/-- Leading zero bits (R131). -/
def planClz (o : SOp) (s : State) : Plan :=
  s.planS (.clz o) o 1 (sClz (s.sA o))

/-- A bundle of `CLZ` alone. -/
def execClz (o : SOp) (s : State) : Out := s.single (planClz o s)

/-- Trailing zero bits (R131). -/
def planCtz (o : SOp) (s : State) : Plan :=
  s.planS (.ctz o) o 1 (sCtz (s.sA o))

/-- A bundle of `CTZ` alone. -/
def execCtz (o : SOp) (s : State) : Out := s.single (planCtz o s)

/-- One bits (R131). -/
def planPopc (o : SOp) (s : State) : Plan :=
  s.planS (.popc o) o 1 (sPopc (s.sA o))

/-- A bundle of `POPC` alone. -/
def execPopc (o : SOp) (s : State) : Out := s.single (planPopc o s)

/-- A[n−1:0] sign-extended (R131). -/
def planSext (o : SOp) (s : State) : Plan :=
  s.planS (.sext o) o 1 (sSext (o.sub 0 6) (s.sA o))

/-- A bundle of `SEXT` alone. -/
def execSext (o : SOp) (s : State) : Out := s.single (planSext o s)

/-- A[n−1:0] zero-extended (R131). -/
def planZext (o : SOp) (s : State) : Plan :=
  s.planS (.zext o) o 1 (sZext (o.sub 0 6) (s.sA o))

/-- A bundle of `ZEXT` alone. -/
def execZext (o : SOp) (s : State) : Out := s.single (planZext o s)

/-- A bit field, extended (R131). -/
def planBfx (o : SOp) (s : State) : Plan :=
  s.planS (.bfx o) o 1 (sBfx (o.subBit 12) (o.sub 0 6) (o.sub 6 6 + 1) (s.sA o))

/-- A bundle of `BFX` alone. -/
def execBfx (o : SOp) (s : State) : Out := s.single (planBfx o s)

/-- A bit field put into S[d] as read at issue (R131, R95). -/
def planBfi (o : SOp) (s : State) : Plan :=
  s.planS (.bfi o) o 1 (sBfi (o.sub 0 6) (o.sub 6 6 + 1) ((s.stream s.iss.st).readS o.dst.reg) (s.sA o))

/-- A bundle of `BFI` alone. -/
def execBfi (o : SOp) (s : State) : Out := s.single (planBfi o s)

/-- A or B by the selector, laid out as a predicate field (R131). -/
def planSel (o : SOp) (s : State) : Plan :=
  s.planS (.sel o) o 1 (if s.testS (Pred.ofBits (o.imm.setWidth 5)) then s.sA o else s.sB o)

/-- A bundle of `SEL` alone. -/
def execSel (o : SOp) (s : State) : Out := s.single (planSel o s)

/-- The immediate, sign-extended (R131). -/
def planLi (o : SOp) (s : State) : Plan :=
  s.planS (.li o) o 1 (SOp.immS o)

/-- A bundle of `LI` alone. -/
def execLi (o : SOp) (s : State) : Out := s.single (planLi o s)

/-- A shifted up by 27, with the data below (R131). -/
def planLih (o : SOp) (s : State) : Plan :=
  s.planS (.lih o) o 1 (sLih (s.sA o) o.imm)

/-- A bundle of `LIH` alone. -/
def execLih (o : SOp) (s : State) : Out := s.single (planLih o s)

/-! ## Compares and predicates (R132) -/

/-- Every bit written is the condition on A and B (R132). -/
def planCmp (o : SOp) (s : State) : Plan :=
  s.planP (.cmp o) o 1 (BitVec.allOnes 128) (allBits (sCmp (o.sub 0 3) (s.sA o) (s.sB o))) 0

/-- A bundle of `CMP` alone. -/
def execCmp (o : SOp) (s : State) : Out := s.single (planCmp o s)

/-- The truth table of two P values, bit by bit (R132). -/
def planPlog (o : SOp) (s : State) : Plan :=
  s.planP (.plog o) o 1 (BitVec.allOnes 128) (pLog (o.sub 0 4) (s.srcP o.a) (s.srcP o.b)) 0

/-- A bundle of `PLOG` alone. -/
def execPlog (o : SOp) (s : State) : Out := s.single (planPlog o s)

/-- P[d] := P[a] (R132). -/
def planPmov (o : SOp) (s : State) : Plan :=
  s.planP (.pmov o) o 1 (BitVec.allOnes 128) (s.srcP o.a) 0

/-- A bundle of `PMOV` alone. -/
def execPmov (o : SOp) (s : State) : Out := s.single (planPmov o s)

/-- S[d] := a half of P[a] (R132). -/
def planPmovHToS (o : SOp) (s : State) : Plan :=
  s.planS (.pmovHToS o) o 1 ((s.srcP o.a >>> (64 * o.sub 2 1)).setWidth 64)

/-- A bundle of `PMOV_H_TO_S` alone. -/
def execPmovHToS (o : SOp) (s : State) : Out := s.single (planPmovHToS o s)

/-- A half of P[d] := A, the other half unchanged (R132). -/
def planPmovHFromS (o : SOp) (s : State) : Plan :=
  s.planP (.pmovHFromS o) o 1 ((BitVec.allOnes 64).setWidth 128 <<< (64 * o.sub 2 1))
    ((s.sA o).setWidth 128 <<< (64 * o.sub 2 1)) 0

/-- A bundle of `PMOV_H_FROM_S` alone. -/
def execPmovHFromS (o : SOp) (s : State) : Out := s.single (planPmovHFromS o s)

/-- Every bit of P[d] := bit 0 of A (R132). -/
def planPmovB (o : SOp) (s : State) : Plan :=
  s.planP (.pmovB o) o 1 (BitVec.allOnes 128) (allBits (bit (s.sA o) 0)) 0

/-- A bundle of `PMOV_B` alone. -/
def execPmovB (o : SOp) (s : State) : Out := s.single (planPmovB o s)

/-! ## Floating point (R133 to R135) -/

/-- The type that bits [3:0] of imm27 name (R133). -/
def SOp.fty (o : SOp) : ElTy := (ElTy.ofCode (BitVec.ofNat 4 (o.sub 0 4))).getD .f32

/-- The source type of `fcvt`, bits [11:8] (R135). -/
def SOp.fsrc (o : SOp) : ElTy := (ElTy.ofCode (BitVec.ofNat 4 (o.sub 8 4))).getD .f32

/-- A floating-point operand: the low bits of a source, after FTZI (R133, R64). -/
def State.fVal (s : State) (t : ElTy) (x : Word) : FVal :=
  (ElTy.fmt t).decodeIn (modeFtzi s.mode t) (x.toNat % 2 ^ (8 * t.bytes))

/-- The effective mode of a scalar floating-point operation. -/
def State.fEff (s : State) (o : SOp) : Eff := s.effS (SOp.fty o) (o.sub 4 3) (o.subBit 7)

/-- The plan of a scalar floating-point operation that rounds: its result, zero-extended, its flags, its SR step. -/
def State.planF (s : State) (i : Instr) (o : SOp) (lat : Nat) (r : FRes) : Plan :=
  let sr := (s.fEff o).isSr
  s.scalar i o
    { s.base i with sr := sr, eff := fun t =>
        let t := t.putS lat o.dst (BitVec.ofNat 64 r.bits) r.ff r.mf
        if sr then t.stepSr else t }

/-- rnd(A + B) (R134). -/
def planFadd (o : SOp) (s : State) : Plan :=
  let t := SOp.fty o
  s.planF (.fadd o) o 4 ((ElTy.fmt t).add (s.fEff o) 0 (s.fVal t (s.sA o)) (s.fVal t (s.sB o)))

/-- A bundle of `FADD` alone. -/
def execFadd (o : SOp) (s : State) : Out := s.single (planFadd o s)

/-- rnd(A − B) (R134). -/
def planFsub (o : SOp) (s : State) : Plan :=
  let t := SOp.fty o
  s.planF (.fsub o) o 4 ((ElTy.fmt t).add (s.fEff o) 0 (s.fVal t (s.sA o)) (s.fVal t (s.sB o)).negate)

/-- A bundle of `FSUB` alone. -/
def execFsub (o : SOp) (s : State) : Out := s.single (planFsub o s)

/-- rnd(A × B) (R134). -/
def planFmul (o : SOp) (s : State) : Plan :=
  let t := SOp.fty o
  s.planF (.fmul o) o 4 ((ElTy.fmt t).mul (s.fEff o) 0 (s.fVal t (s.sA o)) (s.fVal t (s.sB o)))

/-- A bundle of `FMUL` alone. -/
def execFmul (o : SOp) (s : State) : Out := s.single (planFmul o s)

/-- rnd(A ÷ B) (R134). -/
def planFdiv (o : SOp) (s : State) : Plan :=
  let t := SOp.fty o
  s.planF (.fdiv o) o 12 ((ElTy.fmt t).div (s.fEff o) 0 (s.fVal t (s.sA o)) (s.fVal t (s.sB o)))

/-- A bundle of `FDIV` alone. -/
def execFdiv (o : SOp) (s : State) : Out := s.single (planFdiv o s)

/-- rnd(√A) (R134). -/
def planFsqrt (o : SOp) (s : State) : Plan :=
  let t := SOp.fty o
  s.planF (.fsqrt o) o 12 ((ElTy.fmt t).sqrt (s.fEff o) 0 (s.fVal t (s.sA o)))

/-- A bundle of `FSQRT` alone. -/
def execFsqrt (o : SOp) (s : State) : Out := s.single (planFsqrt o s)

/-- rnd(A × B + C) with C the S[d] read at issue (R134, R95). -/
def planFfma (o : SOp) (s : State) : Plan :=
  let t := SOp.fty o
  s.planF (.ffma o) o 4
    ((ElTy.fmt t).fma (s.fEff o) 0 (s.fVal t (s.sA o)) (s.fVal t (s.sB o))
      (s.fVal t ((s.stream s.iss.st).readS o.dst.reg)))

/-- A bundle of `FFMA` alone. -/
def execFfma (o : SOp) (s : State) : Out := s.single (planFfma o s)

/-- A predicate by the condition (R135). -/
def planFcmp (o : SOp) (s : State) : Plan :=
  let t := SOp.fty o
  let r := fCompare (if o.sub 8 3 = 4 then 6 else o.sub 8 3) (s.fVal t (s.sA o)) (s.fVal t (s.sB o))
  s.planP (.fcmp o) o 4 (BitVec.allOnes 128) (allBits r.1) r.2

/-- A bundle of `FCMP` alone. -/
def execFcmp (o : SOp) (s : State) : Out := s.single (planFcmp o s)

/-- An integer result of `fcvt` extended to 64 bits by its type (R133). -/
def extendElem (t : ElTy) (x : Nat) : Word :=
  if t.signed then BitVec.ofInt 64 (sextNat (8 * t.bytes) x) else BitVec.ofNat 64 x

/-- A converted between any two types (R134, R135, R65 to R67); between two integer types it takes no SR step (R69). -/
def planFcvt (o : SOp) (s : State) : Plan :=
  let dt := SOp.fty o
  let sty := SOp.fsrc o
  let r := convertEl s.mode sty dt (s.fEff o) 0 ((s.sA o).toNat % 2 ^ (8 * sty.bytes))
  let sr := (s.fEff o).isSr && !(dt.isInt && sty.isInt)
  s.scalar (.fcvt o) o
    { s.base (.fcvt o) with sr := sr, eff := fun t =>
        let t := t.putS 4 o.dst (extendElem dt r.bits) r.ff r.mf
        if sr then t.stepSr else t }

/-- A bundle of `FCVT` alone. -/
def execFcvt (o : SOp) (s : State) : Out := s.single (planFcvt o s)

/-- The lesser or greater, −0 below +0, a NaN losing to a number (R135). -/
def planFminmax (o : SOp) (s : State) : Plan :=
  let t := SOp.fty o
  let r := (ElTy.fmt t).pick (modeFtzo s.mode t) (o.subBit 8) (s.fVal t (s.sA o)) (s.fVal t (s.sB o))
  s.scalar (.fminmax o) o (s.plan (.fminmax o) fun u => u.putS 4 o.dst (BitVec.ofNat 64 r.bits) r.ff r.mf)

/-- A bundle of `FMINMAX` alone. -/
def execFminmax (o : SOp) (s : State) : Out := s.single (planFminmax o s)

/-! ## Staging registers and queue pushes (R153, R154) -/

/-- The number of a staging register: 16 × engine + index. -/
def SOp.stagingNo (o : SOp) : Nat := 16 * o.sub 4 4 + o.sub 0 4

/-- staging(engine, index) := A (R153). -/
def planMts (o : SOp) (s : State) : Plan :=
  s.scalar (.mts o) o (s.plan (.mts o) fun t =>
    t.modStream t.iss.st fun x => { x with staging := Table.put x.staging (SOp.stagingNo o) (s.sA o) })

/-- A bundle of `MTS` alone. -/
def execMts (o : SOp) (s : State) : Out := s.single (planMts o s)

/-- S[d] := staging(engine, index) (R153). -/
def planMfs (o : SOp) (s : State) : Plan :=
  s.planS (.mfs o) o 1 (Table.get 0 (s.stream s.iss.st).staging (SOp.stagingNo o))

/-- A bundle of `MFS` alone. -/
def execMfs (o : SOp) (s : State) : Out := s.single (planMfs o s)

/-- Push B above A to an outbound queue (R154); its shape names the queue, which only the owner of the queues may, and which is not
full (R27). -/
def planMtq (o : SOp) (s : State) : Plan :=
  s.scalar (.mtq o) o (s.plan (.mtq o) fun t => match s.iss.st with
    | .tile c _ => t.pushOut c (BitVec.ofNat 2 (o.sub 0 2)) ((s.sA o).setWidth 1024 ||| ((s.sB o).setWidth 1024 <<< 64))
    | _ => t)

/-- A bundle of `MTQ` alone. -/
def execMtq (o : SOp) (s : State) : Out := s.single (planMtq o s)

/-! ## Addresses and identity (R161) -/

/-- A + (B << sh) + k (R161). -/
def planLea (o : SOp) (s : State) : Plan :=
  s.planS (.lea o) o 1 (sLea (s.sA o) (s.sB o) (o.sub 0 3) (o.sub 3 24))

/-- A bundle of `LEA` alone. -/
def execLea (o : SOp) (s : State) : Out := s.single (planLea o s)

/-- The bundle number of the target (R161). -/
def planAddpc (o : SOp) (s : State) : Plan :=
  s.planS (.addpc o) o 1 (s.pcOf s.iss.st + SOp.immS o)

/-- A bundle of `ADDPC` alone. -/
def execAddpc (o : SOp) (s : State) : Out := s.single (planAddpc o s)

/-- The width of field c of a launch's WID, and the bit at which it starts (R35, R44). -/
def widWidth (f : BitVec 48) (c : Nat) : Nat := fld f (6 * c) 6
def widLow (f : BitVec 48) (c : Nat) : Nat := ((List.range c).map (widWidth f)).foldl (· + ·) 0

/-- What `wid` reads by its code: a field of the WID, the group index, the whole WID (R161). -/
def widCode (wid : Word) (f : BitVec 48) (group c : Nat) : Word :=
  if c < 6 then BitVec.ofNat 64 (fld wid (widLow f c) (widWidth f c))
  else if c = 6 then BitVec.ofNat 64 group
  else wid

/-- The group index of a wave: its unit's index (R37). -/
def Stream.group (x : Stream) : Nat := match x.job with | some j => j.unit | none => 0

/-- A field of the WID of the context or of the path's lowest active thread (R161, R127). -/
def planWid (o : SOp) (s : State) : Plan :=
  let x := s.stream s.iss.st
  s.planS (.wid o) o 1 (widCode (s.widOf s.iss.st (firstLane s.iss.lanes)) x.csr.widf (Stream.group x) (o.sub 0 4))

/-- A bundle of `WID` alone. -/
def execWid (o : SOp) (s : State) : Out := s.single (planWid o s)

end Sys2Proof.Machine
end

