-- ==== Sys2Proof/Machine/Csr.lean ====
section
/-! DEFINITION. Control and status registers: the table of R40, each register's map, and the access operations (R143, R144). -/

namespace Sys2Proof.Machine

/-! ## The table of R40 -/

/-- Whether a CSR exists on a core type (R40). -/
def csrExists (ct : CoreType) (n : Nat) : Bool :=
  match ct with
  | .tile => n ≤ 0x009 || n == 0x00B || (0x010 ≤ n && n ≤ 0x014) || (0x018 ≤ n && n ≤ 0x01A) || n == 0x020 || n == 0x021
      || n == 0x030 || n == 0x031
  | .shader => n ≤ 0x00B || (0x010 ≤ n && n ≤ 0x013) || n == 0x015 || n == 0x016 || n == 0x01B || n == 0x020 || n == 0x021
      || n == 0x030 || n == 0x031
  | .super => n ≤ 0x002 || (0x004 ≤ n && n ≤ 0x009) || n == 0x00B || n == 0x012 || n == 0x013 || n == 0x020 || n == 0x021
      || n == 0x030 || n == 0x031

/-- Whether a CSR is K-only (R40): CAUSE, EPC, TVAL, SVEC, LMASK, CURLIM, CURWIN, ASID, PTBASE. -/
def csrSystem (n : Nat) : Bool :=
  (0x004 ≤ n && n ≤ 0x007) || n == 0x00A || n == 0x020 || n == 0x021 || n == 0x030 || n == 0x031

/-- Whether an access at a level is allowed (R40): K-only registers, and writes of FREEZECNT, need K. -/
def csrAllowed (priv : BitVec 2) (write : Bool) (n : Nat) : Bool :=
  priv ≠ 0 || !(csrSystem n || (write && n == 0x014))

/-! ## Values -/

/-- STATUS (R42). -/
def statusWord (x : Stream) (st : StreamId) : Word :=
  let c := x.csr
  let ctx := match st with | .tile _ b => b | _ => false
  let ct : Nat := match st.ctype with | .tile => 0 | .shader => 1 | .super => 2
  BitVec.ofNat 64 (c.priv.toNat + 4 * b2n c.uie + 8 * b2n c.inuli + 16 * b2n c.llost + 32 * b2n ctx + 64 * ct
    + 256 * b2n c.qown + 512 * b2n c.insvc)

/-- COREID (R43). -/
def coreIdWord (c : CoreId) : Word :=
  let w := fun (idx grp pos die ct : Nat) =>
    BitVec.ofNat 64 (idx + 2 ^ 8 * grp + 2 ^ 12 * pos + 2 ^ 14 * die + 2 ^ 15 * ct + 2 ^ 17 * Config.module.toNat)
  match c with
  | .tile n => w (n % 32) (n % 32 / 4) (n % 4) (n / 32 % 2) 0
  | .shader n => w (n % 64) (n % 64 / 8) 0 (n / 64 % 2) 1
  | .super n => w (n % 16) 0 0 (n / 16 % 2) 2

/-- A CSR of a stream, on the path being issued (R40 to R46, R69, R70, R352, R353, R373, R399). -/
def State.csr (s : State) (st : StreamId) (lanes : Lanes) (n : Nat) : Word :=
  let x := s.stream st
  let c := x.csr
  let k := s.common st.core
  match n with
  | 0x000 => statusWord x st
  | 0x001 => c.mode
  | 0x002 => c.fflags.setWidth 64 ||| (c.srstep.setWidth 64 <<< 32)
  | 0x003 => c.mflags.setWidth 64
  | 0x004 => c.cause.setWidth 64
  | 0x005 => c.epc
  | 0x006 => c.tval
  | 0x007 => k.svec.setWidth 64
  | 0x008 => c.uvec.setWidth 64
  | 0x009 => c.uepc
  | 0x00A => c.lmask.setWidth 64
  | 0x00B => c.seed
  | 0x010 => s.widOf st (firstLane lanes)
  | 0x011 => c.widf.setWidth 64
  | 0x012 => coreIdWord st.core
  | 0x013 => k.cycle
  | 0x014 => c.freezeCl.setWidth 64 ||| (c.freezeAll.setWidth 64 <<< 32)
  | 0x015 => c.fair.setWidth 64
  | 0x016 => c.lstkBase.setWidth 64 ||| (c.lstkDepth.setWidth 64 <<< 48)
  | 0x018 => c.wbwin.setWidth 64
  | 0x019 => c.abwin.setWidth 64
  | 0x01A => c.kbwin.setWidth 64
  | 0x01B => c.gswin.setWidth 64
  | 0x020 => k.curlim.setWidth 64
  | 0x021 => k.curwin.setWidth 64
  | 0x030 => c.asid.setWidth 64
  | 0x031 => k.ptbase.setWidth 64
  | _ => 0

/-- Whether MODE may hold a value: every group's RND below 6 and its bits [7:6] zero (R56, R59). -/
def modeOk (v : Word) : Bool := (List.range 8).all fun g => fld v (8 * g) 3 < 6 && fld v (8 * g + 6) 2 == 0

/-- Whether a register's map accepts the value that an access would leave (R144). Registers without a rule accept any: their
RO and reserved bits ignore the write. -/
def csrAccepts (ct : CoreType) (n : Nat) (v : Word) : Bool :=
  match n with
  | 0x001 => modeOk v
  | 0x002 => fld v 5 27 == 0
  | 0x003 => fld v 4 60 == 0
  | 0x004 => fld v 8 2 ≠ 2 && fld v 16 48 == 0
  | 0x007 => fld v 42 22 == 0 && (ct ≠ .tile || (3840 ≤ v.toNat && v.toNat ≤ 4095))
  | 0x008 => fld v 42 22 == 0 && (ct ≠ .tile || v.toNat ≤ 3839)
  | 0x015 => fld v 13 51 == 0 && 16 ≤ v.toNat && v.toNat ≤ 4096
  | 0x016 => fld v 0 8 == 0 && !bit v 48 && fld v 60 4 == 0
  | 0x020 => fld v 16 48 == 0 && 96 ≤ v.toNat
  | 0x021 => fld v 8 56 == 0 && 16 ≤ v.toNat
  | 0x030 => fld v 16 48 == 0
  | 0x031 => fld v 0 19 == 0 && fld v 52 12 == 0
  | _ => true

/-- Whether every bit of a register is RO (R40, R41, R43 to R45, R145). -/
def csrReadOnly (n : Nat) : Bool := n == 0x00A || (0x010 ≤ n && n ≤ 0x013) || (0x018 ≤ n && n ≤ 0x01B)

/-- The state with a value put into a CSR of a stream; RO and reserved bits keep what they hold (R4). -/
def State.putCsr (s : State) (st : StreamId) (n : Nat) (v : Word) : State :=
  let f := fun (g : Csrs → Csrs) => s.modStream st fun x => { x with csr := g x.csr }
  let k := fun (g : Common → Common) => s.modCommon st.core g
  match n with
  | 0x000 => f fun c => { c with uie := bit v 2 }
  | 0x001 => f fun c => { c with mode := v }
  | 0x002 => f fun c => { c with fflags := v.setWidth 5, srstep := v.extractLsb' 32 32 }
  | 0x003 => f fun c => { c with mflags := v.setWidth 4 }
  | 0x004 => f fun c => { c with cause := v.setWidth 16 }
  | 0x005 => f fun c => { c with epc := v }
  | 0x006 => f fun c => { c with tval := v }
  | 0x007 => k fun c => { c with svec := v.setWidth 42 }
  | 0x008 => f fun c => { c with uvec := v.setWidth 42 }
  | 0x009 => f fun c => { c with uepc := v }
  | 0x00B => f fun c => { c with seed := v }
  | 0x014 => f fun c => { c with freezeCl := v.setWidth 32, freezeAll := v.extractLsb' 32 32 }
  | 0x015 => f fun c => { c with fair := v.setWidth 13 }
  | 0x016 => f fun c => { c with lstkBase := v.setWidth 48, lstkDepth := v.extractLsb' 48 12 }
  | 0x020 => k fun c => { c with curlim := v.setWidth 16 }
  | 0x021 => k fun c => { c with curwin := v.setWidth 8 }
  | 0x030 => f fun c => { c with asid := v.setWidth 16 }
  | 0x031 => k fun c => { c with ptbase := v.setWidth 52 }
  | _ => s

/-- The state with the W1C bit of STATUS cleared where a mask has a 1 (R42, R144). -/
def State.clearW1c (s : State) (st : StreamId) (n : Nat) (mask : Word) : State :=
  if n = 0 && bit mask 4 then s.modStream st fun x => { x with csr := { x.csr with llost := false } } else s

/-- The value that a write of v would leave in a register, its RO bits as they are (R144). -/
def csrLeaves (n : Nat) (old v : Word) : Word := if csrReadOnly n then old else v

/-- A write to a CSR: none where the map rejects what it would leave; one that leaves the register unchanged is never
rejected (R144). -/
def State.writeCsr (s : State) (st : StreamId) (n : Nat) (old v w1c : Word) : Option State :=
  let v := csrLeaves n old v
  if v = old || csrAccepts st.ctype n v then some ((s.putCsr st n v).clearW1c st n w1c) else none

/-! ## Access operations -/

/-- The state after a CSR access is performed, whole, after the bundle's other effects (R69, R144): the old value is a result
of latency 1, and the new value is written. -/
def State.accessCsr (s : State) (o : SOp) (n : Nat) (write : Bool) (new : Word → Word) (w1c : Word) : State :=
  let st := s.iss.st
  let old := s.csr st s.iss.lanes n
  let r := { s.result 0 (dstS o.dst) o.dst.nw (BitVec.allOnes 128) (old.setWidth 1024) 0 0 with
               slot := .s, seq := (s.stream st).seq - 1 }
  let s := s.deliver r
  if write then (s.writeCsr st n old (new old) w1c).getD s else s

/-- The plan of a CSR access: the encoding check of R40, its level, the rejected value, and the access. -/
def State.planCsr (s : State) (i : Instr) (o : SOp) (write : Bool) (new : Word → Word) (w1c : Word) : Plan :=
  let st := s.iss.st
  let n := o.sub 0 12
  let old := s.csr st s.iss.lanes n
  let p := s.base i
  s.scalar i o
    { p with
      enc := p.enc && csrExists st.ctype n,
      priv := csrAllowed (s.stream st).csr.priv write n,
      csr := if write then some ⟨n, new, w1c⟩ else none,
      val := if write && (s.writeCsr st n old (new old) w1c).isNone then some (.service cILLOP 0) else none,
      eff := fun t => if write then t else t.putS 1 o.dst old 0 0,
      fin := fun t => if write then t.accessCsr o n write new w1c else t }

/-- The CSR as a plan's write would leave it, and whether its map accepts that (R144). -/
def State.csrAfter (s : State) (w : CsrWrite) : Option Word :=
  let st := s.iss.st
  let old := s.csr st s.iss.lanes w.num
  (s.writeCsr st w.num old (w.new old) w.w1c).map fun t => t.csr st s.iss.lanes w.num

/-- The plan of a path's operation, its CSR write judged on the value that the other path's writes leave in the register (R144). -/
def Plan.judgedAfter (p : Plan) (s : State) (other : List Plan) : Plan :=
  match p.csr with
  | none => p
  | some w =>
    let st := s.iss.st
    match (other.filterMap fun q => q.csr).find? (fun v => decide (v.num = w.num)) with
    | none => p
    | some v =>
      let old := s.csr st s.iss.lanes w.num
      match s.writeCsr st w.num old (v.new old) v.w1c with
      | none => p
      | some t => { p with val := if (t.csrAfter w).isNone then some (.service cILLOP 0) else none }

/-- S[d] := CSR (R143). -/
def planCsrr (o : SOp) (s : State) : Plan :=
  s.planCsr (.csrr o) o false (fun v => v) 0

/-- A bundle of `CSRR` alone. -/
def execCsrr (o : SOp) (s : State) : Out := s.single (planCsrr o s)

/-- S[d] := CSR; CSR := A (R143). -/
def planCsrw (o : SOp) (s : State) : Plan :=
  s.planCsr (.csrw o) o true (fun _ => s.sA o) (s.sA o)

/-- A bundle of `CSRW` alone. -/
def execCsrw (o : SOp) (s : State) : Out := s.single (planCsrw o s)

/-- S[d] := CSR; CSR := old OR A (R143). -/
def planCsrs (o : SOp) (s : State) : Plan :=
  s.planCsr (.csrs o) o true (fun v => v ||| s.sA o) (s.sA o)

/-- A bundle of `CSRS` alone. -/
def execCsrs (o : SOp) (s : State) : Out := s.single (planCsrs o s)

/-- S[d] := CSR; CSR := old AND NOT A; it leaves W1C fields unchanged (R143, R144). -/
def planCsrc (o : SOp) (s : State) : Plan :=
  s.planCsr (.csrc o) o true (fun v => v &&& ~~~(s.sA o)) 0

/-- A bundle of `CSRC` alone. -/
def execCsrc (o : SOp) (s : State) : Out := s.single (planCsrc o s)

/-! ## Writes as events: a `csrw` of a value by a stream -/

/-- The path of a wave that a `csrw` without a bundle stands for: the first-ranked one; elsewhere the stream's own bundle. -/
def State.eventPath (s : State) (st : StreamId) : Word × Lanes :=
  if st.isWave then (s.stream st).thr.ranked.headD (0, 0) else ((s.stream st).pc, 0)

/-- The state after a stream's `csrw` of a value to a CSR (R40, R143, R144): where the register is not of its core type or its map
rejects the value it traps with #ILLOP, where its level may not write it with #PRIV, and nothing is written. -/
def State.csrEvent (s : State) (st : StreamId) (n : Nat) (v : Word) : State :=
  let p := s.eventPath st
  let trap := fun (code : BitVec 8) =>
    if (s.stream st).stop = .running then s.service st code 0 false 0 false p.2 p.1 else s
  if !csrExists st.ctype n then trap cILLOP
  else if !csrAllowed (s.stream st).csr.priv true n then trap cPRIV
  else (s.writeCsr st n (s.csr st p.2 n) v v).getD (trap cILLOP)

/-- The state after the event's stream writes the event's value to a CSR. -/
def State.csrRow (s : State) (n : Nat) : State :=
  match s.subject with
  | .streamWord st v => s.csrEvent st n v
  | _ => s

/-- A write of a value to MODE: rejected with a reserved RND or reserved bits (R59). -/
def execModeWrite (s : State) : Out :=
  .next (s.csrRow 0x001)

/-- A write of a value to FSTAT (R69). -/
def execFstatWrite (s : State) : Out :=
  .next (s.csrRow 0x002)

/-- A write of a value to FAIRCFG (R46). -/
def execFaircfgWrite (s : State) : Out :=
  .next (s.csrRow 0x015)

/-- A write of a value to LSTK (R141). -/
def execLstkWrite (s : State) : Out :=
  .next (s.csrRow 0x016)

/-- A write of a value to CURLIM (R257). -/
def execCurlimWrite (s : State) : Out :=
  .next (s.csrRow 0x020)

/-- A write of a value to CURWIN (R257). -/
def execCurwinWrite (s : State) : Out :=
  .next (s.csrRow 0x021)

/-- A write of a value to CAUSE (R352). -/
def execCauseWrite (s : State) : Out :=
  .next (s.csrRow 0x004)

/-- A write of a value to SVEC (R353). -/
def execSvecWrite (s : State) : Out :=
  .next (s.csrRow 0x007)

/-- A write of a value to UVEC (R353). -/
def execUvecWrite (s : State) : Out :=
  .next (s.csrRow 0x008)

/-- A write to PTBASE, or to ASID where the event's flag is set (R399). -/
def execPtbaseWrite (s : State) : Out :=
  match s.subject with
  | .streamFlagWord st f v =>
    .next (s.csrEvent st (if f then 0x030 else 0x031) v)
  | _ => .next s

end Sys2Proof.Machine
end

