-- ==== Sys2Proof/Machine/Control.lean ====
section
/-! DEFINITION. Control operations: uniform branches, per-lane control, entry to and return from service routines and ULI
handlers, waits (R136 to R139, R142, R146 to R149). -/

namespace Sys2Proof.Machine

/-! ## Uniform control (R136, R137) -/

/-- The state with the next bundle of the path or context set. -/
def State.goto (s : State) (pc : Word) : State := { s with iss := { s.iss with npc := some pc } }

/-- The program counter of the bundle being issued. -/
def State.pcNow (s : State) : Word := s.pcOf s.iss.st

/-- What `bru` finds in its predicate: to branch, to go on, or mixed bits with what TVAL holds (R137). -/
def State.bruTest (s : State) (p : Pred) : Option Bool × Word :=
  let v := (s.stream s.iss.st).readP p.p
  let x := if p.neg then ~~~v else v
  match s.iss.st with
  | .tile _ _ =>
    (if x = BitVec.allOnes 128 then some true else if x = 0 then some false else none, x.setWidth 64)
  | .wave _ _ =>
    let l := lanesOf s.iss.lanes
    let b := l.filter fun k => bit x (4 * k)
    (if b.length = l.length then some true else if b = [] then some false else none,
      (ofLanes ((List.range 32).filter fun k => bit x (4 * k))).setWidth 64)
  | .super _ => (some (bit x 0), 0)

/-- Branch by a predicate that must agree over the context or path, else #UNIF (R137). -/
def planBru (o : SOp) (s : State) : Plan :=
  let r := s.bruTest o.pred
  let p := s.base (.bru o)
  match r.1 with
  | some true => { p with eff := fun t => t.goto (s.pcNow + SOp.immS o) }
  | some false => p
  | none => { p with val := some (.service cUNIF r.2) }

/-- A bundle of `BRU` alone. -/
def execBru (o : SOp) (s : State) : Out := s.single (planBru o s)

/-- PC := A + B (R136). -/
def planJmp (o : SOp) (s : State) : Plan :=
  s.scalar (.jmp o) o (s.plan (.jmp o) fun t => t.goto (s.sA o + s.sB o))

/-- A bundle of `JMP` alone. -/
def execJmp (o : SOp) (s : State) : Out := s.single (planJmp o s)

/-- S[d] := PC + 1; PC := A + B (R136). The link lands with latency 1, which R107 does not give (DESIGN CHOICE, log entry 43). -/
def planCall (o : SOp) (s : State) : Plan :=
  s.scalar (.call o) o (s.plan (.call o) fun t => (t.putS 1 o.dst (s.pcNow + 1) 0 0).goto (s.sA o + s.sB o))

/-- A bundle of `CALL` alone. -/
def execCall (o : SOp) (s : State) : Out := s.single (planCall o s)

/-- PC := A (R136). -/
def planRet (o : SOp) (s : State) : Plan :=
  s.scalar (.ret o) o (s.plan (.ret o) fun t => t.goto (s.sA o))

/-- A bundle of `RET` alone. -/
def execRet (o : SOp) (s : State) : Out := s.single (planRet o s)

/-- n := A − 1; S[d] := n; branch while n ≠ 0 (R136). The count lands with latency 1, which R107 does not give (DESIGN CHOICE, log
entry 43). -/
def planLoop (o : SOp) (s : State) : Plan :=
  let n := s.sA o - 1
  s.scalar (.loop o) o (s.plan (.loop o) fun t =>
    let t := t.putS 1 o.dst n 0 0
    if n ≠ 0 then t.goto (s.pcNow + SOp.immS o) else t)

/-- A bundle of `LOOP` alone. -/
def execLoop (o : SOp) (s : State) : Out := s.single (planLoop o s)

/-- Branch if A ≠ 0 (R136). -/
def planBrk (o : SOp) (s : State) : Plan :=
  s.scalar (.brk o) o (s.plan (.brk o) fun t => if s.sA o ≠ 0 then t.goto (s.pcNow + SOp.immS o) else t)

/-- A bundle of `BRK` alone. -/
def execBrk (o : SOp) (s : State) : Out := s.single (planBrk o s)

/-! ## Per-lane control (R139) -/

/-- The lanes of the path whose lane test is 1 (R139). -/
def State.laneTest (s : State) (p : Pred) : Lanes :=
  ofLanes ((lanesOf s.iss.lanes).filter fun k => (s.stream s.iss.st).test p (4 * k))

/-- The state after each lane of the path goes its own way: those of a set to their targets, the others to the next bundle. -/
def State.scatter (s : State) (m : Lanes) (target : Nat → Word) : State :=
  let iss := s.iss
  let s := s.modStream iss.st fun x =>
    { x with thr := (x.thr.jump iss.lanes fun _ => iss.pc + 1).jump (m &&& iss.lanes) target }
  { s with iss := { iss with moved := true } }

/-- The target of lane l: element l of V operand A as n32, plus B (R139). -/
def State.laneTarget (s : State) (o : SOp) (l : Nat) : Word :=
  BitVec.ofNat 64 (elemAt (s.srcV .n32 0 o.a) 0 4 l) + s.sB o

/-- Lanes whose lane test is 1 branch (R139). -/
def planBrl (o : SOp) (s : State) : Plan :=
  s.plan (.brl o) fun t => t.scatter (s.laneTest o.pred) fun _ => s.iss.pc + SOp.immS o

/-- A bundle of `BRL` alone. -/
def execBrl (o : SOp) (s : State) : Out := s.single (planBrl o s)

/-- Lanes whose lane test is 1 go to their element of A, plus B (R139). -/
def planJmpl (o : SOp) (s : State) : Plan :=
  s.plan (.jmpl o) fun t => t.scatter (s.laneTest o.pred) (s.laneTarget o)

/-- A bundle of `JMPL` alone. -/
def execJmpl (o : SOp) (s : State) : Out := s.single (planJmpl o s)

/-- The scheduler is asked to prefer the path of lowest program counter (R17, R142). -/
def planJoin (o : SOp) (s : State) : Plan :=
  s.scalar (.join o) o (s.plan (.join o) fun t =>
    t.modStream t.iss.st fun x => { x with thr := { x.thr with lowest := true } })

/-- A bundle of `JOIN` alone. -/
def execJoin (o : SOp) (s : State) : Out := s.single (planJoin o s)

/-- The issuing path ranks last at the wave's next opportunity (R142): it is at the next bundle by then. -/
def planYieldp (o : SOp) (s : State) : Plan :=
  s.scalar (.yieldp o) o { s.base (.yieldp o) with
    fin := fun t => t.modStream t.iss.st fun x => { x with thr := { x.thr with yielded := t.iss.npc.getD (t.iss.pc + 1) :: x.thr.yielded } } }

/-- A bundle of `YIELDP` alone. -/
def execYieldp (o : SOp) (s : State) : Out := s.single (planYieldp o s)

/-! ## System entry and exit (R146 to R148) -/

/-- Whether a supervisor core is at K or M, where `sysc` enters the boot monitor (R146). -/
def State.atMonitor (s : State) : Bool := s.iss.st.isSuper && (s.stream s.iss.st).csr.priv ≠ 0

/-- The state after `sysc` at K on a supervisor core enters the boot monitor at M (R146; log entry 15). -/
def State.enterMonitor (s : State) (n epc : Word) : State :=
  s.modStream s.iss.st fun x =>
    { x with csr := { x.csr with cause := causeWord cSYSC x.csr.priv false 0 false, epc := epc, tval := n, priv := 3 },
             pc := Config.monitorEntry.setWidth 64 }

/-- Enter the service routine after the bundle's other slots, with EPC = PC + 1; #ILLOP at K on tile and shader cores
and in a ULI handler (R146). -/
def planSysc (o : SOp) (s : State) : Plan :=
  let st := s.iss.st
  let c := (s.stream st).csr
  let p := s.base (.sysc o)
  let n : Word := BitVec.ofNat 64 (o.sub 0 16)
  s.scalar (.sysc o) o
    { p with
      enc := p.enc && (st.isSuper || c.priv = 0) && !c.inuli,
      fin := fun t =>
        if s.atMonitor then t.enterMonitor n (s.pcNow + 1)
        else t.service st cSYSC n false 0 false t.iss.lanes (s.pcNow + 1) }

/-- A bundle of `SYSC` alone. -/
def execSysc (o : SOp) (s : State) : Out := s.single (planSysc o s)

/-- Raise #SOFT precisely (R147). -/
def planTrap (o : SOp) (s : State) : Plan :=
  s.scalar (.trap o) o { s.base (.trap o) with val := some (.service cSOFT (BitVec.ofNat 64 (o.sub 0 16))) }

/-- A bundle of `TRAP` alone. -/
def execTrap (o : SOp) (s : State) : Out := s.single (planTrap o s)

/-- Raise #BRKPT precisely (R147). -/
def planBrkpt (o : SOp) (s : State) : Plan :=
  s.scalar (.brkpt o) o { s.base (.brkpt o) with val := some (.service cBRKPT (BitVec.ofNat 64 (o.sub 0 16))) }

/-- A bundle of `BRKPT` alone. -/
def execBrkpt (o : SOp) (s : State) : Out := s.single (planBrkpt o s)

/-- Return from a service routine; #PRIV at U (R148). -/
def planEret (o : SOp) (s : State) : Plan :=
  let st := s.iss.st
  s.scalar (.eret o) o
    { s.base (.eret o) with
      priv := (s.stream st).csr.priv ≠ 0,
      fin := fun t => t.modStream st fun x => x.eret st.isWave t.iss.lanes }

/-- A bundle of `ERET` alone. -/
def execEret (o : SOp) (s : State) : Out := s.single (planEret o s)

/-- Return from a ULI handler; #ILLOP outside one (R148). -/
def planUret (o : SOp) (s : State) : Plan :=
  let st := s.iss.st
  let p := s.base (.uret o)
  s.scalar (.uret o) o
    { p with
      enc := p.enc && (s.stream st).csr.inuli,
      fin := fun t => t.modStream st fun x => x.uret st.isWave t.iss.lanes }

/-- A bundle of `URET` alone. -/
def execUret (o : SOp) (s : State) : Out := s.single (planUret o s)

/-! ## Waiting (R149) -/

/-- Whether an interrupt source is pending for a supervisor core, masked or not (R149, R456): its PEND word. -/
def State.intPending (s : State) (n : Nat) : Bool := s.ctl (0x3000 + 8 * n) ≠ 0

/-- Whether what ends a `wfi` is present (R149). -/
def State.wakes (s : State) (st : StreamId) : Bool :=
  let x := s.stream st
  !x.ulis.isEmpty || !x.tokenUlis.isEmpty || x.preempt.isSome || x.debugReq
    || (match st with | .super n => s.intPending n | _ => false)

/-- The stream, on a wave the path, issues nothing more until an event of R149; execution then continues at the next
bundle (log entry 16). -/
def planWfi (o : SOp) (s : State) : Plan :=
  let st := s.iss.st
  s.scalar (.wfi o) o
    { s.base (.wfi o) with
      fin := fun t =>
        if t.wakes st then t
        else t.modStream st fun x =>
          if st.isWave then { x with thr := { x.thr with wfi := x.thr.wfi ||| t.iss.lanes } }
          else { x with stop := .wfi } }

/-- A bundle of `WFI` alone. -/
def execWfi (o : SOp) (s : State) : Out := s.single (planWfi o s)

end Sys2Proof.Machine
end

