-- ==== Sys2Proof/Machine/Vector.lean ====
section
/-! DEFINITION. Integer and logic operations of the vector slots, compares and predicates (R162 to R172, R180 to R183). -/

namespace Sys2Proof

/-- 2^N for the element width N of a V operation. -/
def VOp.modulus (o : VOp) : Nat := 2 ^ (8 * o.ty.bytes)

end Sys2Proof

namespace Sys2Proof.Machine

/-! ## Elements (R162, R164) -/

/-- The number of elements of z bytes in a V operation's span. -/
def spanCount (o : VOp) (z : Nat) : Nat := spanLen o / z

/-- Element k of a register operand within a V operation's span, under a type. -/
def elem (o : VOp) (t : ElTy) (x : VWord) (k : Nat) : Nat := elemAt x (8 * spanByte o) t.bytes k

/-- Element k of operands A, B, C and of the destination as read at issue (R95, R109). -/
def State.elA (s : State) (o : VOp) (k : Nat) : Nat := elem o o.ty (s.vA o) k
def State.elB (s : State) (o : VOp) (k : Nat) : Nat := elem o o.ty (s.vB o) k
def State.elC (s : State) (o : VOp) (k : Nat) : Nat := elem o o.ty (s.vC o) k
def State.elD (s : State) (o : VOp) (k : Nat) : Nat := elem o o.ty ((s.stream s.iss.st).readV o.dst.reg) k

/-- Whether element k of a V operation of a type participates (R164). -/
def State.takes (s : State) (o : VOp) (t : ElTy) (k : Nat) : Bool := s.part o.pred (spanByte o) t.bytes k

/-- Whether element k of a V operation of a type is written in the path's lanes (R164). -/
def State.puts (s : State) (o : VOp) (t : ElTy) (k : Nat) : Bool := s.wrote o.pred (spanByte o) t.bytes k

/-- The write of the participating elements of a V operation with a type. -/
def State.elems (s : State) (o : VOp) (t : ElTy) (f : Nat → Nat) : VWrite :=
  vmap (spanByte o) t.bytes (spanCount o t.bytes) (s.puts o t) f

/-- The plan of an element-wise integer operation that raises no flag (R52, R164). -/
def State.planInt (s : State) (i : Instr) (o : VOp) (lat : Nat) (f : Nat → Nat) : Plan :=
  s.plan i fun u => u.putElems lat o.dst (s.elems o o.ty f) 0 0

/-- The plan of an element-wise operation whose elements raise flags, with an SR step where it rounds under SR (R69, R71,
R164). -/
def State.planFlagged (s : State) (i : Instr) (o : VOp) (lat : Nat) (sr : Bool) (f : Nat → FRes) : Plan :=
  let ks := (List.range (spanCount o o.ty.bytes)).filter (s.takes o o.ty)
  let fl := orFlags (ks.map f)
  { s.base i with
    sr := sr,
    eff := fun u =>
      let u := u.putElems lat o.dst (s.elems o o.ty fun k => (f k).bits) fl.1 fl.2
      if sr then u.stepSr else u }

/-! ## Integer operations (R169, R170) -/

/-- wrap(a + b) (R169). -/
def planVadd (o : VOp) (s : State) : Plan :=
  s.planInt (.vadd o) o 2 fun k => ((s.elA o k) + (s.elB o k)) % o.modulus

/-- A bundle of `VADD` alone. -/
def execVadd (o : VOp) (s : State) : Out := s.single (planVadd o s)

/-- wrap(a − b) (R169). -/
def planVsub (o : VOp) (s : State) : Plan :=
  s.planInt (.vsub o) o 2 fun k => ((s.elA o k) + (o.modulus - (s.elB o k))) % o.modulus

/-- A bundle of `VSUB` alone. -/
def execVsub (o : VOp) (s : State) : Out := s.single (planVsub o s)

/-- wrap(a × b) (R169). -/
def planVmul (o : VOp) (s : State) : Plan :=
  s.planInt (.vmul o) o 2 fun k => ((s.elA o k) * (s.elB o k)) % o.modulus

/-- A bundle of `VMUL` alone. -/
def execVmul (o : VOp) (s : State) : Out := s.single (planVmul o s)

/-- The upper half of the exact product (R169). -/
def planVmulh (o : VOp) (s : State) : Plan :=
  s.planInt (.vmulh o) o 2 fun k => eMulh o.ty (s.elA o k) (s.elB o k)

/-- A bundle of `VMULH` alone. -/
def execVmulh (o : VOp) (s : State) : Out := s.single (planVmulh o s)

/-- wrap(a × b + c) (R169). -/
def planVmad (o : VOp) (s : State) : Plan :=
  s.planInt (.vmad o) o 2 fun k => ((s.elA o k) * (s.elB o k) + (s.elC o k)) % o.modulus

/-- A bundle of `VMAD` alone. -/
def execVmad (o : VOp) (s : State) : Out := s.single (planVmad o s)

/-- |a|; on floating-point types the sign bit is cleared (R169, R170). -/
def planVabs (o : VOp) (s : State) : Plan :=
  if o.ty.isFp then s.planInt (.vabs o) o 4 fun k => (s.elA o k) % (o.modulus / 2)
  else s.planInt (.vabs o) o 2 fun k => eAbs o.ty (s.elA o k)

/-- A bundle of `VABS` alone. -/
def execVabs (o : VOp) (s : State) : Out := s.single (planVabs o s)

/-- −a; on floating-point types the sign bit is inverted (R169, R170). -/
def planVneg (o : VOp) (s : State) : Plan :=
  if o.ty.isFp then s.planInt (.vneg o) o 4 fun k => (s.elA o k) ^^^ (o.modulus / 2)
  else s.planInt (.vneg o) o 2 fun k => (o.modulus - s.elA o k) % o.modulus

/-- A bundle of `VNEG` alone. -/
def execVneg (o : VOp) (s : State) : Out := s.single (planVneg o s)

/-- The result of a saturating sum (R169). -/
def satRes (t : ElTy) (x : Int) : FRes := let r := ElTy.clamp t x; ⟨r.1, 0, if r.2 then mSATD else 0⟩

/-- sat(a + b), with MSTAT.SATD where it clamps (R169). -/
def planVadds (o : VOp) (s : State) : Plan :=
  s.planFlagged (.vadds o) o 2 false fun k => satRes o.ty (ElTy.val o.ty (s.elA o k) + ElTy.val o.ty (s.elB o k))

/-- A bundle of `VADDS` alone. -/
def execVadds (o : VOp) (s : State) : Out := s.single (planVadds o s)

/-- sat(a − b), with MSTAT.SATD where it clamps (R169). -/
def planVsubs (o : VOp) (s : State) : Plan :=
  s.planFlagged (.vsubs o) o 2 false fun k => satRes o.ty (ElTy.val o.ty (s.elA o k) - ElTy.val o.ty (s.elB o k))

/-- A bundle of `VSUBS` alone. -/
def execVsubs (o : VOp) (s : State) : Out := s.single (planVsubs o s)

/-- The lesser (R169). -/
def planVmin (o : VOp) (s : State) : Plan :=
  s.planInt (.vmin o) o 2 fun k => eMin o.ty (s.elA o k) (s.elB o k)

/-- A bundle of `VMIN` alone. -/
def execVmin (o : VOp) (s : State) : Out := s.single (planVmin o s)

/-- The greater (R169). -/
def planVmax (o : VOp) (s : State) : Plan :=
  s.planInt (.vmax o) o 2 fun k => eMax o.ty (s.elA o k) (s.elB o k)

/-- A bundle of `VMAX` alone. -/
def execVmax (o : VOp) (s : State) : Out := s.single (planVmax o s)

/-- floor((a + b + 1) ÷ 2) (R169). -/
def planVavg (o : VOp) (s : State) : Plan :=
  s.planInt (.vavg o) o 2 fun k => eAvg o.ty (s.elA o k) (s.elB o k)

/-- A bundle of `VAVG` alone. -/
def execVavg (o : VOp) (s : State) : Out := s.single (planVavg o s)

/-- wrap(|a − b| + c) (R169). -/
def planVsad (o : VOp) (s : State) : Plan :=
  s.planInt (.vsad o) o 2 fun k => eSad o.ty (s.elA o k) (s.elB o k) (s.elC o k)

/-- A bundle of `VSAD` alone. -/
def execVsad (o : VOp) (s : State) : Out := s.single (planVsad o s)

/-- a AND b (R171). -/
def planVand (o : VOp) (s : State) : Plan :=
  s.planInt (.vand o) o 2 fun k => (s.elA o k) &&& (s.elB o k)

/-- A bundle of `VAND` alone. -/
def execVand (o : VOp) (s : State) : Out := s.single (planVand o s)

/-- a OR b (R171). -/
def planVor (o : VOp) (s : State) : Plan :=
  s.planInt (.vor o) o 2 fun k => (s.elA o k) ||| (s.elB o k)

/-- A bundle of `VOR` alone. -/
def execVor (o : VOp) (s : State) : Out := s.single (planVor o s)

/-- a XOR b (R171). -/
def planVxor (o : VOp) (s : State) : Plan :=
  s.planInt (.vxor o) o 2 fun k => (s.elA o k) ^^^ (s.elB o k)

/-- A bundle of `VXOR` alone. -/
def execVxor (o : VOp) (s : State) : Out := s.single (planVxor o s)

/-- a AND NOT b (R171). -/
def planVandn (o : VOp) (s : State) : Plan :=
  s.planInt (.vandn o) o 2 fun k => (s.elA o k) &&& ((s.elB o k) ^^^ (o.modulus - 1))

/-- A bundle of `VANDN` alone. -/
def execVandn (o : VOp) (s : State) : Out := s.single (planVandn o s)

/-- a << (b mod N) (R171). -/
def planVshl (o : VOp) (s : State) : Plan :=
  s.planInt (.vshl o) o 2 fun k => eShl o.ty (s.elA o k) (s.elB o k)

/-- A bundle of `VSHL` alone. -/
def execVshl (o : VOp) (s : State) : Out := s.single (planVshl o s)

/-- a >> (b mod N), zeros shifted in (R171). -/
def planVshr (o : VOp) (s : State) : Plan :=
  s.planInt (.vshr o) o 2 fun k => eShr o.ty (s.elA o k) (s.elB o k)

/-- A bundle of `VSHR` alone. -/
def execVshr (o : VOp) (s : State) : Out := s.single (planVshr o s)

/-- a >> (b mod N), copies of the top bit shifted in (R171). -/
def planVsar (o : VOp) (s : State) : Plan :=
  s.planInt (.vsar o) o 2 fun k => eSar o.ty (s.elA o k) (s.elB o k)

/-- A bundle of `VSAR` alone. -/
def execVsar (o : VOp) (s : State) : Out := s.single (planVsar o s)

/-- Leading zero bits (R171). -/
def planVclz (o : VOp) (s : State) : Plan :=
  s.planInt (.vclz o) o 2 fun k => clzNat (8 * o.ty.bytes) (s.elA o k)

/-- A bundle of `VCLZ` alone. -/
def execVclz (o : VOp) (s : State) : Out := s.single (planVclz o s)

/-- One bits (R171). -/
def planVpopc (o : VOp) (s : State) : Plan :=
  s.planInt (.vpopc o) o 2 fun k => popcNat (8 * o.ty.bytes) (s.elA o k)

/-- A bundle of `VPOPC` alone. -/
def execVpopc (o : VOp) (s : State) : Out := s.single (planVpopc o s)

/-- A bit field at B of width C (R172). -/
def planVbfx (o : VOp) (s : State) : Plan :=
  s.planInt (.vbfx o) o 2 fun k => eBfx o.ty (s.elA o k) (s.elB o k) (s.elC o k)

/-- A bundle of `VBFX` alone. -/
def execVbfx (o : VOp) (s : State) : Out := s.single (planVbfx o s)

/-- The field of D, as read at issue, replaced (R172). -/
def planVbfi (o : VOp) (s : State) : Plan :=
  s.planInt (.vbfi o) o 2 fun k => eBfi o.ty (s.elD o k) (s.elA o k) (s.elB o k) (s.elC o k)

/-- A bundle of `VBFI` alone. -/
def execVbfi (o : VOp) (s : State) : Out := s.single (planVbfi o s)

/-- (a AND c) OR (b AND NOT c) (R171). -/
def planVbsel (o : VOp) (s : State) : Plan :=
  s.planInt (.vbsel o) o 2 fun k => eBsel o.ty (s.elA o k) (s.elB o k) (s.elC o k)

/-- A bundle of `VBSEL` alone. -/
def execVbsel (o : VOp) (s : State) : Out := s.single (planVbsel o s)

/-! ## Compares and predicates (R180 to R183) -/

/-- A floating-point element after FTZI. -/
def State.fElem (s : State) (t : ElTy) (x : Nat) : FVal := (ElTy.fmt t).decodeIn (modeFtzi s.mode t) x

/-- Every bit of Pd of a participating element's bytes := the condition (R180). -/
def planVcmp (o : VOp) (s : State) : Plan :=
  let t := o.ty
  let r := fun k =>
    if t.isInt then (eCmp t (o.sub 0 3) (s.elA o k) (s.elB o k), 0)
    else fCompare (o.sub 0 3) (s.fElem t (s.elA o k)) (s.fElem t (s.elB o k))
  let n := spanCount o t.bytes
  let all := (vmap (spanByte o) t.bytes n (s.takes o t) fun _ => 0).mask
  let set_ := (vmap (spanByte o) t.bytes n (fun k => s.takes o t k && (r k).1) fun _ => 0).mask
  let ff := ((List.range n).filter (s.takes o t)).foldl (fun f k => f ||| (r k).2) 0
  s.plan (.vcmp o) fun u => u.putP 2 o.dst (all &&& u.own) set_ ff

/-- A bundle of `VCMP` alone. -/
def execVcmp (o : VOp) (s : State) : Out := s.single (planVcmp o s)

/-- Bit of a predicate register for element k of a span (R21). -/
def elemBit (o : VOp) (t : ElTy) (p : PWord) (k : Nat) : Bool := bit p (spanByte o + t.bytes * k)

/-- A where the element's bit of Pc is 1, else B (R181). -/
def planVsel (o : VOp) (s : State) : Plan :=
  let p := s.srcP o.c
  s.planInt (.vsel o) o 2 fun k => if elemBit o o.ty p k then s.elA o k else s.elB o k

/-- A bundle of `VSEL` alone. -/
def execVsel (o : VOp) (s : State) : Out := s.single (planVsel o s)

/-- The truth table of Pa and Pb on the participating bytes of the span (R182). -/
def planVplog (o : VOp) (s : State) : Plan :=
  let m := (s.elems o .i8 fun _ => 0).mask
  s.plan (.vplog o) fun u => u.putP 2 o.dst (m &&& u.own) (pLog (o.sub 0 4) (s.srcP o.a) (s.srcP o.b)) 0

/-- A bundle of `VPLOG` alone. -/
def execVplog (o : VOp) (s : State) : Out := s.single (planVplog o s)

/-- Whether element k participates and its bit of Pa is 1 (R183). -/
def State.pbit (s : State) (o : VOp) (k : Nat) : Bool := s.takes o o.ty k && elemBit o o.ty (s.srcP o.a) k

/-- An S result of a V operation: the whole 64-bit register; in the latch zero-extended to 1024 bits (R165). -/
def State.planVS (s : State) (i : Instr) (o : VOp) (lat : Nat) (v : Word) : Plan :=
  s.plan i fun u => u.putS lat o.dst v 0 0

/-- The number of participating elements whose bit of Pa is 1 (R183). -/
def planVpcnt (o : VOp) (s : State) : Plan :=
  s.planVS (.vpcnt o) o 2
    (BitVec.ofNat 64 ((List.range (spanCount o o.ty.bytes)).filter (s.pbit o)).length)

/-- A bundle of `VPCNT` alone. -/
def execVpcnt (o : VOp) (s : State) : Out := s.single (planVpcnt o s)

/-- The least such element, counted from the start of the span; n if there is none (R183). -/
def planVpfirst (o : VOp) (s : State) : Plan :=
  let n := spanCount o o.ty.bytes
  s.planVS (.vpfirst o) o 2 (BitVec.ofNat 64 (((List.range n).find? (s.pbit o)).getD n))

/-- A bundle of `VPFIRST` alone. -/
def execVpfirst (o : VOp) (s : State) : Out := s.single (planVpfirst o s)

/-- Pd := 1 if any, or with `.all` every, participating element has Pa bit 1 (R183). -/
def planVpany (o : VOp) (s : State) : Plan :=
  let ks := (List.range (spanCount o o.ty.bytes)).filter (s.takes o o.ty)
  let q := fun k => elemBit o o.ty (s.srcP o.a) k
  let x := if o.sub 0 1 = 1 then ks.all q else ks.any q
  s.plan (.vpany o) fun u => u.putP 2 o.dst u.own (allBits x) 0

/-- A bundle of `VPANY` alone. -/
def execVpany (o : VOp) (s : State) : Out := s.single (planVpany o s)

end Sys2Proof.Machine
end

