-- ==== Sys2Proof/Machine/VFloat.lean ====
section
/-! DEFINITION. Floating-point operations of the vector slots, special functions, conversions, quantisation (R173 to R179). -/

namespace Sys2Proof.Machine

/-! ## Arithmetic (R173) -/

/-- The effective mode of a V operation for its own type. -/
def State.vEff (s : State) (o : VOp) : Eff := s.effV o o.ty

/-- The number of element k of a span within the register (R62). -/
def regIndex (o : VOp) (t : ElTy) (k : Nat) : Nat := spanByte o / t.bytes + k

/-- The plan of an element-wise floating-point operation that rounds: from the effective mode and the element's number. -/
def State.planRound (s : State) (i : Instr) (o : VOp) (lat : Nat) (f : Eff → Nat → Nat → FRes) : Plan :=
  let e := s.vEff o
  s.planFlagged i o lat e.isSr fun k => f e (regIndex o o.ty k) k

/-- Elements of A, B and C as values, after FTZI. -/
def State.fA (s : State) (o : VOp) (k : Nat) : FVal := s.fElem o.ty (s.elA o k)
def State.fB (s : State) (o : VOp) (k : Nat) : FVal := s.fElem o.ty (s.elB o k)
def State.fC (s : State) (o : VOp) (k : Nat) : FVal := s.fElem o.ty (s.elC o k)

/-- rnd(a + b) (R173). -/
def planVfadd (o : VOp) (s : State) : Plan :=
  s.planRound (.vfadd o) o 4 fun e j k => (ElTy.fmt o.ty).add e j (s.fA o k) (s.fB o k)

/-- A bundle of `VFADD` alone. -/
def execVfadd (o : VOp) (s : State) : Out := s.single (planVfadd o s)

/-- rnd(a − b) (R173). -/
def planVfsub (o : VOp) (s : State) : Plan :=
  s.planRound (.vfsub o) o 4 fun e j k => (ElTy.fmt o.ty).add e j (s.fA o k) (s.fB o k).negate

/-- A bundle of `VFSUB` alone. -/
def execVfsub (o : VOp) (s : State) : Out := s.single (planVfsub o s)

/-- rnd(a × b) (R173). -/
def planVfmul (o : VOp) (s : State) : Plan :=
  s.planRound (.vfmul o) o 4 fun e j k => (ElTy.fmt o.ty).mul e j (s.fA o k) (s.fB o k)

/-- A bundle of `VFMUL` alone. -/
def execVfmul (o : VOp) (s : State) : Out := s.single (planVfmul o s)

/-- rnd(a × b + c), rounded once (R173). -/
def planVffma (o : VOp) (s : State) : Plan :=
  s.planRound (.vffma o) o 4 fun e j k => (ElTy.fmt o.ty).fma e j (s.fA o k) (s.fB o k) (s.fC o k)

/-- A bundle of `VFFMA` alone. -/
def execVffma (o : VOp) (s : State) : Out := s.single (planVffma o s)

/-- The minimum under the rules of `fminmax` (R173, R135). -/
def planVfmin (o : VOp) (s : State) : Plan :=
  s.planFlagged (.vfmin o) o 4 false fun k => (ElTy.fmt o.ty).pick (modeFtzo s.mode o.ty) false (s.fA o k) (s.fB o k)

/-- A bundle of `VFMIN` alone. -/
def execVfmin (o : VOp) (s : State) : Out := s.single (planVfmin o s)

/-- The maximum under the rules of `fminmax` (R173, R135). -/
def planVfmax (o : VOp) (s : State) : Plan :=
  s.planFlagged (.vfmax o) o 4 false fun k => (ElTy.fmt o.ty).pick (modeFtzo s.mode o.ty) true (s.fA o k) (s.fB o k)

/-- A bundle of `VFMAX` alone. -/
def execVfmax (o : VOp) (s : State) : Out := s.single (planVfmax o s)

/-! ## Special functions (R174, R175; log entry 7) -/

/-- The plan of a special function by its opcode. -/
def State.planFn (s : State) (i : Instr) (o : VOp) (op : Nat) : Plan :=
  s.planRound i o 8 fun e j k => fnResult (ElTy.fmt o.ty) e j op (s.fA o k)

/-- 1/x (R175). -/
def planVrcp (o : VOp) (s : State) : Plan :=
  s.planFn (.vrcp o) o 0x28

/-- A bundle of `VRCP` alone. -/
def execVrcp (o : VOp) (s : State) : Out := s.single (planVrcp o s)

/-- 1/√x (R175). -/
def planVrsq (o : VOp) (s : State) : Plan :=
  s.planFn (.vrsq o) o 0x29

/-- A bundle of `VRSQ` alone. -/
def execVrsq (o : VOp) (s : State) : Out := s.single (planVrsq o s)

/-- √x, correctly rounded (R175). -/
def planVsqrt (o : VOp) (s : State) : Plan :=
  s.planFn (.vsqrt o) o 0x2A

/-- A bundle of `VSQRT` alone. -/
def execVsqrt (o : VOp) (s : State) : Out := s.single (planVsqrt o s)

/-- 2^x (R175). -/
def planVexp2 (o : VOp) (s : State) : Plan :=
  s.planFn (.vexp2 o) o 0x2B

/-- A bundle of `VEXP2` alone. -/
def execVexp2 (o : VOp) (s : State) : Out := s.single (planVexp2 o s)

/-- log2 x (R175). -/
def planVlog2 (o : VOp) (s : State) : Plan :=
  s.planFn (.vlog2 o) o 0x2C

/-- A bundle of `VLOG2` alone. -/
def execVlog2 (o : VOp) (s : State) : Out := s.single (planVlog2 o s)

/-- sin x (R175). -/
def planVsin (o : VOp) (s : State) : Plan :=
  s.planFn (.vsin o) o 0x2D

/-- A bundle of `VSIN` alone. -/
def execVsin (o : VOp) (s : State) : Out := s.single (planVsin o s)

/-- cos x (R175). -/
def planVcos (o : VOp) (s : State) : Plan :=
  s.planFn (.vcos o) o 0x2E

/-- A bundle of `VCOS` alone. -/
def execVcos (o : VOp) (s : State) : Out := s.single (planVcos o s)

/-- tanh x (R175). -/
def planVtanh (o : VOp) (s : State) : Plan :=
  s.planFn (.vtanh o) o 0x2F

/-- A bundle of `VTANH` alone. -/
def execVtanh (o : VOp) (s : State) : Out := s.single (planVtanh o s)

/-! ## Conversions (R176) -/

/-- The source type of `vcvt`, sub-field [3:0]. -/
def VOp.cvtSrc (o : VOp) : ElTy := (ElTy.ofCode (BitVec.ofNat 4 (o.sub 0 4))).getD .f32

/-- The source and destination elements of step k of `vcvt` (R176). -/
def cvtPair (o : VOp) (k : Nat) : Nat × Nat :=
  let ss := (VOp.cvtSrc o).bytes
  let ds := o.ty.bytes
  let n := spanLen o / max ss ds
  let p := o.sub 4 3
  (if ds ≤ ss then k else p * n + k, if ss ≤ ds then k else p * n + k)

/-- Each element converted; a narrowing fills part p of the destination, a widening reads part p of the source (R176). `one`, `idx` and
an immediate are of the source's type (R92; DEDUCED, log entry 45). -/
def planVcvt (o : VOp) (s : State) : Plan :=
  let st := VOp.cvtSrc o
  let n := spanLen o / max st.bytes o.ty.bytes
  let e := s.vEff o
  let x := s.srcV st o.imm o.a
  let r := fun k => convertEl s.mode st o.ty e (regIndex o o.ty (cvtPair o k).2) (elem o st x (cvtPair o k).1)
  let fl := orFlags (((List.range n).filter fun k => s.takes o o.ty (cvtPair o k).2).map r)
  let ks := (List.range n).filter fun k => s.puts o o.ty (cvtPair o k).2
  let w := ks.foldl (fun w k => w.add (spanByte o + o.ty.bytes * (cvtPair o k).2) o.ty.bytes (r k).bits) VWrite.empty
  let sr := e.isSr && !(st.isInt && o.ty.isInt)
  { s.base (.vcvt o) with
    sr := sr,
    eff := fun u => let u := u.putElems 3 o.dst w fl.1 fl.2; if sr then u.stepSr else u }

/-- A bundle of `VCVT` alone. -/
def execVcvt (o : VOp) (s : State) : Out := s.single (planVcvt o s)

/-! ## Block quantisation (R177 to R179) -/

/-- On a wave, an operation in block layout needs every thread in the issuing path, else #CONV (R179). -/
def State.convCheck (s : State) : Option Raise :=
  if s.iss.st.isWave && s.iss.lanes ≠ BitVec.allOnes 32 then some (.service cCONV (s.iss.lanes.setWidth 64)) else none

/-- A source register number, 0 of what is no register. -/
def Src.num : Src → Nat
  | .reg r => r.toNat
  | _ => 0

/-- The magnitude of a finite value as m × 2^e. -/
def FVal.magnitude : FVal → Option (Nat × Int)
  | .fin _ m e => some (m, e)
  | _ => none

/-- The greater of two magnitudes. -/
def maxMag (a b : Nat × Int) : Nat × Int :=
  if FVal.lt (.fin false a.1 a.2) (.fin false b.1 b.2) then b else a

/-- The least p with m × 2^e ≤ F × 2^p (R177). -/
def ceilLog2 (m : Nat) (e : Int) (f : Nat) : Int :=
  let p0 : Int := (Nat.log2 m : Int) + e - (Nat.log2 f : Int)
  let le := fun (p : Int) => !(FVal.lt (.fin false f p) (.fin false m e))
  if le (p0 - 1) then p0 - 1 else if le p0 then p0 else p0 + 1

/-- The block scale that `vquant` computes, as `f32` bits within 2^-126 to 2^127 (R177). -/
def quantScale (t : ElTy) (pow2 : Bool) (m : Option (Nat × Int)) : Nat :=
  let f : Nat := if t = .e4m3 then 448 else 57344
  match m with
  | none => 0x3F800000
  | some (0, _) => 0x3F800000
  | some (m, e) =>
    if pow2 then
      let p := ceilLog2 m e f
      let p := if p < -126 then -126 else if 127 < p then 127 else p
      ((p + 127).toNat) * 2 ^ 23
    else
      let b := (Fmt.round fmt32 ⟨3, false, false, fun _ => 0⟩ 0 (quotient false m f e)).bits
      if b < 0x00800000 then 0x00800000 else if 0x7F000000 < b then 0x7F000000 else b

/-- An element divided by the block scale and converted (R177, R65). -/
def quantElem (t : ElTy) (eff : Eff) (j : Nat) (s : Nat × Int) : FVal → FRes
  | .fin a m e => if m = 0 then FRes.pure ((ElTy.fmt t).sign a) else (ElTy.fmt t).round eff j (quotient a m s.1 (e - s.2))
  | v => (ElTy.fmt t).convert eff j v

/-- 128 `f32` values into a block of 8-bit floats with the scale computed; #CONV on a partial path (R177, R179). -/
def planVquant (o : VOp) (s : State) : Plan :=
  let x := s.stream s.iss.st
  let v := fun j => s.fElem .f32 (elemAt (x.readV (BitVec.ofNat 6 (Src.num o.a + j / 32))) 0 4 (j % 32))
  let ks := (List.range 128).filter (s.takes o o.ty)
  let mags := ks.filterMap fun j => (v j).magnitude
  let m := match mags with | [] => none | h :: t => some (t.foldl maxMag h)
  let sb := quantScale o.ty (o.sub 5 1 == 1) m
  let e := s.vEff o
  let r := fun j => quantElem o.ty e j (scaleVal sb) (v j)
  let fl := orFlags (ks.map r)
  { s.base (.vquant o) with
    val := s.convCheck,
    sr := e.isSr,
    eff := fun u =>
      let u := u.putElems 6 o.dst (s.elems o o.ty fun j => (r j).bits) fl.1 fl.2
      let w := VWrite.empty.add (4 * (o.sub 0 5)) 4 sb
      let scale := { u.result 6 (.v (BitVec.ofNat 6 (Src.num o.b))) o.dst.nw w.mask w.val 0 0 with latch := false }
      let u := u.deliver scale
      if e.isSr then u.stepSr else u }

/-- A bundle of `VQUANT` alone. -/
def execVquant (o : VOp) (s : State) : Out := s.single (planVquant o s)

/-- One element of `vdeq`: the value times the scale, rounded once into `f32` (R178). A signalling operand sets NV beside an invalid scale too
(R55). -/
def deqElem (t : ElTy) (eff : Eff) (ftzi : Bool) (j scale x : Nat) : FRes :=
  if !scaleOk scale then
    (fmt32.nanRes ((fmt32.decode scale).isSnan || (!t.isInt && ((ElTy.fmt t).decodeIn ftzi x).isSnan))).mflag mSCLINV
  else
    let s := scaleVal scale
    if t.isInt then
      let y := ElTy.val t x
      fmt32.round eff j (Exact.ofInt false (y * s.1) s.2)
    else fmt32.mul eff j ((ElTy.fmt t).decodeIn ftzi x) (.fin false s.1 s.2)

/-- 128 elements of one register into four of `f32`, times a block scale; #CONV on a partial path (R178, R179). `one` or `idx` in place of the
scale's register is of the type `f32` in which the entry reads it (R92; DEDUCED, log entry 45). -/
def planVdeq (o : VOp) (s : State) : Plan :=
  let t := o.ty
  let x := s.vA o
  let sc := elemAt (s.srcV .f32 o.imm o.b) 0 4 (o.sub 0 5)
  let e := s.effV o .f32
  let r := fun j => deqElem t e (modeFtzi s.mode t) (j % 32) sc (elemAt x 0 1 j)
  let on := fun j => (s.stream s.iss.st).test o.pred j
  let fl := orFlags (((List.range 128).filter on).map r)
  { s.base (.vdeq o) with
    val := s.convCheck,
    sr := e.isSr,
    eff := fun u =>
      let u := (List.range 4).foldl (fun u q =>
        let w := vmap 0 4 32 (fun k => on (32 * q + k)) fun k => (r (32 * q + k)).bits
        u.deliver { u.result 4 (.v (o.dst.reg + BitVec.ofNat 6 q)) o.dst.nw w.mask w.val
                      (if q = 0 then fl.1 else 0) (if q = 0 then fl.2 else 0) with latch := q == 0 }) u
      if e.isSr then u.stepSr else u }

/-- A bundle of `VDEQ` alone. -/
def execVdeq (o : VOp) (s : State) : Out := s.single (planVdeq o s)

end Sys2Proof.Machine
end

