-- ==== Sys2Proof/Machine/Permute.lean ====
section
/-! DEFINITION. Permutes, reductions and scans, moves of the vector slots (R184 to R194). -/

namespace Sys2Proof.Machine

/-! ## Permutes (R184 to R189) -/

/-- Byte j of a register within a V operation's span. -/
def spanByteAt (o : VOp) (x : VWord) (j : Nat) : Nat := elemAt x (8 * spanByte o) 1 j

/-- A 16-entry table of bytes in each 128-bit segment, indexed by a nibble (R184). -/
def planVtbl (o : VOp) (s : State) : Plan :=
  s.planInt (.vtbl o) o 2 (tblByte (o.sub 0 1 == 1) (spanByteAt o (s.vA o)) (spanByteAt o (s.vB o)))

/-- A bundle of `VTBL` alone. -/
def execVtbl (o : VOp) (s : State) : Out := s.single (planVtbl o s)

/-- Bytes of A and B selected by an index byte (R185). -/
def planVperm (o : VOp) (s : State) : Plan :=
  s.planInt (.vperm o) o 2
    (permByte (spanLen o) (spanByteAt o (s.vA o)) (spanByteAt o (s.vB o)) (spanByteAt o (s.vC o)))

/-- A bundle of `VPERM` alone. -/
def execVperm (o : VOp) (s : State) : Out := s.single (planVperm o s)

/-- A span-long run of bytes of A and B from a byte offset (R186). -/
def planVslide (o : VOp) (s : State) : Plan :=
  s.planInt (.vslide o) o 2 (slideByte (spanLen o) (o.sub 0 7) (spanByteAt o (s.vA o)) (spanByteAt o (s.vB o)))

/-- A bundle of `VSLIDE` alone. -/
def execVslide (o : VOp) (s : State) : Out := s.single (planVslide o s)

/-- Elements moved within the span (R187). -/
def planVshfl (o : VOp) (s : State) : Plan :=
  s.planInt (.vshfl o) o 3 fun k =>
    s.elA o (shflFrom (o.sub 5 2) (o.sub 0 5) (spanCount o o.ty.bytes) (s.elB o) k)

/-- A bundle of `VSHFL` alone. -/
def execVshfl (o : VOp) (s : State) : Out := s.single (planVshfl o s)

/-- One element into every participating element (R188). -/
def planVbcast (o : VOp) (s : State) : Plan :=
  s.planInt (.vbcast o) o 2 fun _ => s.elA o ((s.vBs o).toNat % spanCount o o.ty.bytes)

/-- A bundle of `VBCAST` alone. -/
def execVbcast (o : VOp) (s : State) : Out := s.single (planVbcast o s)

/-- One element into S[d], if its test bit is 1 (R188). -/
def planVext (o : VOp) (s : State) : Plan :=
  let i := (s.vBs o).toNat % spanCount o o.ty.bytes
  if (s.stream s.iss.st).test o.pred (spanByte o + o.ty.bytes * i) then
    s.planVS (.vext o) o 2 (extendElem o.ty (s.elA o i))
  else s.base (.vext o)

/-- A bundle of `VEXT` alone. -/
def execVext (o : VOp) (s : State) : Out := s.single (planVext o s)

/-- A into one element, if it participates (R188). -/
def planVins (o : VOp) (s : State) : Plan :=
  let i := (s.vBs o).toNat % spanCount o o.ty.bytes
  let w := vmap (spanByte o) o.ty.bytes (spanCount o o.ty.bytes) (fun k => k == i && s.puts o o.ty k)
    fun _ => (s.vAs o).toNat % o.modulus
  s.plan (.vins o) fun u => u.putElems 2 o.dst w 0 0

/-- A bundle of `VINS` alone. -/
def execVins (o : VOp) (s : State) : Out := s.single (planVins o s)

/-- Two sources interleaved (R189). -/
def planVzip (o : VOp) (s : State) : Plan :=
  s.planInt (.vzip o) o 2 (zipElem (o.sub 0 1) (spanCount o o.ty.bytes) (s.elA o) (s.elB o))

/-- A bundle of `VZIP` alone. -/
def execVzip (o : VOp) (s : State) : Out := s.single (planVzip o s)

/-- One interleaved pair separated (R189). -/
def planVunzip (o : VOp) (s : State) : Plan :=
  s.planInt (.vunzip o) o 2 (unzipElem (o.sub 0 1) (spanCount o o.ty.bytes) (s.elA o) (s.elB o))

/-- A bundle of `VUNZIP` alone. -/
def execVunzip (o : VOp) (s : State) : Out := s.single (planVunzip o s)

/-! ## Reductions and scans (R190 to R193) -/

/-- The plan of a reduction: one result, with its flags, into every element of the span, on a wave of the path's lanes (R190). -/
def State.planReduce (s : State) (i : Instr) (o : VOp) (lat : Nat) (r : Nat) (ff : BitVec 5) (mf : BitVec 4 := 0) : Plan :=
  let w := vmap (spanByte o) o.ty.bytes (spanCount o o.ty.bytes)
    (fun k => !s.iss.st.isWave || bit s.iss.lanes ((spanByte o + o.ty.bytes * k) / 4) || s.upper (spanByte o) o.ty.bytes k) fun _ => r
  s.plan i fun u => u.putElems lat o.dst w ff mf

/-- The combination of the participating elements of A. -/
def State.reduceInt (s : State) (o : VOp) (op : Nat → Nat → Nat) (unit_ : Nat) : Nat :=
  reduce (spanCount o o.ty.bytes) (s.takes o o.ty) (s.elA o) op unit_

/-- The participating elements of A as values, after FTZI. -/
def State.fTaken (s : State) (o : VOp) : List FVal :=
  ((List.range (spanCount o o.ty.bytes)).filter (s.takes o o.ty)).map (s.fA o)

/-- The floating minimum or maximum of the participating elements; +0 of none (R190, R191). -/
def State.reducePick (s : State) (o : VOp) (max_ : Bool) : FRes :=
  let f := ElTy.fmt o.ty
  let l := s.fTaken o
  let nv : BitVec 5 := if l.any (fun v => v.isSnan) then fNV else 0
  match l with
  | [] => FRes.pure 0
  | h :: t =>
    let r := t.foldl (fun a b => FVal.pick max_ a b) h
    (f.pick (modeFtzo s.mode o.ty) max_ (if r.isNan then .nan false else r) (if r.isNan then .nan false else r)).flag nv

/-- The wrapped sum of the participating elements (R191). -/
def planVredadd (o : VOp) (s : State) : Plan :=
  s.planReduce (.vredadd o) o 6 (s.reduceInt o (fun a b => (a + b) % o.modulus) 0) 0

/-- A bundle of `VREDADD` alone. -/
def execVredadd (o : VOp) (s : State) : Out := s.single (planVredadd o s)

/-- The least participating element (R191). -/
def planVredmin (o : VOp) (s : State) : Plan :=
  if o.ty.isFp then let r := s.reducePick o false; s.planReduce (.vredmin o) o 6 r.bits r.ff
  else s.planReduce (.vredmin o) o 6 (s.reduceInt o (eMin o.ty) (minUnit o.ty)) 0

/-- A bundle of `VREDMIN` alone. -/
def execVredmin (o : VOp) (s : State) : Out := s.single (planVredmin o s)

/-- The greatest participating element (R191). -/
def planVredmax (o : VOp) (s : State) : Plan :=
  if o.ty.isFp then let r := s.reducePick o true; s.planReduce (.vredmax o) o 6 r.bits r.ff
  else s.planReduce (.vredmax o) o 6 (s.reduceInt o (eMax o.ty) (maxUnit o.ty)) 0

/-- A bundle of `VREDMAX` alone. -/
def execVredmax (o : VOp) (s : State) : Out := s.single (planVredmax o s)

/-- The AND, OR or XOR of the participating elements (R191). -/
def planVredlog (o : VOp) (s : State) : Plan :=
  s.planReduce (.vredlog o) o 6 (s.reduceInt o (redLog (o.sub 0 2)) (redLogUnit o.ty (o.sub 0 2))) 0

/-- A bundle of `VREDLOG` alone. -/
def execVredlog (o : VOp) (s : State) : Out := s.single (planVredlog o s)

/-- A running combination over the participating elements (R193). The upper half of an element whose lower half lies in another path takes
the combination without that element (R164; DESIGN CHOICE, log entry 54). -/
def planVscan (o : VOp) (s : State) : Plan :=
  s.planInt (.vscan o) o 6 (scanElem o.ty (o.sub 0 2) (o.sub 2 1 == 1) (s.takes o o.ty) (s.elA o))

/-- A bundle of `VSCAN` alone. -/
def execVscan (o : VOp) (s : State) : Out := s.single (planVscan o s)

/-- One level of the sum tree of R192: pairs of a list, each sum rounded and numbered, absent operands passed through; the
sums' flags are gathered. -/
def treeLevel (f : Fmt) (eff : Eff) : Nat → List (Option Nat) → List (Option Nat × FRes)
  | j, some a :: some b :: t =>
    let r := f.add eff j (f.decode a) (f.decode b)
    (some r.bits, r) :: treeLevel f eff (j + 1) t
  | j, a :: b :: t => ((if a.isSome then a else b), FRes.pure 0) :: treeLevel f eff (j + 1) t
  | _, [a] => [(a, FRes.pure 0)]
  | _, [] => []

/-- The sum tree: levels until one element is left, the sums numbered in the order in which they are formed. -/
def treeSum (f : Fmt) (eff : Eff) : Nat → Nat → List (Option Nat) → BitVec 5 × BitVec 4 → Option Nat × (BitVec 5 × BitVec 4)
  | 0, _, l, fl => (l.headD none, fl)
  | fuel + 1, j, l, fl =>
    match l with
    | [] => (none, fl)
    | [a] => (a, fl)
    | _ =>
      let r := treeLevel f eff j l
      let g := orFlags (r.map (·.2))
      treeSum f eff fuel (j + l.length / 2) (r.map (·.1)) (fl.1 ||| g.1, fl.2 ||| g.2)

/-- An element after FTZI, as bits. -/
def ftziBits (f : Fmt) (ftzi : Bool) (x : Nat) : Nat :=
  if ftzi && f.subnormal x then f.sign (x.testBit (f.ebits + f.mbits)) else x

/-- The sum of the participating elements by the tree of R83, delivered as a result of its type (R192). -/
def planVfredadd (o : VOp) (s : State) : Plan :=
  let f := ElTy.fmt o.ty
  let e := s.vEff o
  let n := spanCount o o.ty.bytes
  let ftzi := modeFtzi s.mode o.ty
  let l := (List.range n).map fun k => if s.takes o o.ty k then some (ftziBits f ftzi (s.elA o k)) else none
  let nv : BitVec 5 := if (s.fTaken o).any (fun v => v.isSnan) then fNV else 0
  let r := treeSum f e 8 0 l (nv, 0)
  let out : FRes := match r.1 with
    | none => FRes.pure 0
    | some x => match f.decode x with
      | .nan _ => FRes.pure f.nan
      | .inf a => FRes.pure (f.inf a)
      | v => f.ofVal { e with rm := 1 } 0 v
  let p := s.planReduce (.vfredadd o) o 8 out.bits (r.2.1 ||| out.ff) (r.2.2 ||| out.mf)
  { p with
    sr := e.isSr,
    eff := fun u => let u := p.eff u; if e.isSr then u.stepSr else u }

/-- A bundle of `VFREDADD` alone. -/
def execVfredadd (o : VOp) (s : State) : Out := s.single (planVfredadd o s)

/-! ## Moves (R194) -/

/-- D := A (R194). -/
def planVmov (o : VOp) (s : State) : Plan :=
  s.planInt (.vmov o) o 2 (s.elA o)

/-- A bundle of `VMOV` alone. -/
def execVmov (o : VOp) (s : State) : Out := s.single (planVmov o s)

/-- D := S[a] mod 2^N (R194). -/
def planVmovS (o : VOp) (s : State) : Plan :=
  s.planInt (.vmovS o) o 2 fun _ => (s.vAs o).toNat % o.modulus

/-- A bundle of `VMOV_S` alone. -/
def execVmovS (o : VOp) (s : State) : Out := s.single (planVmovS o s)

/-- D := a 32-bit immediate, sign-extended for `i64` and zero-extended for `n64` (R194). -/
def planVli (o : VOp) (s : State) : Plan :=
  let k := fld o.data 0 32
  let v := if o.ty = .i64 then wrap 64 (sextNat 32 k) else k % o.modulus
  s.planInt (.vli o) o 2 fun _ => v

/-- A bundle of `VLI` alone. -/
def execVli (o : VOp) (s : State) : Out := s.single (planVli o s)

/-- The element's own number, or a field of the WID: on a wave of the thread in lane k (R194). -/
def planVlane (o : VOp) (s : State) : Plan :=
  let x := s.stream s.iss.st
  let c := o.sub 0 4
  s.planInt (.vlane o) o 2 fun k =>
    (if c = 8 then k else (widCode (s.widOf s.iss.st k) x.csr.widf 0 c).toNat) % o.modulus

/-- A bundle of `VLANE` alone. -/
def execVlane (o : VOp) (s : State) : Out := s.single (planVlane o s)

end Sys2Proof.Machine
end

