-- ==== Sys2Proof/Machine/Hierarchy.lean ====
section
/-! DEFINITION. The physical map, homes, the directory with its agents, cluster caches and L1s, commutative partials, and what
acquires and releases do to them (chapters 10 and 12, R447). -/

namespace Sys2Proof.Machine

/-! ## The physical map and homes (R375, R447) -/

/-- The regions of the physical address space (R447). -/
inductive Region where
  | lpddr | cxl (i : Nat) | peer (m : Nat) | host (d : Nat) | control | counters | recorder | none
  deriving DecidableEq, Repr

/-- The region of a physical address (R447). -/
def region (pa : Nat) : Region :=
  if pa < 768 * 2 ^ 30 then .lpddr
  else if 2 ^ 40 ≤ pa ∧ pa < 17 * 2 ^ 40 then .cxl (pa / 2 ^ 40 - 1)
  else if 2 ^ 48 ≤ pa ∧ pa < 2 ^ 48 + 16 * 2 ^ 40 then
    let m := (pa - 2 ^ 48) / 2 ^ 40
    if m = Config.module.toNat then .none else .peer m
  else if 4 * 2 ^ 48 ≤ pa ∧ pa < 6 * 2 ^ 48 then .host (pa / 2 ^ 48 - 4)
  else if 0x000F000000000000 ≤ pa ∧ pa < 0x000F000000010000 then .control
  else if 0x000F000000010000 ≤ pa ∧ pa < 0x000F000000018000 then .counters
  else if 0x000F000000020000 ≤ pa ∧ pa < 0x000F000000040000 then .recorder
  else .none

/-- Whether bytes are held behind an address: memory, not a register or a hole. -/
def Region.isMemory : Region → Bool
  | .lpddr | .cxl _ | .peer _ | .host _ => true
  | _ => false

/-- The home die of a physical address (R375). -/
def homeDie (pa : Nat) : Nat :=
  match region pa with
  | .cxl i => b2n (Config.cxlDie i)
  | .host d => d
  | _ => pa / 2 ^ 21 % 2

/-- The LPDDR-6 channel of an address among its home base die's 48 (R375): bit 21 does not count. -/
def homeChannel (pa : Nat) : Nat := (pa % 2 ^ 21 + pa / 2 ^ 22 * 2 ^ 21) / 256 % 48

/-- The home die of a line. -/
def lineDie (ln : Nat) : Nat := homeDie (128 * ln)

/-- Whether a line is homed in a peer module, whose directory records it (R375, R384). -/
def peerLine (ln : Nat) : Bool := match region (128 * ln) with | .peer _ => true | _ => false

/-- A host port, and the state with one changed. -/
def State.port (s : State) (d : Bool) : Port := if d then s.edge.port1 else s.edge.port0
def State.modPort (s : State) (d : Bool) (f : Port → Port) : State :=
  s.modEdge fun e => if d then { e with port1 := f e.port1 } else { e with port0 := f e.port0 }

/-- Whether an address lies in the memory of a host whose port is being reset: an access to it is an uncorrectable error (R455). -/
def State.hostAway (s : State) (pa : Nat) : Bool :=
  match region pa with
  | .host d => (s.port (d = 1)).resetting
  | _ => false

/-- Whether the HDM decoder of a port covers a line, and the port takes transactions (R449, R454). -/
def Port.covers (p : Port) (ln : Nat) : Bool :=
  !p.resetting && decide (p.window.1 ≤ ln ∧ ln < p.window.1 + p.window.2) && region (128 * ln) = .lpddr

/-- Whether the directory takes a request of an agent for a line: of a host's caching agent, for what its port's decoder covers. -/
def State.admitsAgent (s : State) (a ln : Nat) : Bool := !(a = 2 || a = 3) || (s.port (a = 3)).covers ln

/-- A Kwaol port, and the state with one changed. -/
def State.link (s : State) (p : Nat) : Link := Table.get Link.reset s.edge.links p
def State.modLink (s : State) (p : Nat) (f : Link → Link) : State :=
  s.modEdge fun e => { e with links := Table.put e.links p (f (Table.get Link.reset e.links p)) }

/-- The port that takes what goes to a port: itself, or, where it is down, the one configured in its place (R458). -/
def State.portFrom (s : State) (p : Nat) : Nat → Option Nat
  | 0 => none
  | n + 1 => if (s.link p).down then (Config.altPort p).bind fun k => s.portFrom k n else some p

/-- The peer module of an address that no path reaches any more (R458). -/
def State.cutOff (s : State) (pa : Nat) : Option Nat :=
  match region pa with
  | .peer m => if (s.portFrom (Config.portOf m) 16).isNone then some m else none
  | _ => none

/-- Whether no access reaches an address: of a host that is away, of a peer that no path reaches (R455, R458). -/
def State.gone (s : State) (pa : Nat) : Bool := s.hostAway pa || (s.cutOff pa).isSome

/-- Whether an access to an address meets an uncorrectable error: poison at the line's home, or memory that no access reaches (R455,
R458, R461). -/
def State.lost (s : State) (pa : Nat) : Bool := s.mm.poison.contains (pa / 128) || s.gone pa

/-- The state in which a stream's access to a lost address comes to its uncorrectable error next, with the link form of TVAL for a peer:
the error ends its task (R349, R458, R461). -/
def State.raiseLost (s : State) (st : StreamId) (pa : Nat) : State :=
  match s.cutOff pa with
  | some m => s.next [.row .uncorrectableError (.error st 8 (BitVec.ofNat 64 m))]
  | none => s.next [.row .uncorrectableError (.error st 0 (BitVec.ofNat 64 pa))]

/-- The caching agent of a supervisor core, and of a die L2 (R384). -/
def superAgent (n : Nat) : Nat := 0x10 + n

/-- The cluster of a tile or shader core: 16 × die + casement, or + 8 + shader cluster. -/
def clusterOf : CoreId → Nat
  | .tile n => 16 * (n / 32) + n % 32 / 4
  | .shader n => 16 * (n / 64) + 8 + n % 64 / 8
  | .super n => 16 * (n / 16)

/-- The join index of a core's cluster, of a supervisor core: 32 × die + local index (R344). -/
def joinIndex : CoreId → Nat
  | .super n => 32 * (n / 16) + 16 + n % 16
  | c => 32 * (clusterOf c / 16) + clusterOf c % 16

/-! ## Lines at home -/

/-- The 128 bytes of a line at its home. -/
def MemSys.atHome (m : MemSys) (ln : Nat) : VWord := BitVec.ofNat 1024 (Mem.num m.mem (128 * ln) 128)

/-- All bytes of a line. -/
def allBytes : PWord := BitVec.allOnes 128

/-- Bytes merged onto others under a mask. -/
def merge (mask : PWord) (v old : VWord) : VWord := VWrite.onto ⟨mask, v⟩ old

/-- The memory with the masked bytes of a line written. -/
def putMasked (mem : List Host.Cell) (ln : Nat) (mask : PWord) (v : VWord) : List Host.Cell :=
  Mem.putNum mem (128 * ln) 128 (merge mask v (BitVec.ofNat 1024 (Mem.num mem (128 * ln) 128))).toNat

/-- The system-cache lines of a base die that a class holds (R394, R396): those that it allocated, and its pinned lines. -/
def MemSys.held (m : MemSys) (d c : Nat) : Nat :=
  (m.l3.filter fun e => e.cls = c && lineDie e.line = d).length
    + (((m.pins.filter fun p => p.cls = c && lineDie p.line = d && !(m.l3.any fun e => e.line = p.line && e.cls = c)).map (·.line)).eraseDups).length

/-- The set of a line in its base die's system cache, and its ways: 32 slices of 32 MiB, 16 ways (R374). The slice and the set are chosen by
a hash of the address that the manual does not give (R375; DESIGN CHOICE, log entry 18). -/
def l3Set (ln : Nat) : Nat × Nat := (lineDie ln, ln % 524288)
def l3Ways : Nat := 16

/-- A class's quota and its reserve, in lines of a base die (R394). -/
def State.quota (s : State) (c : Nat) : Nat := fld (s.ctl (0x800 + 0x20 * c)) 0 11 * 8192
def State.reserved (s : State) (c : Nat) : Nat := fld (s.ctl (0x800 + 0x20 * c)) 16 11 * 8192

/-- The line that an allocation of class c for a line evicts from its die's system cache (R396): at its quota the least recently used of
its own, in the line's set, or in another where that set has room; in a full set the least recently used of a class above its reserve;
`none` where no line has to go, `some none` where none may. -/
def State.l3Victim (s : State) (ln c : Nat) : Option (Option L3Line) :=
  let d := lineDie ln
  let here := s.mm.l3.filter fun e => lineDie e.line = d && !(s.mm.pins.any fun p => p.line = e.line)
  let set := here.filter fun e => decide (l3Set e.line = l3Set ln)
  let full := decide (l3Ways ≤ (s.mm.l3.filter fun e => decide (l3Set e.line = l3Set ln)).length)
  if s.quota c ≤ s.mm.held d c then
    some ((set.find? fun e => e.cls = c).orElse fun _ => if full then none else here.find? fun e => e.cls = c)
  else if full then some (set.find? fun e => s.reserved e.cls < s.mm.held d e.cls)
  else none

/-- The state after a 128-byte transfer to or from LPDDR-6 spends a line of a regulated class's bucket (R395). -/
def State.spend (s : State) (d c : Nat) : State :=
  if fld (s.ctl (0x808 + 0x20 * c)) 0 16 = 0 then s
  else s.modMem fun m => { m with buckets := Table.put m.buckets (d = 1, c) (Table.get 0 m.buckets (d = 1, c) - 1) }

/-- The state after a line is read or written at its home (R375, R395, R396): a line that the system cache holds is its most recently
used; another comes from LPDDR-6, and is allocated to the class of the access where the quotas allow it. Peer and host memory
has no place there. -/
def State.homeUse (s : State) (ln : Nat) (write : Bool) : State :=
  let d := lineDie ln
  let c := s.mm.cls
  let lp := region (128 * ln) = .lpddr
  if !lp && !(match region (128 * ln) with | .cxl _ => true | _ => false) then s
  else match s.mm.l3.find? fun e => e.line = ln with
  | some e =>
    s.modMem fun m => { m with l3 := (m.l3.filter fun x => decide (x.line ≠ ln)) ++ [{ e with dirty := e.dirty || write }] }
  | none =>
    let s := if lp then s.spend d c else s
    if s.quota c = 0 then s
    else match s.l3Victim ln c with
    | none => s.modMem fun m => { m with l3 := m.l3 ++ [⟨ln, c, write⟩] }
    | some none => s
    | some (some v) =>
      let s := if v.dirty && region (128 * v.line) = .lpddr then s.spend d c else s
      s.modMem fun m => { m with l3 := (m.l3.filter fun x => decide (x.line ≠ v.line)) ++ [⟨ln, c, write⟩] }

/-- The state after lines are read or written at their homes: what the system caches hold of them, and the tokens spent. -/
def State.homeUses (s : State) (lines : List Nat) (write : Bool) : State :=
  let t := lines.foldl (fun (s : State) (ln : Nat) => s.homeUse ln write) s
  s.modMem fun m => { m with l3 := t.mm.l3, buckets := t.mm.buckets }

/-- The lines of a range of addresses. -/
def linesIn (pa n : Nat) : List Nat := (List.range ((pa + n + 127) / 128 - pa / 128)).map (pa / 128 + ·)

/-- The state with bytes of a line written at home. -/
def State.putHome (s : State) (ln : Nat) (mask : PWord) (v : VWord) : State :=
  (s.homeUse ln true).modMem fun m => { m with mem := putMasked m.mem ln mask v }

/-! ## Reservations and their places (R382, R383) -/

/-- Places that execute atomics and watch reservations: a core's L1, a cluster cache, a caching agent, the home. -/
def placeL1 : CoreId → Nat
  | .tile n => n
  | .shader n => 64 + n
  | .super n => 192 + n
def placeCluster (c : Nat) : Nat := 256 + c
def placeAgent (a : Nat) : Nat := 512 + a
def placeHome : Nat := 1024

/-- A core's table without what a place's kill clears: the reservations on the granule. -/
def Common.kill (place ln : Nat) (c : Common) : Common :=
  { c with reservations := c.reservations.filter fun r => !(r.place = place && r.granule = ln) }

/-- The state after a place reports a kill of a granule to the cores that hold it reserved there (R383). -/
def State.killAt (s : State) (place ln : Nat) : State :=
  { s with
    tiles := s.tiles.map fun e => (e.1, { e.2 with com := e.2.com.kill place ln }),
    shaders := s.shaders.map fun e => (e.1, { e.2 with com := e.2.com.kill place ln }),
    supers := s.supers.map fun e => (e.1, { e.2 with com := e.2.com.kill place ln }) }

/-- The state after every reservation on a granule is killed, wherever it is watched (R390). -/
def State.killAll (s : State) (ln : Nat) : State :=
  let kill := fun (c : Common) => { c with reservations := c.reservations.filter fun r => decide (r.granule ≠ ln) }
  { s with
    tiles := s.tiles.map fun e => (e.1, { e.2 with com := kill e.2.com }),
    shaders := s.shaders.map fun e => (e.1, { e.2 with com := kill e.2.com }),
    supers := s.supers.map fun e => (e.1, { e.2 with com := kill e.2.com }) }

/-! ## L1 data caches (R374, R377, R409) -/

/-- The lease clock, the epoch bit and the lease length of a die (R379). -/
def State.lclock (s : State) (d : Nat) : BitVec 16 := if d = 1 then s.mm.lclock1 else s.mm.lclock0
def State.epoch (s : State) (d : Nat) : Bool := if d = 1 then s.mm.epoch1 else s.mm.epoch0
def State.lease (s : State) (d : Nat) : Nat := fld (s.ctl (0x100 + 0x20 * d)) 0 14

/-- Whether a fill stamp is within the lease (R380). -/
def State.inLease (s : State) (d : Nat) (stamp : BitVec 16) : Bool := (s.lclock d - stamp).toNat < s.lease d

/-- The L1 line that holds a virtual line for an address space, while its lease lasts; supervisor caches carry none. -/
def State.l1Hit (s : State) (st : StreamId) (vline : Nat) (asid : BitVec 16) : Option L1Line :=
  (s.common st.core).l1.find? fun l => l.vline = vline && l.asid = asid && (st.isSuper || s.inLease st.die l.stamp)

/-- The state with a core's L1 lines filtered. -/
def State.l1Keep (s : State) (c : CoreId) (f : L1Line → Bool) : State :=
  s.modCommon c fun k => { k with l1 := k.l1.filter f }

/-- A list without its first entry that satisfies a test, when it holds n or more that do. -/
def evictFull {α : Type} (n : Nat) (p : α → Bool) (l : List α) : List α :=
  if n ≤ (l.filter p).length then l.eraseP p else l

/-- The state with a line put into a core's L1: another copy of the physical line and, in a full set, the oldest line go first
(R374, R409). -/
def State.l1Fill (s : State) (c : CoreId) (x : L1Line) : State :=
  let set := fun (l : L1Line) => match c with | .super _ => true | _ => decide (l.vline % 256 = x.vline % 256)
  let ways := match c with | .super _ => 512 | _ => 12
  s.modCommon c fun k =>
    { k with l1 := evictFull ways set (k.l1.filter fun l => !(l.pline = x.pline || (l.vline = x.vline && l.asid = x.asid))) ++ [x] }

/-- The state with bytes of a physical line updated in a core's L1, where it holds the line (R377). -/
def State.l1Update (s : State) (c : CoreId) (ln : Nat) (mask : PWord) (v : VWord) : State :=
  s.modCommon c fun k => { k with l1 := k.l1.map fun l => if l.pline = ln then { l with data := merge mask v l.data } else l }

/-! ## Agents and the directory (R384 to R391) -/

/-- The line that an agent holds: in its cache, a supervisor core's also among the victims of its private L2 (R374). -/
def MemSys.agentLine (m : MemSys) (a ln : Nat) : Option AgentLine := (m.lines ++ m.victims).find? fun l => l.agent = a && l.line = ln

/-- The memory system without an agent's line, and with an agent's line. -/
def MemSys.dropLine (m : MemSys) (a ln : Nat) : MemSys :=
  let keep := fun (l : AgentLine) => !(l.agent = a && l.line = ln)
  { m with lines := m.lines.filter keep, victims := m.victims.filter keep }
def MemSys.setLine (m : MemSys) (a ln : Nat) (st : Moesi) (v : VWord) : MemSys :=
  let d := m.dropLine a ln
  { d with lines := ⟨a, ln, st, v⟩ :: d.lines }

/-- Whether a line's bytes are newer than its home's (R388). -/
def Moesi.dirty : Moesi → Bool
  | .m | .o => true
  | _ => false

/-- A directory entry that tracks nothing. -/
def DirEntry.empty : DirEntry := ⟨.u, false, 0, 0, 0, 0⟩

/-- The directory entry of a line. -/
def MemSys.entry (m : MemSys) (ln : Nat) : DirEntry := Table.get DirEntry.empty m.dir ln

/-- The agents that an entry records as sharers: in coarse mode every present agent of every set group (R386, R387). -/
def DirEntry.sharerList (e : DirEntry) (present : List Nat) : List Nat :=
  if e.coarse then present.filter fun a => bit e.sharers (a / 4)
  else (List.range e.nptr).map fun k => fld e.sharers (8 * k) 8

/-- An entry in pointer mode with the sharers given, at most four. -/
def DirEntry.withPtrs (e : DirEntry) (l : List Nat) : DirEntry :=
  { e with coarse := false, nptr := l.length,
           sharers := BitVec.ofNat 64 ((l.zipIdx.map fun (a, k) => a <<< (8 * k)).foldl (· + ·) 0) }

/-- An entry with a sharer added (R386). -/
def DirEntry.add (e : DirEntry) (a : Nat) : DirEntry :=
  if e.coarse then { e with sharers := e.sharers ||| BitVec.twoPow 64 (a / 4) }
  else
    let l := e.sharerList []
    if l.contains a then e
    else if l.length < 4 then e.withPtrs (l ++ [a])
    else { e with coarse := true, nptr := 0, sharers := (l ++ [a]).foldl (fun x b => x ||| BitVec.twoPow 64 (b / 4)) 0 }

/-- An entry owned in E with no sharers (R386). -/
def DirEntry.owned (e : DirEntry) (a : Nat) : DirEntry :=
  { e with st := .e, coarse := false, nptr := 0, owner := BitVec.ofNat 8 a, sharers := 0 }

/-- The agents that hold a copy of a line, as the caches stand. -/
def MemSys.holders (m : MemSys) (ln : Nat) : List Nat := ((m.lines ++ m.victims).filter fun l => l.line = ln).map (·.agent)

/-- A supervisor core by its agent. -/
def agentSuper (a : Nat) : Option Nat := if 0x10 ≤ a ∧ a < 0x30 then some (a - 0x10) else none

/-- The state after an agent's copy of a line is gone: its reservations on it are killed, and a supervisor core's L1 loses the
line (R374, R383). -/
def State.loseLine (s : State) (a ln : Nat) : State :=
  let s := (s.modMem fun m => m.dropLine a ln).killAt (placeAgent a) ln
  match agentSuper a with
  | some n => s.l1Keep (.super n) fun l => l.pline ≠ ln
  | none => s

/-- The dirty data that a holder has of a line. -/
def MemSys.dirtyData (m : MemSys) (ln : Nat) : Option VWord :=
  (m.lines.find? fun l => l.line = ln && l.st.dirty).map (·.data)

/-- The lines that an agent holds. -/
def MemSys.linesOf (m : MemSys) (a : Nat) : List Nat := ((m.lines ++ m.victims).filter fun l => decide (l.agent = a)).map (·.line)

/-- The holder whose data of a line is dirty. -/
def MemSys.dirtyAgent (m : MemSys) (ln : Nat) : Option Nat := (m.lines.find? fun l => l.line = ln && l.st.dirty).map (·.agent)

/-- The state after a recall of a line: every holder loses it, dirty data returns to the system cache, the entry is U (R388). -/
def State.recall (s : State) (ln : Nat) : State :=
  let s := match s.mm.dirtyData ln with
    | some v => (s.putHome ln allBytes v).killAt placeHome ln
    | none => s
  let s := (s.mm.holders ln).foldl (fun s a => s.loseLine a ln) s
  s.modMem fun m => { m with dir := Table.drop m.dir ln }

/-- The directory that records a line and the set there, of 393216 sets of 16 ways (R384); that of a line homed in a peer is the peer's. -/
def dirSet (ln : Nat) : Nat × Nat := (lineDie ln, ln % 393216)

/-- The translation of an address in a list of pages. -/
def xlAt (pages : List Elem) (va : Nat) : Option Xl :=
  (pages.find? fun e => e.k = va % 2 ^ 48 / 4096).map fun e => { e.x with pa := e.x.pa / 4096 * 4096 + va % 4096 }

/-- The pieces of a range within lines: address and length. -/
def linePieces (va n : Nat) : List (Nat × Nat) :=
  (List.range ((va + n + 127) / 128 - va / 128)).map fun j =>
    let lo := max va (128 * (va / 128 + j))
    (lo, min (va + n) (128 * (va / 128 + j + 1)) - lo)

/-- Whether a region of an M operation that the tile fetch unit reads takes in a line (R235). -/
def MatRegion.fetches (r : MatRegion) (ln : Nat) : Bool :=
  r.space = 2 && r.rows.any fun a => (linePieces a r.len).any fun p => match xlAt r.pages p.1 with | some x => x.pa / 128 = ln | none => false

/-- Whether a line is pinned: by `pfb` (R280), or until an array at work has consumed it (R235). -/
def State.pinned (s : State) (ln : Nat) : Bool :=
  (s.mm.pins.any fun p => p.line = ln)
    || s.tiles.any fun e => match e.2.array with
        | some a => (match a.work with | .products _ _ b .. => b.any fun r => r.fetches ln | _ => false)
        | none => false

/-- The state with room for a line's entry: in a full set the least recently allocated entry that is not pinned is recalled,
and every reservation on its line is killed (R390). -/
def State.dirRoom (s : State) (ln : Nat) : State :=
  if peerLine ln || (s.mm.dir.any fun e => e.1 = ln) then s
  else
    let set := s.mm.dir.filter fun e => !peerLine e.1 && decide (dirSet e.1 = dirSet ln)
    if set.length < 16 then s
    else
      let old := (set.filter fun e => !s.pinned e.1).foldl
        (fun (b : Option (Nat × DirEntry)) e => match b with
          | none => some e
          | some x => if e.2.age < x.2.age then some e else b) none
      match old with
      | some e => (s.recall e.1).killAll e.1
      | none => s

/-- The state with a line's entry set; a U entry is not listed, a new one takes its turn of age. -/
def State.setEntry (s : State) (ln : Nat) (e : DirEntry) : State :=
  if e.st = .u then s.modMem fun m => { m with dir := Table.drop m.dir ln }
  else if s.mm.dir.any fun x => x.1 = ln then s.modMem fun m => { m with dir := Table.put m.dir ln e }
  else s.modMem fun m => { m with dir := Table.put m.dir ln { e with age := m.allocs }, allocs := m.allocs + 1 }

/-- The data that a directory sends with a grant from memory. -/
def State.fromHome (s : State) (ln : Nat) : State × VWord := (s.homeUse ln false, s.mm.atHome ln)

/-- Whether an agent is a die L2 of another module (R384, R392). -/
def remoteAgent (a : Nat) : Bool := decide (0x30 ≤ a ∧ a < 0x50)

/-- The remote agents that an entry records as sharers. -/
def State.remoteSharers (s : State) (ln : Nat) : List Nat := ((s.mm.entry ln).sharerList s.mm.present).filter remoteAgent

/-- The state after a writer's dirty bytes of a line have reached the home slice or the home: the home pushes them to the remote sharers of
a SYNCV line (R392). -/
def State.tellRemote (s : State) (a ln : Nat) : State :=
  if (s.remoteSharers ln).isEmpty then s else s.row .writeUpdatePush (.update ln a)

/-- The state after an agent's dirty bytes of a line reach the home; of a SYNCV line, which remote agents share with an owner, they are
pushed on to those (R383, R392). -/
def State.arriveHome (s : State) (a ln : Nat) (v : VWord) : State := ((s.putHome ln allBytes v).killAt placeHome ln).tellRemote a ln

/-- The state after a forwarded read reaches the owner, which keeps the line as S if clean, as O if dirty; an M line's reservations
there are killed (R383, R388). -/
def State.forwardRead (s : State) (owner ln : Nat) : State :=
  match s.mm.agentLine owner ln with
  | some l => (s.modMem fun m => m.setLine owner ln (if l.st.dirty then .o else .s) l.data).killAt (placeAgent owner) ln
  | none => s

/-- The state after an owner writes its dirty line back to the system cache and keeps it as S (R392). -/
def State.cleanOwner (s : State) (owner ln : Nat) : State :=
  match s.mm.agentLine owner ln with
  | some l =>
    ((if l.st.dirty then s.arriveHome owner ln l.data else s).modMem fun m => m.setLine owner ln .s l.data).killAt (placeAgent owner) ln
  | none => s

/-- The state after an invalidation that is on its way to an agent arrives, before the directory's answer to a later request of the
agent (R389): it loses its old copy, and acknowledges. -/
def State.arriveFirst (s : State) (a ln : Nat) : State :=
  let mine := fun (i : Item) => match i with | .row .invalidation (.num3 b l _) => b = a && l = ln | _ => false
  if s.agenda.any mine then
    let s := s.loseLine a ln
    { s with agenda := s.agenda.map fun i => match i with
        | .row .invalidation (.num3 b l w) => if b = a && l = ln then .row .invalidationAck (.num2 w ln) else i
        | _ => i }
  else s

/-- The state after a read request of an agent is served at the directory (R388, R392): the agent holds the line. -/
def State.dirRead (s : State) (a ln : Nat) : State :=
  let s := (s.arriveFirst a ln).dirRoom ln
  let e := s.mm.entry ln
  let o := e.owner.toNat
  match e.st with
  | .s =>
    let (s, v) := s.fromHome ln
    (s.setEntry ln (e.add a)).modMem fun m => m.setLine a ln .s v
  | .e | .o =>
    match s.mm.agentLine o ln with
    | none =>
      let (s, v) := s.fromHome ln
      (s.setEntry ln (DirEntry.owned e a)).modMem fun m => m.setLine a ln .e v
    | some l =>
      if o = a then s
      else if remoteAgent a || !(s.remoteSharers ln).isEmpty then
        let s := s.cleanOwner o ln
        (s.setEntry ln (({ e with st := .s, owner := 0 }.add o).add a)).modMem fun m => m.setLine a ln .s l.data
      else
        let s := s.forwardRead o ln
        let e' := if l.st.dirty then { e with st := .o }.add a
                  else ({ e with st := .s, owner := 0 }.add o).add a
        (s.setEntry ln e').modMem fun m => m.setLine a ln .s l.data
  | _ =>
    let (s, v) := s.fromHome ln
    (s.setEntry ln (DirEntry.owned e a)).modMem fun m => m.setLine a ln .e v

/-- The invalidation targets of a request from an agent (R387). -/
def State.targets (s : State) (a ln : Nat) : List Nat :=
  let e := s.mm.entry ln
  let own := if e.st = .e || e.st = .o then [e.owner.toNat] else []
  ((own ++ e.sharerList s.mm.present).eraseDups).filter fun b => decide (b ≠ a)

/-- An entry that keeps the sharers given: as pointers, more than four in coarse mode (R386, R392). -/
def DirEntry.keeping (e : DirEntry) (l : List Nat) : DirEntry := l.foldl (fun (e : DirEntry) (a : Nat) => e.add a) e

/-- The state after an ownership request of an agent is served at the directory (R387, R388): the owner's copy moves at once, dirty
data with it, the other targets are sent invalidations, and the grant's count is owed to the agent; of a SYNCV line remote
sharers keep their copies and stay recorded (R392). The agent holds the line, ready to write. -/
def State.dirOwn (s : State) (a ln : Nat) (syncv : Bool) : State :=
  let s := (s.arriveFirst a ln).dirRoom ln
  let e := s.mm.entry ln
  let o := e.owner.toNat
  let isOwned := e.st = .e || e.st = .o
  let kept := if syncv then (s.targets a ln).filter remoteAgent else []
  let ts := (s.targets a ln).filter fun b => !(kept.contains b)
  let (s, v, d) := match (if isOwned then s.mm.agentLine o ln else none) with
    | some l => (s, l.data, l.st.dirty)
    | none => let (s, v) := s.fromHome ln; (s, v, false)
  let s := if isOwned && o ≠ a then s.loseLine o ln else s
  let s := s.setEntry ln ((DirEntry.owned e a).keeping kept)
  let s := s.modMem fun m =>
    { (m.setLine a ln (if d then .m else .e) v) with
      owed := if ts = [] then m.owed else Table.put m.owed a (Table.get 0 m.owed a + ts.length) }
  s.post (ts.map fun b =>
    if isOwned && b = o then .row .invalidationAck (.num2 a ln) else .row .invalidation (.num3 b ln a))

/-- The state after an eviction notice of an agent, with its dirty data if it has any, reaches the directory (R388). Remote sharers of
a SYNCV line stay recorded (R392). -/
def State.notice (s : State) (a ln : Nat) (dirty : Option VWord) : State :=
  let e := s.mm.entry ln
  if (e.st = .e || e.st = .o) && e.owner.toNat = a then
    let s := match dirty with | some v => s.arriveHome a ln v | none => s
    if e.st = .e && (e.sharerList s.mm.present).isEmpty then s.setEntry ln { e with st := .u }
    else s.setEntry ln { e with st := .s, owner := 0 }
  else if (e.st = .s || e.st = .o) && !e.coarse && (e.sharerList []).contains a then
    let l := (e.sharerList []).filter fun b => decide (b ≠ a)
    s.setEntry ln (if l = [] && e.st = .s then { e with st := .u } else e.withPtrs l)
  else s

/-- The state after an agent evicts a line. -/
def State.evictLine (s : State) (a ln : Nat) : State :=
  match s.mm.agentLine a ln with
  | none => s
  | some l => (s.loseLine a ln).notice a ln (if l.st.dirty then some l.data else none)

/-- The sets and ways of an agent's cache: a die L2's 64 slices of 2048 sets of 12 ways; a private L2's 1 MiB (R374). -/
def agentSet (a ln : Nat) : Nat := if a < 2 then ln % 131072 else ln % 512
def agentWays (a : Nat) : Nat := if a < 2 then 12 else 16

/-- The set of a line in a supervisor cluster cache of 4 MiB, 16 ways, which the private L2s of a die share (R374). -/
def victimSet (l : AgentLine) : Nat × Nat := ((l.agent - 0x10) / 16, l.line % 2048)

/-- The state after a private L2's clean line becomes a victim in the supervisor cluster cache of its die, whose oldest line of a
full set is evicted (R374). -/
def State.toVictims (s : State) (l : AgentLine) : State :=
  let set := s.mm.victims.filter fun x => decide (victimSet x = victimSet l)
  let s := match set with | x :: _ => if 16 ≤ set.length then s.evictLine x.agent x.line else s | [] => s
  s.modMem fun m => let d := m.dropLine l.agent l.line; { d with victims := d.victims ++ [l] }

/-- The state with room for a line in an agent's cache; a supervisor core's L1 loses what its private L2 gives up. -/
def State.agentRoom (s : State) (a ln : Nat) : State :=
  let set := s.mm.lines.filter fun l => l.agent = a && agentSet a l.line = agentSet a ln
  if set.length < agentWays a then s
  else match (set.filter fun l => !s.pinned l.line).getLast? with
    | some l =>
      match agentSuper a with
      | some n => if l.st.dirty then s.evictLine a l.line else (s.l1Keep (.super n) fun x => x.pline ≠ l.line).toVictims l
      | none => s.evictLine a l.line
    | none => s

/-- The state with a line held by an agent, for reading; a victim returns to its private L2 (R374). -/
def State.agentRead (s : State) (a ln : Nat) : State :=
  match s.mm.agentLine a ln with
  | some l =>
    if s.mm.victims.any fun x => x.agent = a && x.line = ln then
      (s.agentRoom a ln).modMem fun m => m.setLine a ln l.st l.data
    else s
  | none => (s.agentRoom a ln).dirRead a ln

/-- The state with a line held by an agent in M or E, for writing. -/
def State.agentOwn (s : State) (a ln : Nat) (syncv : Bool) : State :=
  match s.mm.agentLine a ln with
  | some l =>
    let s := s.agentRead a ln
    if l.st = .m || l.st = .e then s else s.dirOwn a ln syncv
  | none => (s.agentRoom a ln).dirOwn a ln syncv

/-- The data that an agent holds of a line. -/
def State.agentData (s : State) (a ln : Nat) : VWord :=
  match s.mm.agentLine a ln with | some l => l.data | none => s.mm.atHome ln

/-- The state with a line held by an agent in M, for an atomic or an exclusive (R382). -/
def State.agentHold (s : State) (a ln : Nat) (syncv : Bool) : State :=
  let s := s.agentOwn a ln syncv
  s.modMem fun m => m.setLine a ln .m (s.agentData a ln)

/-- The state after an agent writes bytes of a line: it obtains the line, and holds it in M (R378, R382). Bytes that reach the line's home
slice so are pushed to remote sharers (R392). -/
def State.agentWrite (s : State) (a ln : Nat) (mask : PWord) (v : VWord) (syncv : Bool) : State :=
  let s := s.agentOwn a ln syncv
  let d := merge mask v (s.agentData a ln)
  let s := (s.modMem fun m => m.setLine a ln .m d).killAt (placeAgent a) ln
  match agentSuper a with
  | some n => s.l1Update (.super n) ln mask v
  | none => if a = lineDie ln then s.tellRemote a ln else s

/-- The state after an agent's dirty line goes to its home, where it is kept clean; of a SYNCV line its bytes are pushed to the
remote sharers (R392). A line that leaves M has its reservations there killed (R383). -/
def State.agentClean (s : State) (a ln : Nat) : State :=
  match s.mm.agentLine a ln with
  | some l =>
    if l.st.dirty then
      let s := ((s.arriveHome a ln l.data).modMem fun m => m.setLine a ln (if l.st = .m then .e else .s) l.data).killAt (placeAgent a) ln
      if l.st = .o then s.setEntry ln ({ s.mm.entry ln with st := .s, owner := 0 }.add a) else s
    else s
  | none => s

/-! ## Commutative ranges (R341 to R345) -/

/-- A valid range that holds a line: its entry, its format and operation (R341). -/
def State.rangeOf (s : State) (ln : Nat) : Option (ElTy × Nat) :=
  ((List.range 16).findSome? fun e =>
    let w := File.get s.mm.ranges (BitVec.ofNat 4 e)
    let b := fld w.1 0 52 / 128
    if bit w.2 38 && b ≤ ln && ln < b + fld w.2 0 32 then
      some ((ElTy.ofCode (BitVec.ofNat 4 (fld w.2 32 4))).getD .i32, fld w.2 36 2)
    else none)

/-- The identity of a range's operation in its format (R343). -/
def rangeUnit (t : ElTy) (op : Nat) : Nat :=
  match op with
  | 0 => 0
  | 1 => if t.isInt then minUnit t else (ElTy.fmt t).inf false
  | _ => if t.isInt then maxUnit t else (ElTy.fmt t).inf true

/-- Round to nearest even, subnormals kept, no flag: how atomics and ranges add (R211, R343). -/
def effRne : Eff := ⟨0, false, false, fun _ => 0⟩

/-- A sum as `amfadd` and ranges make it. -/
def sumRne (t : ElTy) (a b : Nat) : Nat :=
  ((ElTy.fmt t).add effRne 0 ((ElTy.fmt t).decode a) ((ElTy.fmt t).decode b)).bits

/-- One step of a range's operation (R343); the manual gives no rule for a NaN in min and max, and R135's is taken (log entry
17). -/
def rangeOp (t : ElTy) (op a b : Nat) : Nat :=
  if t.isInt then (match op with | 0 => (a + b) % 2 ^ (8 * t.bytes) | 1 => eMin t a b | _ => eMax t a b)
  else match op with
    | 0 => sumRne t a b
    | o => ((ElTy.fmt t).pick false (o == 2) ((ElTy.fmt t).decode a) ((ElTy.fmt t).decode b)).bits

/-- A line with every element combined with another's. -/
def rangeLine (t : ElTy) (op : Nat) (a b : VWord) : VWord :=
  fillElems t.bytes fun k => rangeOp t op (elemAt a 0 t.bytes k) (elemAt b 0 t.bytes k)

/-- The value of a line that a coherent reader would find, with nothing moved: a holder's dirty copy, or the home's; of a range, joined
with its partials (R344). -/
def State.coherent (s : State) (ln : Nat) : VWord :=
  let v := (s.mm.dirtyData ln).getD (s.mm.atHome ln)
  match s.rangeOf ln with
  | none => v
  | some (t, op) => (List.range 64).foldl (fun v j => match Table.find s.mm.partials (j, ln) with
      | some p => rangeLine t op v p
      | none => v) v

/-- A number in memory as a coherent reader finds it. -/
def State.peek (s : State) (pa n : Nat) : Nat := fld (s.coherent (pa / 128)) (8 * (pa % 128)) (8 * n)

/-- The state after one partial of a line, if there is one, joins the home value (R344). -/
def State.joinOne (s : State) (ln : Nat) (t : ElTy) (op j : Nat) : State :=
  match Table.find s.mm.partials (j, ln) with
  | none => s
  | some p =>
    let v := rangeLine t op (s.mm.atHome ln) p
    ((s.putHome ln allBytes v).killAt placeHome ln).modMem fun m => { m with partials := Table.drop m.partials (j, ln) }

/-- The state after a line of a range is recalled and its partials joined in join-index order (R344). -/
def State.joinLine (s : State) (ln : Nat) : State :=
  match s.rangeOf ln with
  | none => s
  | some (t, op) => (List.range 64).foldl (fun s j => s.joinOne ln t op j) (s.recall ln)

/-- The state with a line at its home alone: recalled, with its partials joined. -/
def State.toHome (s : State) (ln : Nat) : State := (s.recall ln).joinLine ln

/-- The state with a line at its home, for a write there: as `toHome`, but remote sharers of a SYNCV line keep their copies and stay
recorded (R392). -/
def State.toHomeFor (s : State) (ln : Nat) (sync : Bool) : State :=
  let kept := if sync then s.remoteSharers ln else []
  if kept = [] then s.toHome ln
  else
    let s := match s.mm.dirtyData ln with
      | some v => (s.putHome ln allBytes v).killAt placeHome ln
      | none => s
    let s := ((s.mm.holders ln).filter fun a => !kept.contains a).foldl (fun s a => s.loseLine a ln) s
    (s.setEntry ln ({ DirEntry.empty with st := .s }.keeping kept)).joinLine ln

/-- The state with the lines of a range of addresses that lie in commutative ranges joined at their homes (R344). -/
def State.joinBytes (s : State) (pa n : Nat) : State :=
  ((List.range ((pa + n + 127) / 128 - pa / 128)).map (pa / 128 + ·)).foldl (fun s ln => s.joinLine ln) s

/-- The state after an access to a physical address that reaches no memory is noted (R447). -/
def State.noteHole (s : State) (pa : Nat) : State := s.note .control 0 0 4 0 (BitVec.ofNat 64 pa) 0

/-- The state after words of tables have been read by their physical addresses (R344, R447): the lines of commutative ranges are joined at
their homes, and what reaches no memory is noted. -/
def State.looked (s : State) (l : List Nat) : State :=
  l.foldl (fun (s : State) (pa : Nat) => if (region pa).isMemory then s.joinLine (pa / 128) else s.noteHole pa) s

/-- A number in memory as the sequencer and other physical accesses read it, and the state with one written at its home: other
copies are recalled first. A write that reaches no memory is dropped and noted (R447). -/
def State.phys (s : State) (pa n : Nat) : Nat := s.peek pa n
def State.putPhys (s : State) (pa n x : Nat) : State :=
  if !(region pa).isMemory then s.noteHole pa
  else
  let s := (s.toHome (pa / 128)).toHome ((pa + n - 1) / 128)
  ((s.modMem fun m => { m with mem := Mem.putNum m.mem pa n x }).killAt placeHome (pa / 128)).killAt placeHome ((pa + n - 1) / 128)

/-- Bytes in memory as a coherent reader finds them, and the state with bytes written at their homes. -/
def State.physBytes (s : State) (pa n : Nat) : List Byte :=
  let lines := (List.range ((pa + n + 127) / 128 - pa / 128)).map fun j => leBytes 128 (s.coherent (pa / 128 + j)).toNat
  (lines.flatten.drop (pa % 128)).take n
def State.putPhysBytes (s : State) (pa : Nat) (l : List Byte) : State :=
  let lines := List.range ((pa + l.length - 1) / 128 - pa / 128 + 1)
  if !(region pa).isMemory then s.noteHole pa
  else
  let s := if l = [] then s else lines.foldl (fun s k => (s.toHome (pa / 128 + k)).killAt placeHome (pa / 128 + k)) s
  s.modMem fun m => { m with mem := Mem.putBytes m.mem pa l }

/-! ## Cluster caches (R378) -/

/-- The lines of a cluster cache. -/
def State.cluster (s : State) (c : Nat) : List ClLine := Table.get [] s.mm.clusters c
def State.setCluster (s : State) (c : Nat) (l : List ClLine) : State :=
  s.modMem fun m => { m with clusters := Table.put m.clusters c l }

/-- A line of a cluster cache. -/
def State.clLine (s : State) (c ln : Nat) : Option ClLine := (s.cluster c).find? fun l => l.line = ln

/-- The state with a line of a cluster cache in its place, a new one listed last. -/
def State.putClLine (s : State) (c : Nat) (x : ClLine) : State :=
  s.setCluster c (if (s.cluster c).any fun l => l.line = x.line then (s.cluster c).map fun l => if l.line = x.line then x else l
    else s.cluster c ++ [x])

/-- The state with a line of a cluster cache clean, and listed last: the others are written back before it is again (R339). -/
def State.clCleaned (s : State) (c : Nat) (l : ClLine) : State :=
  s.setCluster c ((s.cluster c).filter (fun x => decide (x.line ≠ l.line)) ++ [{ l with dirty := 0 }])

/-- The state after some work done in an effective class, which does not change that of the access under way (R393). -/
def State.inClass (s : State) (k : Nat) (f : State → State) : State :=
  (f (s.modMem fun m => { m with cls := k })).modMem fun m => { m with cls := s.mm.cls }

/-- The state after a cluster cache's dirty bytes of a line arrive at the die L2 (R378). -/
def State.clWriteback (s : State) (c ln : Nat) : State :=
  match s.clLine c ln with
  | some l =>
    if l.dirty = 0 then s
    else (s.inClass l.cls fun s => s.agentWrite (c / 16) ln l.dirty l.data l.sync).clCleaned c l
  | none => s

/-- The state after a cluster cache's dirty bytes of a line go to the point of coherence of a scope (R214, R335): the die L2, the home
slice, the system-cache home; of a line homed in a peer its home. -/
def State.clSend (s : State) (c ln scope : Nat) : State :=
  if scope < 6 then s.clWriteback c ln
  else match s.clLine c ln with
  | none => s
  | some l =>
    if l.dirty = 0 then s
    else
      (s.inClass l.cls fun s =>
        if scope = 6 && !peerLine ln then
          (if lineDie ln = c / 16 then s else s.evictLine (c / 16) ln).agentWrite (lineDie ln) ln l.dirty l.data l.sync
        else (((s.toHomeFor ln l.sync).putHome ln l.dirty l.data).killAt placeHome ln).tellRemote (c / 16) ln).clCleaned c l

/-- The state with a line of a cluster cache written back and dropped. -/
def State.clEvict (s : State) (c ln : Nat) : State :=
  let s := s.clWriteback c ln
  s.setCluster c ((s.cluster c).filter fun l => decide (l.line ≠ ln))

/-- The state with room for a line in a cluster cache: 16 ways × 2048 sets (R374). -/
def State.clRoom (s : State) (c ln : Nat) : State :=
  let set := (s.cluster c).filter fun l => l.line % 2048 = ln % 2048 && l.line ≠ ln
  if set.length < 16 then s
  else match set.head? with | some l => s.clEvict c l.line | none => s

/-- The state with every byte of a line present in a cluster cache: a miss fetches the whole line from the die L2, and dirty
bytes are kept (R378, R380). -/
def State.clFetch (s : State) (c ln : Nat) : State :=
  let old := s.clLine c ln
  let hit := match old with | some l => l.valid = allBytes && s.inLease (c / 16) l.stamp | none => false
  if hit then s
  else
    let s := (s.clRoom c ln).agentRead (c / 16) ln
    let v := s.agentData (c / 16) ln
    let (dm, dv, sy, k) := match old with | some l => (l.dirty, l.data, l.sync, l.cls) | none => (0, 0, false, s.mm.cls)
    s.putClLine c ⟨ln, merge dm dv v, allBytes, dm, sy, k, s.lclock (c / 16), s.epoch (c / 16)⟩

/-- The data of a line in a cluster cache. -/
def State.clData (s : State) (c ln : Nat) : VWord := match s.clLine c ln with | some l => l.data | none => 0

/-- The state after a store's bytes reach a cluster cache; those of a WT page pass on to the die L2 (R376, R378). -/
def State.clWrite (s : State) (c ln : Nat) (mask : PWord) (v : VWord) (wt sync : Bool) : State :=
  let s := (s.clRoom c ln).killAt (placeCluster c) ln
  let l := (s.clLine c ln).getD ⟨ln, 0, 0, 0, false, 0, s.lclock (c / 16), s.epoch (c / 16)⟩
  let s := s.putClLine c { l with data := merge mask v l.data, valid := l.valid ||| mask, dirty := l.dirty ||| mask, sync := l.sync || sync,
                                  cls := s.mm.cls }
  if wt then s.clWriteback c ln else s

/-- The clean bytes of a line dropped, the dirty ones kept; nothing is left of a clean line. -/
def ClLine.dropClean (l : ClLine) : Option ClLine := if l.dirty = 0 then none else some { l with valid := l.dirty }

/-- The state with the clean bytes of some lines of a cluster cache dropped. -/
def State.clClean (s : State) (c : Nat) (f : ClLine → Bool) : State :=
  s.setCluster c ((s.cluster c).filterMap fun l => if f l then l.dropClean else some l)

/-- The state after a cluster cache's dirty bytes are all pushed to the point of coherence of a scope. -/
def State.clPush (s : State) (c scope : Nat) : State :=
  (((s.cluster c).filter fun l => decide (l.dirty ≠ 0)).map (·.line)).foldl (fun s ln => s.clSend c ln scope) s

/-! ## Write buffers (R208) -/

/-- The state after a line of a stream's write buffer passes its bytes to the cluster cache, and to the core's L1 where it
holds the line (R208, R377). -/
def State.wbPass (s : State) (st : StreamId) (w : WbLine) : State :=
  s.inClass w.cls fun s =>
    ((s.l1Update st.core w.line w.mask w.val).killAt (placeL1 st.core) w.line).clWrite (clusterOf st.core) w.line w.mask w.val w.wt w.sync

/-- The state after a stream's write buffer passes on the lines of a test. -/
def State.wbDrain (s : State) (st : StreamId) (f : WbLine → Bool) : State :=
  let x := s.stream st
  let s := s.setStream st { x with wbuf := x.wbuf.filter fun w => !f w }
  (x.wbuf.filter f).foldl (fun s w => s.wbPass st w) s

/-- The state after a stream's store puts bytes of a line into its write buffer. -/
def State.wbPut (s : State) (st : StreamId) (ln : Nat) (wt sync : Bool) (mask : PWord) (v : VWord) : State :=
  s.modStream st fun x =>
    if x.wbuf.any fun w => w.line = ln then
      { x with wbuf := x.wbuf.map fun w =>
          if w.line = ln then { w with mask := w.mask ||| mask, val := merge mask v w.val, wt := w.wt || wt, sync := w.sync || sync, cls := s.mm.cls } else w }
    else { x with wbuf := x.wbuf ++ [⟨ln, wt, sync, s.mm.cls, mask, v⟩] }

/-! ## Acquires and releases (R335, R336) -/

/-- The agent that a stream's release waits for: its die L2, or its private L2. -/
def agentOf : CoreId → Nat
  | .super n => superAgent n
  | c => c.die

/-- The state after a stream's acquire at a scope (R335): L1 lines from cluster upward, clean bytes of the cluster cache from
die upward; a supervisor core drops nothing. -/
def State.acquire (s : State) (st : StreamId) (scope : Nat) : State :=
  if st.isSuper || scope < 4 then s
  else
    let s := s.l1Keep st.core fun _ => false
    if scope < 5 then s else s.clClean (clusterOf st.core) fun _ => true

/-- The state after a stream's earlier writes are pushed to the point of coherence of a scope (R335); the invalidations that
this sends are owed their acknowledgements. -/
def State.release (s : State) (st : StreamId) (scope : Nat) : State :=
  if st.isSuper then s
  else
    let s := s.wbDrain st fun _ => true
    if scope < 5 then s else s.clPush (clusterOf st.core) scope

/-- Whether acknowledgements are owed for the writes that a stream's release at a scope covers (R332, R335, R336): those of its own agent
and, for its earlier writes that were performed there, of the home slices; as scope 8 any at all. -/
def State.owes (s : State) (st : StreamId) (scope : Nat) : Bool :=
  let owed := fun (a : Nat) => decide (Table.get 0 s.mm.owed a ≠ 0)
  if 8 ≤ scope then s.mm.owed.any fun e => decide (e.2 ≠ 0)
  else decide ((if st.isSuper then 4 else 5) ≤ scope) && (owed (agentOf st.core) || owed 0 || owed 1)

/-- The scope of the acknowledgements that an order at a scope waits for (R333): what sc orders may have been written by another
agent, so it waits for all of them. -/
def ackScope (order : MemOrder) (scope : Nat) : Nat := if order = .sc then 8 else scope

/-- Whether an order includes acquire, release (R102). -/
def orderAcq : MemOrder → Bool
  | .acq | .ar | .sc => true
  | _ => false
def orderRel : MemOrder → Bool
  | .rel | .ar | .sc => true
  | _ => false

end Sys2Proof.Machine
end

