-- ==== Sys2Proof/Machine/Translate.lean ====
section
/-! DEFINITION. Translation: page tables, walks, TLBs, permissions (R398 to R410), with the table walk's events. -/

namespace Sys2Proof.Machine

/-! ## Entries (R400, R401, R403) -/

/-- The translation of an address by a leaf that maps a page from `va0`; `d` says whether it may serve writes. -/
def xlOf (leaf : Word) (va0 va : Nat) (d : Bool) : Xl :=
  { pa := fld leaf 12 40 * 4096 + (va - va0), r := bit leaf 1, w := bit leaf 2 && !bit leaf 11, x := bit leaf 3, u := bit leaf 4,
    em := fld leaf 52 8, ty := fld leaf 8 2, sync := bit leaf 10, qos := fld leaf 60 3, d := d }

/-- What an access asks (R402, R404): to read, write, execute; the agent's EMASK bit, from 52; the access code of R362. -/
structure Ask where
  rd : Bool
  wr : Bool
  ex : Bool
  em : Option Nat
  code : Nat
  deriving DecidableEq, Repr

/-- The accesses of the L and W slots, and instruction fetch. -/
def askRead : Ask := ⟨true, false, false, some 0, 0⟩
def askWrite : Ask := ⟨false, true, false, some 0, 1⟩
def askRmw : Ask := ⟨true, true, false, some 0, 2⟩
def askFetch : Ask := ⟨false, false, true, none, 3⟩

/-- Whether a translation grants an access at a privilege level (R404). -/
def Xl.grants (x : Xl) (priv : BitVec 2) (a : Ask) : Bool :=
  (!a.rd || x.r) && (!a.wr || x.w) && (!a.ex || x.x) && (priv ≠ 0 || x.u) && !(a.ex && priv ≠ 0 && x.u)
    && (match a.em with | some k => x.em.testBit k | none => true)

/-- Whether a leaf that maps 2^n bytes is valid (R403): V, no W without R, its alignment, bit 63, a frame in a region. -/
def leafOk (e : Nat) (n : Nat) : Bool :=
  e.testBit 0 && !(e.testBit 2 && !e.testBit 1) && (e / 2 ^ 12 % 2 ^ 40 * 2 ^ 12) % 2 ^ n = 0 && !e.testBit 63
    && region (e / 2 ^ 12 % 2 ^ 40 * 2 ^ 12) ≠ .none

/-! ## Walks (R398, R403 to R407) -/

/-- What a walk finds: the page's first address, the logarithm of its size, the entry's physical address, the leaf, and the
pointers that it read. -/
structure Found where
  page : Nat
  log : Nat
  addr : Nat
  leaf : Nat
  ptrs : List WalkPtr
  deriving DecidableEq, Repr

/-- The TLB that serves a core: of its cluster, of a supervisor core (R408). -/
def tlbOf : CoreId → Nat
  | .super n => 32 + n
  | c => clusterOf c

/-- A pointer entry as a walk reads it: from the walk cache of its TLB, or from the die L2 or beyond (R406, R408). -/
def State.ptr (s : State) (tlb : Nat) (asid : BitVec 16) (level pre addr : Nat) : Nat :=
  match (Table.get [] s.mm.walkCaches tlb).find? fun p => p.asid = asid && p.level = level && p.pre = pre with
  | some p => p.entry.toNat
  | none => s.peek addr 8

/-- Whether a walk cache holds a pointer entry. -/
def State.cachedPtr (s : State) (tlb : Nat) (asid : BitVec 16) (level pre : Nat) : Bool :=
  (Table.get [] s.mm.walkCaches tlb).any fun p => p.asid = asid && p.level = level && p.pre = pre

/-- The rest of a walk from the table of a level at a physical address (R398, R400, R401, R407). -/
def State.walkFrom (s : State) (tlb : Nat) (asid : BitVec 16) (va : Nat) : Nat → Nat → Bool → List WalkPtr → Option Found
  | 0, table, cont, ps =>
    let i := va / 2 ^ 12 % 512
    let i := if cont then 16 * (i / 16) else i
    let n := if cont then 16 else 12
    let a := table + 8 * i
    let e := s.peek a 8
    if leafOk e n then some ⟨va / 2 ^ n * 2 ^ n, n, a, e, ps⟩ else none
  | l + 1, table, _, ps =>
    let n := 12 + 9 * (l + 1)
    let a := table + 8 * (va / 2 ^ n % 512)
    let e := s.ptr tlb asid l (va / 2 ^ n) a
    if !e.testBit 0 then none
    else if e / 2 % 8 ≠ 0 then
      if l < 2 && leafOk e n then some ⟨va / 2 ^ n * 2 ^ n, n, a, e, ps⟩ else none
    else s.walkFrom tlb asid va l (e / 2 ^ 12 % 2 ^ 40 * 2 ^ 12) (l = 0 && e.testBit 52)
      (⟨asid, l, va / 2 ^ n, BitVec.ofNat 64 e⟩ :: ps)

/-- A walk of an address of an address space, from the ASID table at PTBASE; none is #PFAULT. -/
def State.walk (s : State) (tlb : Nat) (ptbase : BitVec 52) (asid : BitVec 16) (va : Nat) : Option Found :=
  let e := s.ptr tlb asid 3 0 (ptbase.toNat / 2 ^ 19 * 2 ^ 19 + 8 * asid.toNat)
  if !e.testBit 0 || e / 2 % 2 ^ 11 ≠ 0 || e / 2 ^ 52 ≠ 0 then none
  else s.walkFrom tlb asid va 3 (e / 2 ^ 12 * 2 ^ 12) false [⟨asid, 3, 0, BitVec.ofNat 64 e⟩]

/-- The addresses of the entries that a walk reads in tables, not in a walk cache, from the table of a level on. -/
def State.readsFrom (s : State) (tlb : Nat) (asid : BitVec 16) (va : Nat) : Nat → Nat → Bool → List Nat
  | 0, table, cont => let i := va / 2 ^ 12 % 512; [table + 8 * (if cont then 16 * (i / 16) else i)]
  | l + 1, table, _ =>
    let n := 12 + 9 * (l + 1)
    let a := table + 8 * (va / 2 ^ n % 512)
    let e := s.ptr tlb asid l (va / 2 ^ n) a
    let own := if s.cachedPtr tlb asid l (va / 2 ^ n) then [] else [a]
    if !e.testBit 0 || e / 2 % 8 ≠ 0 then own
    else own ++ s.readsFrom tlb asid va l (e / 2 ^ 12 % 2 ^ 40 * 2 ^ 12) (l = 0 && e.testBit 52)

/-- The addresses of the entries that a walk reads in tables. -/
def State.walkReads (s : State) (tlb : Nat) (ptbase : BitVec 52) (asid : BitVec 16) (va : Nat) : List Nat :=
  let a := ptbase.toNat / 2 ^ 19 * 2 ^ 19 + 8 * asid.toNat
  let e := s.ptr tlb asid 3 0 a
  (if s.cachedPtr tlb asid 3 0 then [] else [a])
    ++ if !e.testBit 0 || e / 2 % 2 ^ 11 ≠ 0 || e / 2 ^ 52 ≠ 0 then [] else s.readsFrom tlb asid va 3 (e / 2 ^ 12 * 2 ^ 12) false

/-- The state after a walk's reads (R344, R447). -/
def State.walked (s : State) (tlb : Nat) (ptbase : BitVec 52) (asid : BitVec 16) (va : Nat) : State :=
  s.looked (s.walkReads tlb ptbase asid va)

/-- The state with bits set in a page-table entry by an atomic OR at its home, which kills reservations there (R383, R405). -/
def State.setEntryBits (s : State) (addr bits_ : Nat) : State :=
  let s := s.toHome (addr / 128)
  (s.modMem fun m => { m with mem := Mem.putNum m.mem addr 8 (Mem.num m.mem addr 8 ||| bits_) }).killAt placeHome (addr / 128)

/-- The entries of the TLBs that serve a core, in the order in which they are searched. -/
def State.tlbs (s : State) (c : CoreId) (fetch : Bool) : List TlbEntry :=
  match c with
  | .super n => Table.get [] s.mm.superFirst (n, fetch) ++ Table.get [] s.mm.superTlbs n
  | c => Table.get [] s.mm.clusterTlbs (clusterOf c) ++ Table.get [] s.mm.dieTlbs (c.die = 1)

/-- A TLB with an entry put first, in place of one of the same page; of the entries that share its room, the newest stay. -/
def tlbPut (room : TlbEntry → Bool) (n : Nat) (e : TlbEntry) (l : List TlbEntry) : List TlbEntry :=
  let l := l.filter fun x => !(x.va = e.va && x.size = e.size && x.asid = e.asid)
  let gone := (l.filter room).drop (n - 1)
  e :: l.filter fun x => !gone.contains x

/-- The set of a cluster TLB that an entry lies in: of 512, by its page number (R408; DESIGN CHOICE, log entry 39). -/
def TlbEntry.set (e : TlbEntry) : Nat := e.va / e.size % 512

/-- Whether an entry maps a 1 GiB page, for which a die TLB has entries of its own (R408). -/
def TlbEntry.huge (e : TlbEntry) : Bool := decide (2 ^ 30 ≤ e.size)

/-- The state with an entry put first into the TLBs that serve a core, in their sizes (R408): 64 and 2048 of a supervisor core; 8 ways of
512 sets of a cluster; 512 and 16384 of a die, for 1 GiB pages and others. -/
def State.install (s : State) (c : CoreId) (fetch : Bool) (e : TlbEntry) (ps : List WalkPtr) : State :=
  s.modMem fun m =>
    match c with
    | .super n =>
      { m with superFirst := Table.put m.superFirst (n, fetch) (tlbPut (fun _ => true) 64 e (Table.get [] m.superFirst (n, fetch))),
               superTlbs := Table.put m.superTlbs n (tlbPut (fun _ => true) 2048 e (Table.get [] m.superTlbs n)) }
    | c =>
      let k := clusterOf c
      let d := decide (c.die = 1)
      { m with clusterTlbs := Table.put m.clusterTlbs k (tlbPut (fun x => x.set = e.set) 8 e (Table.get [] m.clusterTlbs k)),
               dieTlbs := Table.put m.dieTlbs d
                 (tlbPut (fun x => x.huge == e.huge) (if e.huge then 512 else 16384) e (Table.get [] m.dieTlbs d)),
               walkCaches := Table.put m.walkCaches k ((ps ++ (Table.get [] m.walkCaches k).filter fun p => !ps.contains p).take 64) }

/-- The state after a walk that found a leaf sets A, and D when it was made for a write, and installs the translation (R405). A walk
made for a write installs an entry that answers writes. -/
def State.installFound (s : State) (c : CoreId) (asid : BitVec 16) (write fetch : Bool) (f : Found) : State :=
  let need := (if f.leaf.testBit 6 then 0 else 64) + (if write && !f.leaf.testBit 7 then 128 else 0)
  let s := if need = 0 then s else s.setEntryBits f.addr need
  s.install c fetch ⟨f.page, 2 ^ f.log, asid, BitVec.ofNat 64 (f.leaf ||| need), write || f.leaf.testBit 7⟩ f.ptrs

/-! ## Lookups (R347, R404, R405, R409) -/

/-- What a lookup answers. -/
inductive Look where
  | hit (x : Xl)
  | miss
  | denied
  deriving DecidableEq, Repr

/-- The translation that an L1 line records (R409). -/
def L1Line.xl (l : L1Line) (va : Nat) : Xl :=
  { pa := 128 * l.pline + va % 128, r := l.r, w := l.w, x := l.x, u := l.u, em := b2n l.em, ty := l.ty, sync := l.sync, qos := l.qos,
    d := l.w }

/-- The lookup in the TLBs that serve a stream's core; what it finds is judged by the access. -/
def State.lookTlb (s : State) (st : StreamId) (asid : BitVec 16) (va : Nat) (a : Ask) (judge : Xl → Look) : Look :=
  match (s.tlbs st.core a.ex).find? fun e => e.covers asid va && (!a.wr || e.d) with
  | some e => judge (xlOf e.leaf e.va va e.d)
  | none => .miss

/-- A lookup of an address for an access of a core: in the L1 where it is asked, then in the TLBs; an entry that cannot answer a
write is a miss for one. -/
def State.look (s : State) (st : StreamId) (priv : BitVec 2) (asid : BitVec 16) (va : Nat) (a : Ask) (l1 : Bool) : Look :=
  let judge := fun (x : Xl) => if x.grants priv a then Look.hit x else Look.denied
  let line := if l1 && !a.ex then s.l1Hit st (va / 128) asid else none
  match line with
  | some l => if a.wr && !l.w then s.lookTlb st asid va a judge else judge (l.xl va)
  | none => s.lookTlb st asid va a judge

/-- A translation for an access of a stream's own L and W slots. -/
def State.lookL (s : State) (st : StreamId) (va : Nat) (a : Ask) : Look :=
  let c := (s.stream st).csr
  s.look st c.priv c.asid va a true

/-- Whether a walk of an address's page is in flight for the TLB that serves a stream: other misses to the page wait for it (R410). -/
def State.walking (s : State) (st : StreamId) (asid : BitVec 16) (va : Nat) : Bool :=
  s.mm.walks.any fun w => w.tlb = tlbOf st.core && w.asid = asid && decide (w.page.toNat = va / 4096)

/-- A translation made within the step, as engines and the sequencer have it: a miss walks at once. -/
def State.xlate (s : State) (st : StreamId) (priv : BitVec 2) (asid : BitVec 16) (va : Nat) (a : Ask) :
    (Except (BitVec 8) Xl) × State :=
  match s.look st priv asid va a false with
  | .hit x => (.ok x, s)
  | .denied => (.error cPERM, s)
  | .miss =>
    let u := s.walked (tlbOf st.core) (s.common st.core).ptbase asid va
    match s.walk (tlbOf st.core) (s.common st.core).ptbase asid va with
    | none => (.error cPFAULT, u)
    | some f =>
      let s := u
      let x := xlOf (BitVec.ofNat 64 f.leaf) f.page va a.wr
      (if x.grants priv a then .ok x else .error cPERM, s.installFound st.core asid a.wr a.ex f)

/-! ## Walks as events (R347, R410) -/

/-- The state after a held bundle asks for a translation: the miss is noted and a walk starts, once. -/
def State.askWalk (s : State) (st : StreamId) (va : Nat) (a : Ask) (slot : Nat) : State :=
  let x := s.stream st
  match x.miss with
  | some _ => s
  | none =>
    let m : Miss := ⟨va, a.wr, a.code, slot, s.iss.lanes, s.pcOf st⟩
    let acc : Access := if a.ex then .exec else if a.wr then .write else .read
    (s.setStream st { x with miss := some m }).row .tableWalk (.walk st (BitVec.ofNat 48 va) acc)

/-- The walkers of a TLB: 16 of a cluster, 2 of a supervisor core (R408). -/
def walkersOf (tlb : Nat) : Nat := if tlb < 32 then 16 else 2

/-- The state with one more requester of the walk in flight of a page for the TLB that serves a stream, behind those already there (R410). -/
def State.joinWalk (s : State) (st : StreamId) (asid : BitVec 16) (va : Nat) (r : WalkWaiter) : State :=
  s.modMem fun m =>
    { m with walks := m.walks.map fun w =>
        if w.tlb = tlbOf st.core && w.asid = asid && decide (w.page.toNat = va / 4096) && !w.waiters.contains r then
          { w with waiters := w.waiters ++ [r] }
        else w }

/-- A walk of the event's stream starts, or waits for the walk of its page that is in flight, or for a walker (R398, R408, R410). -/
def execTableWalk (s : State) : Out :=
  match s.subject with
  | .walk st va acc =>
    let asid := (s.stream st).csr.asid
    let page : BitVec 36 := va.extractLsb' 12 36
    let key := fun (w : Walk) => w.tlb = tlbOf st.core && w.asid = asid && w.page = page
    if s.mm.walks.any key then
      .next (s.modMem fun m => { m with walks := m.walks.map fun w => if key w then { w with waiters := w.waiters ++ [.stream st] } else w })
    else if walkersOf (tlbOf st.core) ≤ (s.mm.walks.filter fun w => w.tlb = tlbOf st.core).length then
      .next (s.row .tableWalk (.walk st va acc))
    else
      let w : Walk := ⟨tlbOf st.core, asid, page, decide (acc = .write), decide (acc = .exec), [.stream st], false⟩
      .next ((s.modMem fun m => { m with walks := m.walks ++ [w] }).row .tableWalkComplete (.walkEnd w.tlb asid page))
  | _ => .next s

/-- The state after the held bundle of a stream is told that its walk has ended. -/
def State.missOver (s : State) (st : StreamId) : State := s.modStream st fun x => { x with miss := none }

/-- The state after a stream that waited for a walk takes its fault (R361, R410). -/
def State.missFaults (s : State) (st : StreamId) : State :=
  match (s.stream st).miss with
  | some m => s.fault st cPFAULT m.va m.code m.slot m.lanes m.pc
  | none => s

end Sys2Proof.Machine
end

