-- ==== Sys2Proof/Machine/Page.lean ====
section
/-! DEFINITION. Event counters and their triggers, the device control page, the fault rings and resume ports (R155 to R160,
R341, R342, R363, R364, R379, R394, R412, R419, R427, R448, R456). -/

namespace Sys2Proof.Machine

/-! ## Event counters (R155 to R160) -/

/-- A counter, and its owner. -/
def State.ctr (s : State) (n : Nat) : Word := Table.get 0 s.mm.counters n
def State.ctrOwner (s : State) (n : Nat) : BitVec 16 := Table.get 0 s.mm.owners n

/-- The streams' waits on a counter that a value satisfies, marked (R158). -/
def hitAwaits (n : Nat) (v : Word) (x : Stream) : Stream :=
  { x with awaits := x.awaits.map fun a => if a.ctr = n && a.thr.toNat ≤ v.toNat then { a with hit := true } else a }

/-- The state after a counter's trigger fires if its threshold is reached: it is disarmed, and its action comes next (R160). -/
def State.fire (s : State) (n : Nat) : State :=
  match Table.find s.mm.triggers n with
  | some t =>
    if t.threshold.toNat ≤ (s.ctr n).toNat then
      (s.modMem fun m => { m with triggers := Table.drop m.triggers n, delayed := m.delayed ++ [(n, t)] }).next
        [.row .delayedTriggerAction (.num n)]
    else s
  | none => s

/-- The state after an add takes its place in a counter's order (R156, R158). -/
def State.ctrAdd (s : State) (n : Nat) (v : Word) : State :=
  let c := s.ctr n + v
  let s := s.modMem fun m => { m with counters := Table.put m.counters n c }
  State.fire { s with streams := s.streams.map fun e => (e.1, hitAwaits n c e.2) } n

/-- The state with a counter's trigger set, replacing one already set; it fires at once where the value is reached (R160). -/
def State.arm (s : State) (n : Nat) (t : Option Trigger) : State :=
  State.fire (s.modMem fun m =>
    { m with triggers := match t with | some t => Table.put m.triggers n t | none => Table.drop m.triggers n }) n

/-! ## The range table (R341, R342) -/

/-- Word hi of entry e as it stands. -/
def State.rangeWord (s : State) (e : BitVec 4) (hi : Bool) : Word :=
  let w := File.get s.mm.ranges e
  if hi then w.2 else w.1

/-- The lines of a range. -/
def rangeLines (w0 w1 : Word) : Nat × Nat := (fld w0 0 52 / 128, fld w1 0 32)

/-- Whether a word 1 may set VALID over a word 0, against the other entries (R342). -/
def State.rangeOk (s : State) (e : BitVec 4) (w0 w1 : Word) : Bool :=
  let (b, n) := rangeLines w0 w1
  decide (n ≠ 0) && [0x4, 0x6, 0x9, 0xA].contains (fld w1 32 4) && fld w1 36 2 ≠ 3 && fld w1 39 25 = 0 && fld w0 52 12 = 0
    && w0.toNat % 128 = 0 && decide (128 * (b + n) ≤ 768 * 2 ^ 30)
    && (List.range 16).all fun k =>
      let f := File.get s.mm.ranges (BitVec.ofNat 4 k)
      let (c, m) := rangeLines f.1 f.2
      k = e.toNat || !bit f.2 38 || decide (b + n ≤ c ∨ c + m ≤ b)

/-- The state after every partial of a valid entry's range is joined into its home. -/
def State.joinRange (s : State) (e : BitVec 4) : State :=
  let f := File.get s.mm.ranges e
  let (b, n) := rangeLines f.1 f.2
  let lines := ((s.mm.partials.map fun p => p.1.2).eraseDups).filter fun ln => decide (b ≤ ln ∧ ln < b + n)
  if bit f.2 38 then lines.foldl (fun s ln => s.joinLine ln) s else s

/-- The state after a write to a word of the range table (R342): word 0 of a valid entry is kept, and a write with a nonzero reserved bit
is ignored (R4) but where it would set VALID: that one is refused, with VALID clear; a valid entry's partials are joined before it
loses VALID or changes FMT or OP. -/
def State.rangeWrite (s : State) (e : BitVec 4) (hi : Bool) (v : Word) : State :=
  let f := File.get s.mm.ranges e
  let set := fun (s : State) (w : Word × Word) => s.modMem fun m => { m with ranges := File.set m.ranges e w }
  if !hi then (if bit f.2 38 || fld v 52 12 ≠ 0 then s else set s (v, f.2))
  else if bit v 38 && !s.rangeOk e f.1 v then set (s.joinRange e) (f.1, f.2 &&& ~~~(BitVec.twoPow 64 38))
  else if fld v 39 25 ≠ 0 then s
  else
    let s := if bit f.2 38 && !(bit v 38 && fld f.2 32 6 = fld v 32 6) then s.joinRange e else s
    set s (f.1, v)

/-- A write to a word of the range table (R342). -/
def execRangeTableWrite (s : State) : Out :=
  match s.subject with
  | .range e hi v => .next (s.rangeWrite e hi v)
  | _ => .next s

/-! ## Fault rings and resume ports (R362 to R364) -/

/-- KIND and INDEX of an agent in a record (R362). -/
def agentCode (a : FaultAgent) : Nat × Nat :=
  match a.st, a.queue with
  | .tile c x, none => (0, 2 * (c % 32) + b2n x)
  | .wave c w, none => (1, 64 * (c % 64) + w)
  | .tile c x, some q => (2, (2 * (c % 32) + b2n x) * 16 + q)
  | .wave c w, some q => (3, (64 * (c % 64) + w) * 4 + q)
  | .super c, q => (4, 16 * (c % 16) + q.getD 0)

/-- The agent of a KIND, DIE and INDEX; kinds 5 to 7 name none (R364). -/
def agentOfCode (kind die index : Nat) : Option FaultAgent :=
  match kind with
  | 0 => some ⟨.tile (32 * die + index / 2 % 32) (index % 2 = 1), none⟩
  | 1 => some ⟨.wave (64 * die + index / 64 % 64) (index % 64), none⟩
  | 2 => some ⟨.tile (32 * die + index / 32 % 32) (index / 16 % 2 = 1), some (index % 16)⟩
  | 3 => some ⟨.wave (64 * die + index / 256 % 64) (index / 4 % 64), some (index % 4)⟩
  | 4 => some ⟨.super (16 * die + index / 16 % 16), some (index % 16)⟩
  | _ => none

/-- The words of a fault record (R362). -/
def recordWords (r : FaultRecord) (resume : BitVec 16) (seq : BitVec 32) : List Nat :=
  let (k, i) := agentCode r.agent
  [r.va % 2 ^ 48 + r.asid.toNat * 2 ^ 48,
   r.cause.toNat + r.access * 2 ^ 8 + k * 2 ^ 12 + r.agent.st.die * 2 ^ 16 + i % 2 ^ 15 * 2 ^ 17 + resume.toNat * 2 ^ 32,
   seq.toNat, r.ltime.toNat + 2 ^ 63]

/-- The number of records that a die's ring holds, whether it is enabled, and whether it has room (R363). -/
def State.ringSize (s : State) (d : Nat) : Nat := 16 * 2 ^ fld (s.ctl (0x208 + 0x40 * d)) 0 4
def State.ringOpen (s : State) (d : Nat) : Bool :=
  bit (s.ctl (0x208 + 0x40 * d)) 28
    && (Table.get 0 s.mm.heads (d = 1) - (s.ctl (0x218 + 0x40 * d)).setWidth 32).toNat ≠ s.ringSize d

/-- The state after one record is written to its die's ring, whose agent now waits for its resume value (R363, R364). -/
def State.postRecord (s : State) (r : FaultRecord) : State :=
  let d := r.agent.st.die
  let seq := Table.get 0 s.mm.heads (d = 1)
  let resume := Table.get 0 s.mm.resumes r.agent + 1
  let at_ := fld (s.ctl (0x200 + 0x40 * d)) 0 52 + 32 * (seq.toNat % s.ringSize d)
  let s := ((recordWords r resume seq).zipIdx).foldl (fun s e => s.putPhys (at_ + 8 * e.2) 8 e.1) s
  let s := s.modMem fun m => { m with heads := Table.put m.heads (d = 1) (seq + 1) }
  let s := match r.agent.queue with
    | none => s.modStream r.agent.st fun x =>
        match x.stop with
        | .fault w => { x with stop := .fault { w with resume := some resume } }
        | _ => x
    | some q => s.modStream r.agent.st fun x =>
        { x with faultQ := Table.put x.faultQ q (match Table.find x.faultQ q with
            | some w => { w with resume := some resume }
            | none => ⟨r.cause, r.va, r.access, 6, 0, 0, some resume⟩) }
  let s := s.note .faultRing d 0 3 r.asid (BitVec.ofNat 64 r.va) (r.cause.setWidth 64)
  s.ctrAdd (fld (s.ctl (0x208 + 0x40 * d)) 16 12) 1

/-- The state after as many waiting records of a die as its ring has room for are posted, in the order of their faults. -/
def State.postRecords (s : State) (d : Nat) : Nat → State
  | 0 => s
  | n + 1 =>
    match s.mm.waitingFaults.find? fun r => r.agent.st.die = d with
    | some r =>
      if s.ringOpen d then
        ((s.modMem fun m => { m with waitingFaults := m.waitingFaults.erase r }).postRecord r).postRecords d n
      else s
    | none => s

/-- The waiting records of a die are posted once its ring has room and is enabled (R363). -/
def execFaultRecordPost (s : State) : Out :=
  match s.subject with
  | .die d => .next (s.postRecords (b2n d) s.mm.waitingFaults.length)
  | _ => .next s

/-- The state after a write to TAIL makes room. -/
def State.tailWrite (s : State) (d : Nat) (v : Word) : State :=
  if 2 ^ 32 ≤ v.toNat then s.ignored (0x218 + 0x40 * d) v
  else (s.setCtl (0x218 + 0x40 * d) v).row .faultRecordPost (.die (d = 1))

/-- Software writes TAIL (R363). -/
def execFaultRingTailWrite (s : State) : Out :=
  match s.subject with
  | .dieWord d v => .next (s.tailWrite (b2n d) v)
  | _ => .next s

/-- The state after a stream is resumed with an action (R361): 0 presents its bundle again, 1 raises the fault as a service trap
with RECOV set, 2 ends it. -/
def State.resumeStream (s : State) (st : StreamId) (w : FaultWait) (action : Nat) : State :=
  let run := s.modStream st fun x => { x with stop := .running }
  match action with
  | 1 =>
    run.service st w.cause (BitVec.ofNat 64 w.va) false w.slot true w.lanes w.pc
  | 2 => run.endTask st w.cause (BitVec.ofNat 64 w.va) false
  | _ => run

/-- The state after an engine queue is resumed with an action (R270, R361): 0 retries, 1 ends the command with ERROR, 2 every
command of the queue. -/
def State.resumeQueue (s : State) (st : StreamId) (q : Nat) (w : FaultWait) (action : Nat) : State :=
  let n := if action = 1 then 1 else if action = 2 then 32 else 0
  let err := (w.cause, BitVec.ofNat 64 w.va)
  (s.modStream st fun x =>
    { x with
      faultQ := Table.drop x.faultQ q,
      queues := Table.put x.queues q ((Table.get [] x.queues q).zipIdx.map fun c => if c.2 < n then { c.1 with fail := some err } else c.1) }).row
    .engineCommandStart (.streamNum st q)

/-- The state after a write to a die's resume port (R364): the counter of one agent rises by 1, and the write that brings it to
the recorded value resumes the agent. -/
def State.resumeWrite (s : State) (d : Nat) (v : Word) : State :=
  if 2 ^ 21 ≤ v.toNat then s.ignored (0x220 + 0x40 * d) v
  else if fld v 19 2 = 3 then s
  else match agentOfCode (fld v 16 3) (fld v 15 1) (fld v 0 15) with
  | none => s
  | some a =>
    let n := Table.get 0 s.mm.resumes a + 1
    let s := s.modMem fun m => { m with resumes := Table.put m.resumes a n }
    match a.queue with
    | none =>
      match (s.stream a.st).stop with
      | .fault w => if w.resume = some n then s.resumeStream a.st w (fld v 19 2) else s
      | _ => s
    | some q =>
      match Table.find (s.stream a.st).faultQ q with
      | some w => if w.resume = some n then s.resumeQueue a.st q w (fld v 19 2) else s
      | none => s

/-- A write to the resume port advances an agent's resume counter, and may resume it (R364). -/
def execResumePortWrite (s : State) : Out :=
  match s.subject with
  | .dieWord d v => .next (s.resumeWrite (b2n d) v)
  | _ => .next s

/-! ## The control page (R448) -/

/-- The sum of a field of the eight class words at a base and stride, with one word replaced. -/
def State.sumField (s : State) (base stride lo n : Nat) (off : Nat) (v : Word) : Nat :=
  ((List.range 8).map fun c => fld (if base + stride * c = off then v else s.ctl (base + stride * c)) lo n).foldl (· + ·) 0

/-- Whether a word of the control page that a write simply sets may take a value (R363, R379, R394, R412, R419, R427, R456). -/
def State.ctlOk (s : State) (off : Nat) (v : Word) : Bool :=
  let below := fun (n : Nat) => decide (v.toNat < 2 ^ n)
  if off = 0x100 ∨ off = 0x120 then
    fld v 14 2 = 0 && fld v 17 47 = 0 && decide (256 ≤ fld v 0 14 ∧ fld v 0 14 ≤ 12288)
  else if off = 0x200 ∨ off = 0x240 ∨ off = 0x900 ∨ off = 0xA00 then below 52 && v.toNat % 4096 = 0
  else if off = 0x208 ∨ off = 0x248 then below 29 && fld v 4 12 = 0 && decide (fld v 0 4 ≤ 12)
  else if 0x800 ≤ off ∧ off < 0x900 then
    if off % 0x20 = 0 then
      below 35 && fld v 11 5 = 0 && fld v 27 5 = 0 && decide (fld v 0 11 ≤ 1024) && decide (fld v 16 11 ≤ fld v 0 11)
        && decide (s.sumField 0x800 0x20 16 11 off v ≤ 1024)
    else below 32 && !(fld v 16 16 = 0 && fld v 0 16 ≠ 0)
  else if off = 0x908 then decide (v.toNat ≤ 4096)
  else if off = 0x910 then below 52 && fld v 1 14 = 0
  else if off = 0xA08 then decide (v.toNat ≤ 65536)
  else if 0xA80 ≤ off ∧ off < 0xAC0 then decide (v.toNat ≤ 64) && decide (s.sumField 0xA80 8 0 7 off v ≤ 64)
  else if 0xE00 ≤ off ∧ off < 0xE40 then below 9 && fld v 5 3 = 0
  else if off = 0xE40 then below 12
  else if 0x1000 ≤ off ∧ off < 0x1120 then (if off % 16 = 0 then below 52 else true)
  else true

/-- Whether an offset names a word that a write simply sets. -/
def ctlPlain (off : Nat) : Bool :=
  [0x100, 0x120, 0x200, 0x240, 0x208, 0x248, 0x900, 0x908, 0x910, 0xA00, 0xA08, 0xE40].contains off
    || (decide (0x800 ≤ off ∧ off < 0x900) && (off % 0x20 = 0 || off % 0x20 = 8))
    || decide (0xA80 ≤ off ∧ off < 0xAC0) || decide (0xE00 ≤ off ∧ off < 0xE40) || decide (0x1000 ≤ off ∧ off < 0x1120)
    || decide (0x3100 ≤ off ∧ off < 0x3200)

/-- A read of a word of the control page; offsets that no chapter defines read zero. -/
def State.ctlRead (s : State) (off : Nat) : Word :=
  let d := off / 0x20 % 2
  let f := off / 0x40 % 2
  if off = 0x100 ∨ off = 0x120 then s.ctl off ||| (if s.epoch d then 0x10000 else 0)
  else if off = 0x108 ∨ off = 0x128 then (s.lclock d).setWidth 64
  else if off = 0x210 ∨ off = 0x250 then (Table.get 0 s.mm.heads (f = 1)).setWidth 64
  else if 0x400 ≤ off ∧ off < 0x500 then s.rangeWord (BitVec.ofNat 4 (off / 16)) (off % 16 = 8)
  else if off = 0xC00 then s.edge.recCount.setWidth 64
  else if 0x4000 ≤ off ∧ off < 0x6000 then
    BitVec.ofNat 64 (((List.range 4).map fun k => (s.ctrOwner ((off - 0x4000) / 2 + k)).toNat * 2 ^ (16 * k)).foldl (· + ·) 0)
  else if ctlPlain off || off = 0x218 || off = 0x258 || decide (0x3000 ≤ off ∧ off < 0x3100) then s.ctl off
  else 0

/-- A write of a word of the control page: its effect, or ignored and noted (R448). -/
def State.ctlWrite (s : State) (off : Nat) (v : Word) : State :=
  let f := off / 0x40 % 2
  if off = 0x218 ∨ off = 0x258 then s.tailWrite f v
  else if off = 0x220 ∨ off = 0x260 then s.resumeWrite f v
  else if 0x400 ≤ off ∧ off < 0x500 then s.rangeWrite (BitVec.ofNat 4 (off / 16)) (off % 16 = 8) v
  else if off = 0xA10 then (if v.toNat < 65536 then s.row .doorbell (.num v.toNat) else s.ignored off v)
  else if 0x3000 ≤ off ∧ off < 0x3100 then s.setCtl off (s.ctl off &&& ~~~(v &&& 0xFE))
  else if off = 0x3200 then (if v.toNat < 32 then s.pend v.toNat 2 else s.ignored off v)
  else if 0x4000 ≤ off ∧ off < 0x6000 then
    let put := fun (t : Table Nat (BitVec 16)) k => Table.put t ((off - 0x4000) / 2 + k) (bits v (16 * k) 16)
    s.modMem fun m => { m with owners := (List.range 4).foldl put m.owners }
  else if ctlPlain off then
    if s.ctlOk off v then
      let s := s.setCtl off (if off = 0x100 ∨ off = 0x120 then v &&& 0x3FFF else v)
      if off = 0x208 ∨ off = 0x248 then s.row .faultRecordPost (.die (f = 1)) else s
    else s.ignored off v
  else s

/-- A write of a value to a CSR of a stream, or to a word of the control page, that has no event of its own (R4, R448). -/
def execRegisterWrite (s : State) : Out :=
  match s.subject with
  | .register (.csr st n) v => .next (s.csrEvent st n.toNat v)
  | .register (.control off) v => .next (if off % 8 = 0 ∧ off < 65536 then s.ctlWrite off v else s.ignored off v)
  | _ => .next s

/-- A write of k to IPI sets PEND bit 2 of core k (R456). -/
def execIpi (s : State) : Out :=
  match s.subject with
  | .num k => .next (if k < 32 then s.pend k 2 else s.ignored 0x3200 (BitVec.ofNat 64 k))
  | _ => .next s

/-- A supervisor core's CYCLE reaches its compare word, and source 0x03 becomes pending (R456). -/
def execTimerCompare (s : State) : Out :=
  match s.subject with
  | .num k => .next (s.pend (k % 32) 3)
  | _ => .next s

/-! ## Physical accesses of the counter and recorder regions (R448, R464) -/

/-- A word of the recorder region. -/
def State.recorderWord (s : State) (off : Nat) : Word :=
  match Table.find s.edge.recorder (off / 32 % 4096) with
  | some e => if off % 32 = 0 then e.w0 else if off % 32 = 8 then e.w1 else if off % 32 = 16 then e.w2 else e.w3
  | none => 0

/-- A read of a register region: one aligned 8-byte element at K or M, through a DEV leaf with U = 0; anything else reads zero
and is noted. A counter's read is an `evld` of the stream. -/
def State.deviceRead (s : State) (st : StreamId) (x : Xl) (n : Nat) : Nat × State :=
  let ok := decide (n = 8 ∧ x.pa % 8 = 0) && (s.stream st).csr.priv ≠ 0 && x.ty = 3 && !x.u
  let noted := s.note .control st.die 0 4 (s.stream st).csr.asid (BitVec.ofNat 64 x.pa) 0
  if !ok then (0, noted)
  else match region x.pa with
  | .control => ((s.ctlRead (x.pa % 65536)).toNat, s)
  | .counters => ((s.ctr (x.pa % 65536 / 8)).toNat, s.acquire st 6)
  | .recorder => ((s.recorderWord (x.pa % 131072)).toNat, s)
  | _ => (0, noted)

/-- A write of a register region; a counter's write is an `evadd` with no return. One of the control page that is of another size or
alignment is ignored (R448, R456). -/
def State.deviceWrite (s : State) (st : StreamId) (x : Xl) (n v : Nat) : State :=
  let ok := decide (n = 8 ∧ x.pa % 8 = 0) && (s.stream st).csr.priv ≠ 0 && x.ty = 3 && !x.u
  let noted := s.note .control st.die 0 4 (s.stream st).csr.asid (BitVec.ofNat 64 x.pa) 0
  if !ok then (if region x.pa = .control then s.ignored (x.pa % 65536) (BitVec.ofNat 64 v) else noted)
  else match region x.pa with
  | .control => s.ctlWrite (x.pa % 65536) (BitVec.ofNat 64 v)
  | .counters => (s.release st 6).ctrAdd (x.pa % 65536 / 8) (BitVec.ofNat 64 v)
  | .recorder => s
  | _ => noted

/-- A read or a write of a counter's word by a stream at K: an `evld`, or an `evadd` with no return (R448). -/
def execCounterRegionAccess (s : State) : Out :=
  match s.subject with
  | .counter st n none => .next (s.deviceRead st ⟨0x000F000000010000 + 8 * (n % 4096), true, true, false, false, 1, 3, false, 0, true⟩ 8).2
  | .counter st n (some v) =>
    .next (s.deviceWrite st ⟨0x000F000000010000 + 8 * (n % 4096), true, true, false, false, 1, 3, false, 0, true⟩ 8 v.toNat)
  | _ => .next s

end Sys2Proof.Machine
end

