-- ==== Sys2Proof/Machine/Access.lean ====
section
/-! DEFINITION. Element addresses, the checks of R199, and how loads, stores and atomics are performed: in caches, at their
places of execution, in typed buffers and group store (R29 to R33, R196 to R219, R340, R376, R377, R382, R383). -/

namespace Sys2Proof.Machine

/-! ## Lines -/

/-- The state with the effective class of what follows: the larger of the stream's and the page's (R393). -/
def State.classed (s : State) (cls : Nat) (x : Xl) : State := s.modMem fun m => { m with cls := max cls x.qos }

/-- Whether an address lies in a host's memory, whose lines enter no L1 and no cluster cache, and no die L2 beyond one access (R449). -/
def hostLine (pa : Nat) : Bool := match region pa with | .host _ => true | _ => false

/-- Whether an access by a translation acts at the home alone: UC and DEV pages, bytes of a range, and the memory of a host (R344, R376,
R449). -/
def State.atHomeOnly (s : State) (x : Xl) : Bool := decide (2 ≤ x.ty) || (s.rangeOf (x.pa / 128)).isSome || hostLine x.pa

/-- The state after a wave's load misses in L1 (R436): its score rises where its victim tags hold the line, and the line that the fill
will evict joins them. -/
def State.waveMiss (s : State) (st : StreamId) (vline : Nat) : State :=
  match st with
  | .wave c w =>
    s.modShader c fun k =>
      let asid := (s.stream st).csr.asid
      let old := Table.get [] k.victims w
      let set := k.com.l1.filter fun l => l.vline % 256 = vline % 256
      let out := if set.length < 12 then [] else (set.head?.map fun l => (l.vline, l.asid)).toList
      { k with
        victims := Table.put k.victims w ((out ++ old).take 64),
        scores := if old.contains (vline, asid) then Table.put k.scores w (min 255 (Table.get 0 k.scores w + 1)) else k.scores }
  | _ => s

/-- The state with a line filled into a stream's L1, with its translation and the class of the access (R393, R409). -/
def State.l1Put (s : State) (st : StreamId) (va : Nat) (x : Xl) (v : VWord) : State :=
  s.l1Fill st.core ⟨va / 128, (s.stream st).csr.asid, x.pa / 128, v, x.r, x.w && x.d, x.x, x.u, x.em.testBit 0, x.ty, x.sync, s.mm.cls,
    s.lclock st.die, s.epoch st.die⟩

/-- The line that a stream finds in its core's L1, filled from the cluster cache where it is absent (R377, R378). -/
def State.l1Get (s : State) (st : StreamId) (va : Nat) (x : Xl) : VWord × State :=
  match s.l1Hit st (va / 128) (s.stream st).csr.asid with
  | some l => (l.data, s)
  | none =>
    let s := s.clFetch (clusterOf st.core) (x.pa / 128)
    let v := s.clData (clusterOf st.core) (x.pa / 128)
    (v, s.l1Put st va x v)

/-- The state with a line at its home alone, a stream's own earlier bytes of it first (R327). -/
def State.ownHome (s : State) (st : StreamId) (ln : Nat) : State :=
  if st.isSuper then s.toHome ln
  else ((s.wbDrain st fun w => decide (w.line = ln)).clEvict (clusterOf st.core) ln).toHome ln

/-- As `ownHome`, for a write there: remote sharers of a SYNCV line keep their copies (R392). -/
def State.ownHomeFor (s : State) (st : StreamId) (ln : Nat) (sync : Bool) : State :=
  if st.isSuper then s.toHomeFor ln sync
  else ((s.wbDrain st fun w => decide (w.line = ln)).clEvict (clusterOf st.core) ln).toHomeFor ln sync

/-- The state in which a tile or shader core's L1 holds bytes that it has read or written elsewhere, where it holds their line
(R327, R377). -/
def State.l1Seen (s : State) (st : StreamId) (ln : Nat) (mask : PWord) (v : VWord) : State :=
  if st.isSuper then s else s.l1Update st.core ln mask v

/-- A line as a stream's load finds it, with the state after the caches have served it (R206, R327, R377, R378). A streaming read
allocates nothing below the die L2, and has the dirty bytes of the cluster cache merged in; on a supervisor core it asks the directory for
the die L2, which a dirty line of the private L2 answers. -/
def State.readLine (s : State) (st : StreamId) (va : Nat) (x : Xl) (strm : Bool) : VWord × State :=
  let ln := x.pa / 128
  let c := clusterOf st.core
  if s.atHomeOnly x then
    let s := s.ownHome st ln
    (s.mm.atHome ln, s.l1Seen st ln allBytes (s.mm.atHome ln))
  else if st.isSuper then
    let a := if strm then st.die else agentOf st.core
    let s := s.agentRead a ln
    (s.agentData a ln, if strm then s else s.l1Put st va x (s.agentData a ln))
  else
    let (v, s) :=
      if strm then
        let s := (s.clClean c fun l => decide (l.line = ln)).agentRead st.die ln
        let v := s.agentData st.die ln
        let v := match s.clLine c ln with | some l => merge l.dirty l.data v | none => v
        (v, s.l1Update st.core ln allBytes v)
      else
        let hit := (s.l1Hit st (va / 128) (s.stream st).csr.asid).isSome
        (if hit then s else s.waveMiss st (va / 128)).l1Get st va x
    match (s.stream st).wbuf.find? fun w => w.line = ln with
    | some w => (merge w.mask w.val v, s)
    | none => (v, s)

/-- An element of n bytes read by a stream. -/
def State.readElem (s : State) (st : StreamId) (va : Nat) (x : Xl) (n : Nat) (strm : Bool) : Nat × State :=
  if (region x.pa).isMemory then
    let (v, s) := (s.classed (s.stream st).cls x).readLine st va x strm
    (fld v (8 * (x.pa % 128)) (8 * n), s)
  else s.deviceRead st x n

/-- The bytes of an element within its line: mask and value. -/
def inLine (pa n v : Nat) : PWord × VWord :=
  (BitVec.ofNat 128 ((2 ^ n - 1) <<< (pa % 128)), BitVec.ofNat 1024 ((v % 2 ^ (8 * n)) <<< (8 * (pa % 128))))

/-- The state in which a cluster cache's line takes bytes that have gone past it to the die L2 (R206). -/
def State.clTake (s : State) (c ln : Nat) (mask : PWord) (v : VWord) : State :=
  match s.clLine c ln with
  | some l =>
    (s.killAt (placeCluster c) ln).putClLine c
      { l with data := merge mask v l.data, valid := l.valid ||| mask, dirty := l.dirty &&& ~~~mask }
  | none => s

/-- The state after a stream stores an element of n bytes (R206, R208, R376, R378); one that reaches nothing is an uncorrectable error
(R455, R458). -/
def State.writeElem (s : State) (st : StreamId) (x : Xl) (n v : Nat) (strm : Bool) : State :=
  if s.gone x.pa then s.raiseLost st x.pa
  else if (region x.pa).isMemory then
    let s := s.classed (s.stream st).cls x
    let ln := x.pa / 128
    let (mask, w) := inLine x.pa n v
    if s.atHomeOnly x then
      ((((s.ownHomeFor st ln x.sync).putHome ln mask w).killAt placeHome ln).tellRemote (agentOf st.core) ln).l1Seen st ln mask w
    else if st.isSuper then
      if strm then (s.evictLine (agentOf st.core) ln).agentWrite st.die ln mask w x.sync
      else s.agentWrite (agentOf st.core) ln mask w x.sync
    else if strm then
      ((((s.wbDrain st fun w => decide (w.line = ln)).clTake (clusterOf st.core) ln mask w).killAt (placeL1 st.core) ln).agentWrite st.die
        ln mask w x.sync).l1Update st.core ln mask w
    else s.wbPut st ln (x.ty = 1) x.sync mask w
  else s.deviceWrite st x n v

/-! ## Places of execution (R382, R383) -/

/-- A place that executes atomics. -/
inductive Place where
  | l1 (c : CoreId)
  | cluster (c : Nat)
  | agent (a : Nat)
  | home
  deriving DecidableEq, Repr

/-- The place's number in a reservation. -/
def Place.code : Place → Nat
  | .l1 c => placeL1 c
  | .cluster c => placeCluster c
  | .agent a => placeAgent a
  | .home => placeHome

/-- The place of execution of an element, by scope and core type (R382); a range, a UC or a DEV page acts at the home, and so does a line
homed in a peer from device scope upward (R375). -/
def State.placeOf (s : State) (st : StreamId) (scope : Nat) (x : Xl) : Place :=
  if s.atHomeOnly x || scope = 7 || (scope = 6 && peerLine (x.pa / 128)) then .home
  else if scope = 6 then .agent (lineDie (x.pa / 128))
  else if st.isSuper || scope = 5 then .agent (agentOf st.core)
  else if scope = 4 then .cluster (clusterOf st.core)
  else .l1 st.core

/-- A line at a place, with the state in which the place holds it: in its L1, in the cluster cache, in M at an agent, alone at the home.
The stream's own writes of the line, and copies of it that the place does not keep coherent, go there first (R327, R377, R382). -/
def State.toPlace (s : State) (st : StreamId) (p : Place) (va : Nat) (x : Xl) : VWord × State :=
  let ln := x.pa / 128
  let s := if st.isSuper then s else s.wbDrain st fun w => decide (w.line = ln)
  match p with
  | .l1 _ => (if (s.l1Hit st (va / 128) (s.stream st).csr.asid).isSome then s else s.waveMiss st (va / 128)).l1Get st va x
  | .cluster c => let s := s.clFetch c ln; (s.clData c ln, s)
  | .agent a =>
    let s := if st.isSuper then s else s.clEvict (clusterOf st.core) ln
    let s := (if a = agentOf st.core then s else s.evictLine (agentOf st.core) ln).agentHold a ln x.sync
    (s.agentData a ln, s)
  | .home => let s := s.ownHomeFor st ln x.sync; (s.mm.atHome ln, s)

/-- The state after bytes of a line are written at a place, from an L1 through to the cluster cache, from a WT page's cluster cache on to
the die L2 (R376, R377); other threads' reservations there are killed. -/
def State.placeWrite (s : State) (p : Place) (ln : Nat) (mask : PWord) (v : VWord) (wt sync : Bool) : State :=
  match p with
  | .l1 c => ((s.l1Update c ln mask v).killAt (placeL1 c) ln).clWrite (clusterOf c) ln mask v wt sync
  | .cluster c => s.clWrite c ln mask v wt sync
  | .agent a => s.agentWrite a ln mask v sync
  | .home => (s.putHome ln mask v).killAt placeHome ln

/-- The state after a stream's write of bytes at a place, which remote sharers of a SYNCV line are told of where it is the home (R392). -/
def State.placeDone (s : State) (st : StreamId) (p : Place) (ln : Nat) (mask : PWord) (v : VWord) (x : Xl) : State :=
  let s := s.placeWrite p ln mask v (x.ty = 1) x.sync
  if p = .home then s.tellRemote (agentOf st.core) ln else s

/-- One indivisible read-modify-write of an element of n bytes: the old value, and the state after it (R211, R334). A register
region is read and then written; what an uncorrectable error meets is not written (R455, R458, R461). -/
def State.rmw (s : State) (st : StreamId) (scope va : Nat) (x : Xl) (n : Nat) (f : Nat → Option Nat) : Nat × State :=
  if (region x.pa).isMemory then
    let s := s.classed (s.stream st).cls x
    let ln := x.pa / 128
    let p := s.placeOf st scope x
    let (line, s) := s.toPlace st p va x
    let old := fld line (8 * (x.pa % 128)) (8 * n)
    let (mask, w) := inLine x.pa n ((f old).getD old)
    if s.lost x.pa then (old, s)
    else
      let s := if (f old).isSome then s.placeDone st p ln mask w x else s.killAt p.code ln
      (old, s.l1Seen st ln mask w)
  else
    let (old, s) := s.deviceRead st x n
    match f old with
    | some v => (old, s.deviceWrite st x n v)
    | none => (old, s)

/-! ## Elements and addresses (R196 to R198) -/

/-- The fields of an L or W word that its address forms read. -/
structure AccIn where
  pred : Pred
  ty : ElTy
  width : BitVec 2
  base : Src
  index : Src
  imm : Int
  deriving DecidableEq, Repr

def LOp.acc (o : LOp) : AccIn := ⟨o.pred, o.ty, o.width, o.base, o.index, o.imm.toInt⟩
def WOp.acc (o : WOp) : AccIn := ⟨o.pred, o.ty, o.width, o.base, o.index, o.imm.toInt⟩

/-- The forms of an access (R196). -/
inductive Form where
  | scalar | contiguous | strided | perElement
  deriving DecidableEq, Repr

/-- Whether a form is lane-wise: per-element and strided forms on a shader core (R197). -/
def State.laneWise (s : State) (f : Form) : Bool := s.iss.st.isWave && (f = .strided || f = .perElement)

/-- The distance in a register between the elements of a form: a lane for lane-wise ones. -/
def State.pitch (s : State) (f : Form) (t : ElTy) : Nat := if s.laneWise f then 4 else t.bytes

/-- The number of elements of a form (R162, R197). -/
def State.count (s : State) (f : Form) (a : AccIn) : Nat :=
  if f = .scalar then 1 else if s.laneWise f then 32 else 32 * frets a.width / a.ty.bytes

/-- Whether element k of a form participates (R198). -/
def State.joins (s : State) (f : Form) (a : AccIn) (k : Nat) : Bool :=
  if f = .scalar then s.testS a.pred else s.part a.pred 0 (s.pitch f a.ty) k

/-- Element k of the index register, as a signed integer of the element's size, of a lane (R196, R197); `idx` gives k. -/
def State.index (s : State) (f : Form) (a : AccIn) (k : Nat) : Int :=
  match a.index with
  | .special c => if c = 3#6 then k else if c = 4#6 then 1 else if c = 2#6 then -1 else 0
  | x =>
    let z := s.pitch f a.ty
    sextNat (8 * z) (elemAt (s.srcV (if z = 8 then .i64 else .i32) 0 x) 0 z k)

/-- The address of element k before reduction, with an offset in bytes (R196, R209). -/
def State.address (s : State) (f : Form) (a : AccIn) (off : Int) (k : Nat) : Int :=
  let b := (s.srcS 0 a.base).toInt
  let i := fun (_ : Unit) => (s.srcS 0 a.index).toInt
  match f with
  | .scalar => b + i () + off
  | .contiguous => b + i () + off + k * a.ty.bytes
  | .strided => b + off + k * i ()
  | .perElement => b + s.index f a k + off

/-- The participating elements of a global access, each with its address modulo 2^48 (R196, R198). -/
def State.elements (s : State) (f : Form) (a : AccIn) (off : Int) : List (Nat × Nat) :=
  ((List.range (s.count f a)).filter (s.joins f a)).map fun k => (k, wrap 48 (s.address f a off k))

/-- The offset o = imm15 × z. -/
def AccIn.off (a : AccIn) : Int := a.imm * a.ty.bytes

/-! ## Checks (R199) -/

/-- What the checks of a list of elements come to. -/
inductive Judged where
  | ok (l : List Elem)
  | raise (r : Raise)
  | miss (va : Nat)
  deriving DecidableEq, Repr

/-- The checks of R199, element by element: alignment, translation, permission. -/
def State.judge (s : State) (st : StreamId) (z : Nat) (a : Ask) : List (Nat × Nat) → Judged
  | [] => .ok []
  | (k, va) :: t =>
    if va % z ≠ 0 then .raise (.service cALIGN (BitVec.ofNat 64 va))
    else match s.lookL st va a with
      | .miss => .miss va
      | .denied => .raise (.recover cPERM va a.code)
      | .hit x => match s.judge st z a t with
        | .ok l => .ok (⟨k, va, x⟩ :: l)
        | j => j

/-- What a judgement asks of a bundle. -/
def State.reach (s : State) (a : Ask) (j : Judged) : Reach :=
  match j with
  | .ok _ => .ok
  | .raise r => .raise r
  | .miss va => .ask fun t => t.askWalk s.iss.st va a s.iss.slot.code

/-- The elements of a judgement. -/
def Judged.elems : Judged → List Elem
  | .ok l => l
  | _ => []

/-! ## Results of loads (R197, R203, R204) -/

/-- A loaded element as its lane of a shader register holds it (R197). -/
def laneValue (t : ElTy) (v : Nat) : Nat := if t.signed then wrap 32 (sextNat (8 * t.bytes) v) else v

/-- A load's result from the values of its elements; of a V register, within the lanes of the path (R164). -/
def loadResult (l : Load) (slot : Slot) (vals : List (Nat × Nat)) : Result :=
  let z := l.ty.bytes
  let w : VWrite := match l.dest with
    | .s _ => ⟨BitVec.allOnes 128, (extendElem l.ty ((vals.head?.map (·.2)).getD 0)).setWidth 1024⟩
    | _ =>
      let w := vals.foldl (fun w e => if l.lanewise then w.add (4 * e.1) 4 (laneValue l.ty e.2) else w.add (z * e.1) z e.2) VWrite.empty
      { w with mask := w.mask &&& l.own }
  { due := l.due, seq := l.seq, slot := slot, dest := l.dest, mask := w.mask, val := w.val,
    latch := match l.dest with | .none => l.nw | _ => true, nw := l.nw, ff := 0, mf := 0 }

/-- The values of a list of elements read in order, with the state after. -/
def State.readElems (s : State) (st : StreamId) (n : Nat) (strm : Bool) : List Elem → List (Nat × Nat) × State
  | [] => ([], s)
  | e :: t =>
    let (v, s) := s.readElem st e.va e.x n strm
    let (l, s) := s.readElems st n strm t
    ((e.k, v) :: l, s)

/-- The state after a stream reads poisoned memory, or what no path reaches: the error comes next (R349, R458, R461). -/
def State.poisonCheck (s : State) (st : StreamId) (l : List Elem) : State :=
  match l.find? fun e => s.lost e.x.pa with
  | some e => s.raiseLost st e.x.pa
  | none => s

/-- The result of a load whose data has come (R203, R204), and the state after. -/
def State.loaded (s : State) (st : StreamId) (l : Load) : Result × State :=
  let (vals, s) := s.readElems st l.ty.bytes l.strm l.elems
  (loadResult l .l vals, s.poisonCheck st l.elems)

/-- The state after an outstanding load's data returns (R204, R205): its result lands when it is due, in handler mode as an entry of the
shutter file (R354, R357). -/
def State.returnLoad (s : State) (st : StreamId) (l : Load) : State :=
  let (r, s) := s.loaded st l
  s.modStream st fun x => { x with pend := x.pend ++ [r] }

/-- The state after a load that is not left outstanding: its result lands when it is due, at once where nothing waits for time. -/
def State.loadNow (s : State) (st : StreamId) (l : Load) : State :=
  let (r, s) := s.loaded st l
  if s.timed st then s.modStream st fun x => { x with pend := x.pend ++ [r] } else s.takeNow st r

/-- The state after every outstanding load of a stream has returned. -/
def State.settle (s : State) (st : StreamId) : State :=
  let x := s.stream st
  x.loads.foldl (fun s l => s.returnLoad st l) (s.setStream st { x with loads := [] })

/-- Whether every element of a load lies in L1 (R204). -/
def State.inL1 (s : State) (st : StreamId) (l : List Elem) : Bool :=
  l.all fun e => decide (e.x.ty < 2) && (s.l1Hit st (e.va / 128) (s.stream st).csr.asid).isSome

/-- The state after a load issues: a relaxed one of a tile context that misses is outstanding, and those after it with it; any
other is performed (R204, R205). -/
def State.issueLoad (s : State) (l : Load) (order : MemOrder) (scope : Nat) : State :=
  let st := s.iss.st
  let plain := order = .rlx && l.elems.all fun e => decide (e.x.ty < 2)
  if s.timed st && plain && !((s.stream st).loads.isEmpty && s.inL1 st l.elems) then
    s.modStream st fun x => { x with loads := x.loads ++ [l] }
  else
    let s := s.settle st
    let s := if orderAcq order then s.acquire st scope else s
    s.loadNow st l

/-- The lanes whose threads perform elements of an access (R197, R198): of a scalar form the issuing path's. -/
def State.lanesFor (s : State) (f : Form) (t : ElTy) (ks : List Nat) : Lanes :=
  if f = .scalar then s.iss.lanes
  else
    let z := s.pitch f t
    s.iss.lanes &&& ofLanes (ks.flatMap fun k => (List.range (max 1 (z / 4))).map fun j => k * z / 4 + j)

/-- The reservations that a stream's own store or atomic clears: of the threads that make it (R215, R471). -/
def State.ownClear (s : State) (f : Form) (t : ElTy) (ks : List Nat) : State :=
  s.clearReservations s.iss.st (s.lanesFor f t ks)

/-! ## Values that return to a frozen context (R107, R212) -/

/-- The state after an operation's value returns: on a tile context it is on its way, and the context is frozen until it lands;
elsewhere it is there at once. -/
def State.giveBack (s : State) (r : Result) : State :=
  let st := s.iss.st
  if s.timed st then
    (s.modStream st fun x => { x with returns := x.returns ++ [r] }).row .memoryValueReturn (.stream st)
  else s.takeNow st r

/-! ## Typed buffers and group store (R29 to R33, R209) -/

/-- The bytes of a range of a typed buffer by space (0 W, 1 A, 2 K) and offset (R29). -/
def TileCore.bytes (t : TileCore) (space off n : Nat) : List Byte :=
  match space with
  | 0 => Mem.bytes t.wbuf off n
  | 1 => Mem.bytes t.abuf off n
  | _ =>
    let lo := off / 80
    let w := t.kbuf.filter fun e => decide (lo ≤ e.1 ∧ e.1 ≤ (off + n) / 80)
    let l := (List.range ((off + n + 79) / 80 - lo)).map fun j => leBytes 80 (Table.get ⟨0, 0⟩ w (lo + j)).val.toNat
    (l.flatten.drop (off % 80)).take n

/-- A typed buffer with bytes written; in the K-buffer they clear the sideband of every element that they touch (R29). -/
def TileCore.putBytes (t : TileCore) (space off : Nat) (l : List Byte) : TileCore :=
  match space with
  | 0 => { t with wbuf := Mem.putBytes t.wbuf off l }
  | 1 => { t with abuf := Mem.putBytes t.abuf off l }
  | _ =>
    let lo := off / 80
    let hi := (off + l.length + 79) / 80
    let new := (t.bytes 2 (80 * lo) (off - 80 * lo) ++ l ++ t.bytes 2 (off + l.length) (80 * hi - (off + l.length))).toArray
    { t with kbuf := (t.kbuf.filter fun e => decide (e.1 < lo ∨ hi ≤ e.1))
               ++ (List.range (hi - lo)).map fun j =>
                    (lo + j, ⟨BitVec.ofNat 640 (leNat ((List.range 80).map fun i => new.getD (80 * j + i) 0)), 0⟩) }

/-- The bytes of a range of a space of a stream's core: 0 to 2 a tile core's typed buffers, 3 a group's store from its base
(R33, R45). -/
def State.spaceBytes (s : State) (st : StreamId) (space off n : Nat) : List Byte :=
  match st with
  | .tile c _ => (s.tile c).bytes space off n
  | .wave c _ => Mem.bytes (s.shader c).gs (1024 * fld (s.stream st).csr.gswin 0 8 + off) n
  | .super _ => List.replicate n 0

/-- The number in n bytes of a space. -/
def State.spaceNum (s : State) (st : StreamId) (space off n : Nat) : Nat := leNat (s.spaceBytes st space off n)

/-- The state with bytes written in a space; the page's last writer is the stream's address space (R488). -/
def State.putSpace (s : State) (st : StreamId) (space off : Nat) (l : List Byte) : State :=
  let asid := (s.stream st).csr.asid
  match st with
  | .tile c _ => s.modTile c fun t =>
      let t := t.putBytes space off l
      { t with writers := (List.range ((off % 65536 + l.length + 65535) / 65536)).foldl
                 (fun w k => Table.put w (space, off / 65536 + k) asid) t.writers }
  | .wave c _ => s.modShader c fun t =>
      let at_ := 1024 * fld (s.stream st).csr.gswin 0 8 + off
      { t with gs := Mem.putBytes t.gs at_ l,
               gsWriters := (List.range ((at_ % 1024 + l.length + 1023) / 1024)).foldl
                 (fun w k => Table.put w (at_ / 1024 + k) asid) t.gsWriters }
  | .super _ => s

/-- The window of a context in a space, in bytes: its start and its size (R45); of a group its allocation. -/
def Stream.window (x : Stream) (st : StreamId) (space : Nat) : Nat × Nat :=
  if st.isWave then (0, 1024 * fld x.csr.gswin 8 9)
  else
    let w := if space = 0 then x.csr.wbwin else if space = 1 then x.csr.abwin else x.csr.kbwin
    (65536 * fld w 0 8, 65536 * fld w 8 8)

/-- Whether a byte of a space is reached: in the window, or in a sash attached, for a write attached RW (R30, R33). -/
def Stream.reaches (x : Stream) (st : StreamId) (space off : Nat) (write : Bool) : Bool :=
  let (b, n) := x.window st space
  decide (b ≤ off ∧ off < b + n)
    || (x.attached.any fun a => a.landed && a.space = space && (a.rw || !write)
         && decide (65536 * a.base ≤ off ∧ off < 65536 * (a.base + a.pages)))

/-- TVAL of #BOUNDS in a space (R30). -/
def boundsTval (space : Nat) (off : Int) : Word := BitVec.ofNat 64 (space * 2 ^ 62 + wrap 24 off)

/-- The checks of the elements of a typed-buffer access: alignment, then reach (R30, R33, R199). -/
def State.judgeTyped (s : State) (st : StreamId) (space z : Nat) (write : Bool) : List (Nat × Int) → Option Raise
  | [] => none
  | (_, off) :: t =>
    if off % z ≠ 0 then some (.service cALIGN (BitVec.ofInt 64 off))
    else if off < 0 || !(List.range z).all (fun j => (s.stream st).reaches st space (off.toNat + j) write) then
      some (.service cBOUNDS (boundsTval space off))
    else s.judgeTyped st space z write t

/-- The tile that the array's M operation names. -/
def ArrayWork.tile : ArrayWork → Nat
  | .products o _ _ _ _ _ _ _ => o.tile.toNat
  | .zero t | .tags t _ | .drain t => t

/-- Whether an access touches K-buffer bytes of a tile with an incomplete M operation (R231). -/
def State.tileBusy (s : State) (st : StreamId) (space : Nat) (l : List (Nat × Int)) : Bool :=
  match st with
  | .tile c _ =>
    match (s.tile c).array with
    | some a => space = 2 && l.any fun e => decide (e.2 / 0x280000 = a.work.tile)
    | none => false
  | _ => false

/-- The participating elements of a typed-buffer access, each with its offset as a signed number (R209). -/
def State.typedElements (s : State) (f : Form) (a : AccIn) (off : Int) : List (Nat × Int) :=
  ((List.range (s.count f a)).filter (s.joins f a)).map fun k => (k, (BitVec.ofInt 64 (s.address f a off k)).toInt)

end Sys2Proof.Machine
end

