-- ==== Sys2Proof/Machine/Loads.lean ====
section
/-! DEFINITION. Loads, prefetch, the load exclusive and the atomics (R202 to R216). -/

namespace Sys2Proof.Machine

/-! ## Loads (R202 to R206) -/

/-- The destination of an L word (R100). -/
def LOp.dest (o : LOp) : ResDest := if o.vfile then .v o.reg else .s o.reg

/-- The load of an L operation on elements that its checks have found. -/
def State.loadOf (s : State) (o : LOp) (f : Form) (lat : Nat) (strm : Bool) (l : List Elem) : Load :=
  let x := s.stream s.iss.st
  { due := x.time + lat, seq := x.seq, dest := LOp.dest o, nw := o.nw, ty := o.ty, lanewise := s.laneWise f, own := s.own,
    elems := l, strm := strm }

/-- The plan of an operation whose test bit is 0 and that is scalar: no effect (R96, R198). -/
def State.gateL (s : State) (i : Instr) (f : Form) (pred : Pred) (p : Plan) : Plan :=
  if f = .scalar && !s.testS pred then { slot := s.iss.slot, enc := s.encOk i s.iss.slot } else p

/-- The plan of a global load (R196 to R206). A streaming load of a DEV page is dropped (R376). -/
def State.planLoad (s : State) (i : Instr) (o : LOp) (f : Form) (strm : Bool) : Plan :=
  let st := s.iss.st
  let a := LOp.acc o
  let j := s.judge st o.ty.bytes askRead (s.elements f a a.off)
  let l := j.elems.filter fun e => !(strm && e.x.ty = 3)
  s.gateL i f o.pred
    { s.base i with addr := s.reach askRead j, eff := fun t => t.issueLoad (t.loadOf o f 8 strm l) o.order o.scope.toNat }

/-- S[d] := the element, extended (R202, R203). -/
def planLd (o : LOp) (s : State) : Plan :=
  s.planLoad (.ld o) o .scalar false

/-- A bundle of `LD` alone. -/
def execLd (o : LOp) (s : State) : Out := s.single (planLd o s)

/-- Contiguous elements into V[d] (R202). -/
def planVld (o : LOp) (s : State) : Plan :=
  s.planLoad (.vld o) o .contiguous false

/-- A bundle of `VLD` alone. -/
def execVld (o : LOp) (s : State) : Out := s.single (planVld o s)

/-- Elements at a stride into V[d]; lane-wise on a shader core (R197, R202). -/
def planVlds (o : LOp) (s : State) : Plan :=
  s.planLoad (.vlds o) o .strided false

/-- A bundle of `VLDS` alone. -/
def execVlds (o : LOp) (s : State) : Out := s.single (planVlds o s)

/-- Elements at their own offsets into V[d]; lane-wise on a shader core (R197, R202). -/
def planVldg (o : LOp) (s : State) : Plan :=
  s.planLoad (.vldg o) o .perElement false

/-- A bundle of `VLDG` alone. -/
def execVldg (o : LOp) (s : State) : Out := s.single (planVldg o s)

/-- As `vld`, streaming: no line is allocated in L1 or the cluster cache (R206). -/
def planGld (o : LOp) (s : State) : Plan :=
  s.planLoad (.gld o) o .contiguous true

/-- A bundle of `GLD` alone. -/
def execGld (o : LOp) (s : State) : Out := s.single (planGld o s)

/-- The form of `tld`. -/
def State.typedForm (s : State) (v : Bool) : Form := if s.iss.st.isWave then .perElement else if v then .contiguous else .scalar

/-- A load from a typed buffer or group store (R103, R209). -/
def planTld (o : LOp) (s : State) : Plan :=
  let st := s.iss.st
  let f := s.typedForm o.vfile
  let sp := fld o.imm 13 2
  let l := s.typedElements f (LOp.acc o) (fld o.imm 0 13 * o.ty.bytes : Nat)
  s.gateL (.tld o) f o.pred
    { s.base (.tld o) with
      hold := (s.base (.tld o)).hold || s.tileBusy st sp l,
      addr := match s.judgeTyped st sp o.ty.bytes false l with | some r => .raise r | none => .ok,
      eff := fun t =>
        let vals := l.map fun e => (e.1, t.spaceNum st sp e.2.toNat o.ty.bytes)
        t.deliver (loadResult (t.loadOf o f 4 false []) .l vals) }

/-- A bundle of `TLD` alone. -/
def execTld (o : LOp) (s : State) : Out := s.single (planTld o s)

/-- The state after the line of a prefetch is fetched into the level that its scope names (R207); a line homed in a peer has no home slice here.
Scope 4 on a supervisor core, whose cluster cache holds clean victims only (R374), fetches into the private L2 (DESIGN CHOICE, log entry
54). -/
def State.prefetch (s : State) (st : StreamId) (va : Nat) (x : Xl) (scope : Nat) : State :=
  let ln := x.pa / 128
  if s.atHomeOnly x || !(region x.pa).isMemory then s
  else if scope = 6 then (if peerLine ln then s else s.agentRead (lineDie ln) ln)
  else if scope = 5 then s.agentRead st.die ln
  else if st.isSuper then (if scope ≤ 3 then (s.readLine st va x false).2 else s.agentRead (agentOf st.core) ln)
  else if scope = 4 then s.clFetch (clusterOf st.core) ln
  else (s.readLine st va x false).2

/-- Fetch a line into a level of the caches; one that would fault is dropped, and so is one whose page a walk in flight serves: its walker
is busy (R207, R410). -/
def planLpf (o : LOp) (s : State) : Plan :=
  let st := s.iss.st
  let a := LOp.acc o
  let va := wrap 48 (s.address .scalar a a.off 0)
  s.gateL (.lpf o) .scalar o.pred (s.plan (.lpf o) fun t =>
    let c := (t.stream st).csr
    if t.walking st c.asid va then t else
    match t.xlate st c.priv c.asid va askRead with
    | (.ok x, t) => t.prefetch st va x o.scope.toNat
    | (.error _, t) => t)

/-- A bundle of `LPF` alone. -/
def execLpf (o : LOp) (s : State) : Out := s.single (planLpf o s)

/-! ## The load exclusive (R213, R216) -/

/-- The state with a reservation of a thread made on a granule; a full table of 64 loses its oldest entry (R213). -/
def State.reserve (s : State) (st : StreamId) (l : Nat) (ln : Nat) (p : Place) : State :=
  s.modCommon st.core fun c =>
    let keep := c.reservations.filter fun r => !(r.st = st && r.lane = l)
    { c with reservations := (if 64 ≤ keep.length then keep.drop 1 else keep) ++ [⟨st, l, ln, c.cycle.toNat, p.code⟩] }

/-- The elements of an exclusive load read at their places, each with its reservation (R216, R383). -/
def State.exclusives (s : State) (st : StreamId) (scope n : Nat) : List Elem → List (Nat × Nat) × State
  | [] => ([], s)
  | e :: t =>
    let ln := e.x.pa / 128
    let (v, s) :=
      if (region e.x.pa).isMemory then
        let s := s.classed (s.stream st).cls e.x
        let p := s.placeOf st scope e.x
        let (line, s) := s.toPlace st p e.va e.x
        let v := fld line (8 * (e.x.pa % 128)) (8 * n)
        let (mask, w) := inLine e.x.pa n v
        (v, (s.l1Seen st ln mask w).reserve st e.k ln p)
      else
        let (v, s) := s.deviceRead st e.x n
        (v, s.reserve st e.k ln .home)
    let (l, s) := s.exclusives st scope n t
    ((e.k, v) :: l, s)

/-- A load that sets the thread's reservation on the granule of its element (R213, R216). -/
def planLdx (o : LOp) (s : State) : Plan :=
  let st := s.iss.st
  let f : Form := if st.isWave then .perElement else .scalar
  let a := LOp.acc o
  let j := s.judge st o.ty.bytes askRead (s.elements f a a.off)
  s.gateL (.ldx o) f o.pred
    { s.base (.ldx o) with
      addr := s.reach askRead j,
      eff := fun t =>
        let t := t.settle st
        let t := if orderAcq o.order then t.acquire st o.scope.toNat else t
        let (vals, t) := t.exclusives st o.scope.toNat o.ty.bytes j.elems
        (t.poisonCheck st j.elems).deliver (loadResult (t.loadOf o f 8 false []) .l vals) }

/-- A bundle of `LDX` alone. -/
def execLdx (o : LOp) (s : State) : Out := s.single (planLdx o s)

/-! ## Atomics (R210 to R212) -/

/-- The operands of an atomic for element k: b, and of `amcas` the new value. -/
def State.atomB (s : State) (o : LOp) (f : Form) (d : Nat) (k : Nat) : Nat :=
  let x := s.stream s.iss.st
  let r := o.reg + BitVec.ofNat 6 d
  if o.vfile then elemAt (x.readV r) 0 (s.pitch f o.ty) k % 2 ^ (8 * o.ty.bytes) else (x.readS r).toNat % 2 ^ (8 * o.ty.bytes)

/-- The elements of an atomic performed in increasing k: the old values, and the state after (R200). -/
def State.atomics (s : State) (st : StreamId) (scope n : Nat) (g : Nat → Nat → Option Nat) : List Elem → List (Nat × Nat) × State
  | [] => ([], s)
  | e :: t =>
    let (v, s) := s.rmw st scope e.va e.x n (g e.k)
    let (l, s) := s.atomics st scope n g t
    ((e.k, v) :: l, s)

/-- Whether an access writes a counter of the counter region, which is an `evadd` in its order (R157, R448). -/
def toCounters (l : List Elem) : Bool := l.any fun e => region e.x.pa = .counters

/-- The order and scope by which an access of some elements releases: a counter's write is a release at device scope (R157, R448). -/
def relOrder (order : MemOrder) (l : List Elem) : MemOrder := if toCounters l && !orderRel order then .rel else order
def relScope (scope : Nat) (l : List Elem) : Nat := if toCounters l then max 6 scope else scope

/-- The plan of an atomic: held until its release is acknowledged (R332), performed at its place, its old values returned
(R210, R212). With NW = 1 no value enters the latch, as R210 says of an atomic, and not R95's rule of every operation (DEDUCED, log
entry 54). -/
def State.planAtomic (s : State) (i : Instr) (o : LOp) (g : (Nat → Nat) → (Nat → Nat) → Nat → Nat → Option Nat) : Plan :=
  let st := s.iss.st
  let scope := o.scope.toNat
  let f : Form := if o.vfile then .perElement else .scalar
  let a := LOp.acc o
  let j := s.judge st o.ty.bytes askRmw (s.elements f a a.off)
  let b := s.base i
  let ord := relOrder o.order j.elems
  let push := fun (t : State) => if orderRel ord then t.release st (relScope scope j.elems) else t
  let ops := g (s.atomB o f 0) (s.atomB o f 1)
  s.gateL i f o.pred
    { b with
      hold := b.hold || (orderRel ord && (push s).owes st (ackScope o.order (relScope scope j.elems))), wait := push,
      addr := s.reach askRmw j,
      eff := fun t =>
        let t := (push (t.settle st)).ownClear f o.ty (j.elems.map (·.k))
        let (vals, t) := t.atomics st scope o.ty.bytes ops j.elems
        let t := (if orderAcq o.order then t.acquire st scope else t).poisonCheck st j.elems
        if o.nw then t else t.giveBack (loadResult (t.loadOf o f 0 false []) .l vals) }

/-- The plan of an atomic whose new value is a function of the old value and the operand. -/
def State.planAm (s : State) (i : Instr) (o : LOp) (g : Nat → Nat → Nat) : Plan :=
  s.planAtomic i o fun b _ k old => some (g old (b k))

/-- old + b (R211). -/
def planAmadd (o : LOp) (s : State) : Plan :=
  s.planAm (.amadd o) o fun old b => (old + b) % 2 ^ (8 * o.ty.bytes)

/-- A bundle of `AMADD` alone. -/
def execAmadd (o : LOp) (s : State) : Out := s.single (planAmadd o s)

/-- The lesser of old and b (R211). -/
def planAmmin (o : LOp) (s : State) : Plan :=
  s.planAm (.ammin o) o fun old b => eMin o.ty old b

/-- A bundle of `AMMIN` alone. -/
def execAmmin (o : LOp) (s : State) : Out := s.single (planAmmin o s)

/-- The greater of old and b (R211). -/
def planAmmax (o : LOp) (s : State) : Plan :=
  s.planAm (.ammax o) o fun old b => eMax o.ty old b

/-- A bundle of `AMMAX` alone. -/
def execAmmax (o : LOp) (s : State) : Out := s.single (planAmmax o s)

/-- old AND b (R211). -/
def planAmand (o : LOp) (s : State) : Plan :=
  s.planAm (.amand o) o fun old b => old &&& b

/-- A bundle of `AMAND` alone. -/
def execAmand (o : LOp) (s : State) : Out := s.single (planAmand o s)

/-- old OR b (R211). -/
def planAmor (o : LOp) (s : State) : Plan :=
  s.planAm (.amor o) o fun old b => old ||| b

/-- A bundle of `AMOR` alone. -/
def execAmor (o : LOp) (s : State) : Out := s.single (planAmor o s)

/-- old XOR b (R211). -/
def planAmxor (o : LOp) (s : State) : Plan :=
  s.planAm (.amxor o) o fun old b => old ^^^ b

/-- A bundle of `AMXOR` alone. -/
def execAmxor (o : LOp) (s : State) : Out := s.single (planAmxor o s)

/-- b (R211). -/
def planAmswp (o : LOp) (s : State) : Plan :=
  s.planAm (.amswp o) o fun _ b => b

/-- A bundle of `AMSWP` alone. -/
def execAmswp (o : LOp) (s : State) : Out := s.single (planAmswp o s)

/-- The value of register d + 1 if old = b, else nothing is written (R210, R211). -/
def planAmcas (o : LOp) (s : State) : Plan :=
  s.planAtomic (.amcas o) o fun b c k old => if old = b k then some (c k) else none

/-- A bundle of `AMCAS` alone. -/
def execAmcas (o : LOp) (s : State) : Out := s.single (planAmcas o s)

/-- rnd(f32, old + b, RNE), subnormals kept, no flag (R211). -/
def planAmfadd (o : LOp) (s : State) : Plan :=
  s.planAm (.amfadd o) o fun old b => sumRne .f32 old b

/-- A bundle of `AMFADD` alone. -/
def execAmfadd (o : LOp) (s : State) : Out := s.single (planAmfadd o s)

/-- 0 if old ≥ b, unsigned, else old + 1 (R211). -/
def planAminc (o : LOp) (s : State) : Plan :=
  s.planAm (.aminc o) o fun old b => if b ≤ old then 0 else old + 1

/-- A bundle of `AMINC` alone. -/
def execAminc (o : LOp) (s : State) : Out := s.single (planAminc o s)

/-! ## Returns as events -/

/-- The oldest outstanding load of a stream returns its data (R204). -/
def execLoadDataReturn (s : State) : Out :=
  match s.subject with
  | .stream st =>
    match (s.stream st).loads with
    | l :: t => .next ((s.modStream st fun x => { x with loads := t }).returnLoad st l)
    | [] => .next s
  | _ => .next s

/-- The value that a frozen context waits for returns, and lands so that the next bundle sees it (R107, R212). -/
def execMemoryValueReturn (s : State) : Out :=
  match s.subject with
  | .stream st =>
    match (s.stream st).returns with
    | r :: t => .next ((s.modStream st fun x => { x with returns := t }).landAt s.ltime st r)
    | [] => .next s
  | _ => .next s

/-- The oldest line of a write buffer passes its bytes to the cluster cache (R208). -/
def execWriteBufferDrain (s : State) : Out :=
  match s.subject with
  | .stream st =>
    match (s.stream st).wbuf with
    | w :: t => .next ((s.modStream st fun x => { x with wbuf := t }).wbPass st w)
    | [] => .next s
  | _ => .next s

/-- The place of execution reports a kill: the core's reservations on the granule are cleared (R383). -/
def execReservationKill (s : State) : Out :=
  match s.subject with
  | .kill c ln => .next (s.modCommon c fun k => { k with reservations := k.reservations.filter fun r => decide (r.granule ≠ ln) })
  | _ => .next s

/-- Reservations older than 4096 clocks of the core are cleared (R215). -/
def execReservationAgeExpiry (s : State) : Out :=
  match s.subject with
  | .core c =>
    .next (s.modCommon c fun k =>
      { k with reservations := k.reservations.filter fun r => decide (k.cycle.toNat ≤ r.made + 4096) })
  | _ => .next s

end Sys2Proof.Machine
end

