-- ==== Sys2Proof/Machine/Stores.lean ====
section
/-! DEFINITION. Stores, the store conditional, the commutative add and the line write-back (R208 to R219, R343). -/

namespace Sys2Proof.Machine

/-- The value that a store gives element k: the low bytes of its data source (R197, R208). -/
def State.stored (s : State) (o : WOp) (f : Form) (k : Nat) : Nat :=
  if f = .scalar then (s.srcS 0 o.data).toNat % 2 ^ (8 * o.ty.bytes)
  else elemAt (s.srcV o.ty 0 o.data) 0 (s.pitch f o.ty) k % 2 ^ (8 * o.ty.bytes)

/-- Whether a store finds the write buffer too full for its lines (R208). A store of more lines than an empty buffer holds goes on into an empty
one; a wave has a buffer of 32 lines as a tile context has (DESIGN CHOICE, log entry 54). -/
def State.wbFull (s : State) (st : StreamId) (l : List Elem) : Bool :=
  let x := s.stream st
  let new := ((l.filter fun e => !s.atHomeOnly e.x).map fun e => e.x.pa / 128).eraseDups.filter fun ln =>
    !(x.wbuf.any fun w => w.line = ln)
  !st.isSuper && !x.wbuf.isEmpty && decide (32 < x.wbuf.length + new.length)

/-- The state pushed to a release's point of coherence, and what holds the releasing bundle (R335, R336). -/
def State.pushed (s : State) (st : StreamId) (order : MemOrder) (scope : Nat) : State :=
  if orderRel order then s.release st scope else s
def State.unacked (s : State) (st : StreamId) (order : MemOrder) (scope : Nat) : Bool :=
  orderRel order && (s.pushed st order scope).owes st (ackScope order scope)

/-- The plan of a global store (R196 to R201, R208): held for room in the write buffer, and for the acknowledgements of a release; a counter's write is a release (R448). -/
def State.planStore (s : State) (i : Instr) (o : WOp) (f : Form) (strm : Bool) : Plan :=
  let st := s.iss.st
  let a := WOp.acc o
  let j := s.judge st o.ty.bytes askWrite (s.elements f a a.off)
  let b := s.base i
  let ord := relOrder o.order j.elems
  let sc := relScope o.scope.toNat j.elems
  s.gateL i f o.pred
    { b with
      hold := b.hold || s.unacked st ord sc || (!strm && s.wbFull st j.elems),
      wait := fun t => t.pushed st ord sc,
      addr := s.reach askWrite j,
      eff := fun t =>
        let t := ((t.settle st).pushed st ord sc).ownClear f o.ty (j.elems.map (·.k))
        j.elems.foldl (fun t e => t.writeElem st e.x o.ty.bytes (s.stored o f e.k) strm) t }

/-- Store the low bytes of an S source (R208). -/
def planSt (o : WOp) (s : State) : Plan :=
  s.planStore (.st o) o .scalar false

/-- A bundle of `ST` alone. -/
def execSt (o : WOp) (s : State) : Out := s.single (planSt o s)

/-- Store contiguous elements (R208). -/
def planVst (o : WOp) (s : State) : Plan :=
  s.planStore (.vst o) o .contiguous false

/-- A bundle of `VST` alone. -/
def execVst (o : WOp) (s : State) : Out := s.single (planVst o s)

/-- Store elements at a stride; lane-wise on a shader core (R197, R208). -/
def planVsts (o : WOp) (s : State) : Plan :=
  s.planStore (.vsts o) o .strided false

/-- A bundle of `VSTS` alone. -/
def execVsts (o : WOp) (s : State) : Out := s.single (planVsts o s)

/-- Store elements at their own offsets; lane-wise on a shader core (R197, R208). -/
def planVsct (o : WOp) (s : State) : Plan :=
  s.planStore (.vsct o) o .perElement false

/-- A bundle of `VSCT` alone. -/
def execVsct (o : WOp) (s : State) : Out := s.single (planVsct o s)

/-- As `vst`, streaming: the bytes go to the die L2 (R206). -/
def planGst (o : WOp) (s : State) : Plan :=
  s.planStore (.gst o) o .contiguous true

/-- A bundle of `GST` alone. -/
def execGst (o : WOp) (s : State) : Out := s.single (planGst o s)

/-- A store to a typed buffer or group store (R103, R209); with `.rel` it comes after the earlier accesses of its context, at core scope at
most (R332, R340). -/
def planTst (o : WOp) (s : State) : Plan :=
  let st := s.iss.st
  let f := s.typedForm true
  let sp := fld o.imm 13 2
  let l := s.typedElements f (WOp.acc o) (fld o.imm 0 13 * o.ty.bytes : Nat)
  s.gateL (.tst o) f o.pred
    { s.base (.tst o) with
      hold := (s.base (.tst o)).hold || s.tileBusy st sp l,
      addr := match s.judgeTyped st sp o.ty.bytes true l with | some r => .raise r | none => .ok,
      eff := fun t =>
        let t := (if orderRel o.order then (t.settle st).release st (min 3 o.scope.toNat) else t).ownClear f o.ty (l.map (·.1))
        l.foldl (fun t e => t.putSpace st sp e.2.toNat (leBytes o.ty.bytes (s.stored o f e.1))) t }

/-- A bundle of `TST` alone. -/
def execTst (o : WOp) (s : State) : Out := s.single (planTst o s)

/-! ## The store conditional (R217) -/

/-- Whether a thread holds a reservation that covers a granule, no older than 4096 clocks (R215, R217). -/
def State.holds (s : State) (st : StreamId) (l ln : Nat) : Bool :=
  let c := s.common st.core
  c.reservations.any fun r => r.st = st && r.lane = l && r.granule = ln && decide (c.cycle.toNat ≤ r.made + 4096)

/-- The state with a thread's reservation cleared. -/
def State.unreserve (s : State) (st : StreamId) (l : Nat) : State :=
  s.modCommon st.core fun c => { c with reservations := c.reservations.filter fun r => !(r.st = st && r.lane = l) }

/-- One element of a store conditional: whether it succeeds, and the state after; the check and the store are performed at the place, once
it holds the line (R383), and the reservation is cleared either way; a store that reaches nothing is an uncorrectable error (R455, R458). -/
def State.storeCond (s : State) (st : StreamId) (scope n v : Nat) (e : Elem) : Bool × State :=
  let ln := e.x.pa / 128
  if !s.holds st e.k ln then (false, s.unreserve st e.k)
  else if s.gone e.x.pa then (false, (s.unreserve st e.k).raiseLost st e.x.pa)
  else if (region e.x.pa).isMemory then
    let s := s.classed (s.stream st).cls e.x
    let p := s.placeOf st scope e.x
    let (_, s) := s.toPlace st p e.va e.x
    if s.holds st e.k ln then
      let (mask, w) := inLine e.x.pa n v
      (true, ((s.unreserve st e.k).placeDone st p ln mask w e.x).l1Seen st ln mask w)
    else (false, s.unreserve st e.k)
  else (true, (s.unreserve st e.k).deviceWrite st e.x n v)

/-- The elements of a store conditional in order: those that succeed, and the state after. -/
def State.storeConds (s : State) (st : StreamId) (scope n : Nat) (v : Nat → Nat) : List Elem → List Nat × State
  | [] => ([], s)
  | e :: t =>
    let (ok, s) := s.storeCond st scope n (v e.k) e
    let (l, s) := s.storeConds st scope n v t
    (if ok then e.k :: l else l, s)

/-- Store if the thread's reservation covers the granule; Pd := success (R217). -/
def planStx (o : WOp) (s : State) : Plan :=
  let st := s.iss.st
  let f : Form := if st.isWave then .perElement else .scalar
  let a := WOp.acc o
  let j := s.judge st o.ty.bytes askWrite (s.elements f a ((o.imm.setWidth 11).toInt * o.ty.bytes))
  let b := s.base (.stx o)
  let scope := o.scope.toNat
  s.gateL (.stx o) f o.pred
    { b with
      hold := b.hold || s.unacked st o.order scope,
      wait := fun t => t.pushed st o.order scope,
      addr := s.reach askWrite j,
      eff := fun t =>
        let t := (t.settle st).pushed st o.order scope
        let (oks, t) := t.storeConds st scope o.ty.bytes (s.stored o f) j.elems
        let (mask, v) : PWord × PWord :=
          if st.isWave then (laneBytes (ofLanes (j.elems.map (·.k))), laneBytes (ofLanes oks))
          else (BitVec.allOnes 128, allBits (!oks.isEmpty))
        t.giveBack (t.result 0 (.p (BitVec.ofNat 4 (fld o.imm 11 4))) false mask (v.setWidth 1024) 0 0) }

/-- A bundle of `STX` alone. -/
def execStx (o : WOp) (s : State) : Out := s.single (planStx o s)

/-! ## The commutative add (R219, R343) -/

/-- The checks of a commutative add: those of a store, then a range of the element's type (R199, R219). -/
def State.judgeAdd (s : State) (st : StreamId) (t : ElTy) : List (Nat × Nat) → Judged
  | [] => .ok []
  | e :: l =>
    match s.judge st t.bytes askWrite [e] with
    | .ok h =>
      if h.all fun e => decide ((s.rangeOf (e.x.pa / 128)).map (·.1) = some t) then
        match s.judgeAdd st t l with
        | .ok r => .ok (h ++ r)
        | j => j
      else .raise (.service cPERM (BitVec.ofNat 64 e.2))
    | j => j

/-- The state after one element is combined into its cluster's partial, created at the identity (R343). -/
def State.addPartial (s : State) (st : StreamId) (t : ElTy) (x : Xl) (v : Nat) : State :=
  let ln := x.pa / 128
  let j := joinIndex st.core
  match s.rangeOf ln with
  | none => s
  | some (_, op) =>
    let set := s.mm.partials.filter fun p => p.1.1 = j && p.1.2 % 2048 = ln % 2048 && decide (p.1.2 ≠ ln)
    let s := match set with
      | p :: _ => if 16 ≤ set.length then s.row .partialJoinOnArrival (.num2 j p.1.2) else s
      | [] => s
    let old := Table.get (fillElems t.bytes fun _ => rangeUnit t op) s.mm.partials (j, ln)
    let k := x.pa % 128 / t.bytes
    let (m, w) := inLine x.pa t.bytes (rangeOp t op (elemAt old 0 t.bytes k) v)
    s.modMem fun mm => { mm with partials := Table.put mm.partials (j, ln) (merge m w old) }

/-- Combine each element into this cluster's partial of its range (R219, R343). -/
def planCadd (o : WOp) (s : State) : Plan :=
  let st := s.iss.st
  let f : Form := if st.isWave then .perElement else .contiguous
  let a := WOp.acc o
  let j := s.judgeAdd st o.ty (s.elements f a a.off)
  let b := s.base (.cadd o)
  { b with
    hold := b.hold || s.unacked st o.order o.scope.toNat,
    wait := fun t => t.pushed st o.order o.scope.toNat,
    addr := s.reach askWrite j,
    eff := fun t =>
      let t := ((t.settle st).pushed st o.order o.scope.toNat).ownClear f o.ty (j.elems.map (·.k))
      j.elems.foldl (fun t e => t.addPartial st o.ty e.x (s.stored o f e.k)) t }

/-- A bundle of `CADD` alone. -/
def execCadd (o : WOp) (s : State) : Out := s.single (planCadd o s)

/-- An evicted partial arrives at the home and is joined into it, by itself (R343). -/
def execPartialJoinOnArrival (s : State) : Out :=
  match s.subject with
  | .num2 j ln =>
    match s.rangeOf ln with
    | some (t, op) => .next ((s.recall ln).joinOne ln t op j)
    | none => .next s
  | _ => .next s

/-! ## Line write-back (R214) -/

/-- The state after a line goes as far as a scope selects (R214). -/
def State.writeBack (s : State) (st : StreamId) (x : Xl) (scope : Nat) : State :=
  let ln := x.pa / 128
  if !(region x.pa).isMemory || decide (2 ≤ x.ty) then s
  else
    let s := if st.isSuper then s else s.wbDrain st fun w => decide (w.line = ln)
    if scope < 5 then s
    else
      let s := if st.isSuper then s else s.clSend (clusterOf st.core) ln scope
      match s.mm.dirtyAgent ln with
      | some a => if scope = 7 || (scope = 6 && peerLine ln) then s.agentClean a ln else if scope = 6 then s.agentOwn (lineDie ln) ln x.sync else s
      | none => s

/-- Write back one line, as far as its scope selects (R214). -/
def planCwb (o : WOp) (s : State) : Plan :=
  let st := s.iss.st
  let a := WOp.acc o
  let va := wrap 48 (s.address .scalar a a.off 0)
  let j := s.judge st o.ty.bytes askWrite [(0, va)]
  s.gateL (.cwb o) .scalar o.pred
    { s.base (.cwb o) with
      addr := s.reach askWrite j,
      eff := fun t => j.elems.foldl (fun t e => t.writeBack st e.x o.scope.toNat) (t.settle st) }

/-- A bundle of `CWB` alone. -/
def execCwb (o : WOp) (s : State) : Out := s.single (planCwb o s)

end Sys2Proof.Machine
end

