-- ==== Sys2Proof/Machine/System.lean ====
section
/-! DEFINITION. Per-lane calls with their return stacks, TLB and cache maintenance, event-counter operations (R139 to R141,
R151, R152, R155 to R160). -/

namespace Sys2Proof.Machine

/-! ## Return stacks (R140, R141) -/

/-- The address of entry e of lane l of the spill region. -/
def spillAddr (x : Stream) (e l : Nat) : Nat := (x.csr.lstkBase.toNat + 256 * e + 8 * l) % 2 ^ 48

/-- A lane's on-chip return stack, top first, and its spilled count. -/
def Threads.stackOf (t : Threads) (l : Nat) : List Word := t.chip.get ⟨l % 32, Nat.mod_lt _ (by decide)⟩
def Threads.spilled (t : Threads) (l : Nat) : Nat := t.spill.get ⟨l % 32, Nat.mod_lt _ (by decide)⟩

/-- Threads with a lane's return stack set. -/
def Threads.setStack (t : Threads) (l : Nat) (chip : List Word) (n : Nat) : Threads :=
  { t with chip := File.set t.chip (lane l) chip, spill := File.set t.spill (lane l) n }

/-- The lanes that would trap, and the elements of the spills or fills, of a push or pop on a set of lanes (R140). -/
def Stream.pushTraps (x : Stream) (m : List Nat) : List Nat :=
  m.filter fun l => decide (4 ≤ (x.thr.stackOf l).length ∧ x.csr.lstkDepth.toNat < x.thr.spilled l + 2)
def Stream.popTraps (x : Stream) (m : List Nat) : List Nat :=
  m.filter fun l => decide ((x.thr.stackOf l).length = 0 ∧ x.thr.spilled l = 0)
def Stream.pushSpills (x : Stream) (m : List Nat) : List (Nat × Nat) :=
  (m.filter fun l => decide (4 ≤ (x.thr.stackOf l).length)).flatMap fun l =>
    [(2 * l, spillAddr x (x.thr.spilled l) l), (2 * l + 1, spillAddr x (x.thr.spilled l + 1) l)]
def Stream.popFills (x : Stream) (m : List Nat) : List (Nat × Nat) :=
  (m.filter fun l => decide ((x.thr.stackOf l).length = 0)).flatMap fun l =>
    [(2 * l, spillAddr x (x.thr.spilled l - 2) l), (2 * l + 1, spillAddr x (x.thr.spilled l - 1) l)]

/-- #STACKOV of the lanes that would trap (R140). -/
def stackTrap (l : List Nat) (under : Bool) : Option Raise :=
  if l = [] then none else some (.service cSTACKOV (((ofLanes l).setWidth 64 <<< 32) ||| (if under then 1 else 0)))

/-- The state after a return address is pushed on each lane of a set: a full chip spills its two oldest entries (R140). A spill is a store
of every thread of the issuing path, whose reservations it clears (R215, R471). -/
def State.pushLanes (s : State) (st : StreamId) (m : List Nat) (ret : Word) (es : List Elem) : State :=
  let old := (s.stream st).thr
  let s := if es.isEmpty then s else s.clearReservations st s.iss.lanes
  let s := es.foldl (fun s e =>
    let chip := old.stackOf (e.k / 2)
    s.writeElem st e.x 8 ((chip[if e.k % 2 = 0 then 3 else 2]?).getD 0).toNat false) s
  s.modStream st fun x =>
    { x with thr := m.foldl (fun t l =>
        let c := t.stackOf l
        if 4 ≤ c.length then t.setStack l (ret :: c.take 2) (t.spilled l + 2) else t.setStack l (ret :: c) (t.spilled l)) x.thr }

/-- The state after each lane of a set pops its return address: an empty chip is filled with two entries (R140). -/
def State.popLanes (s : State) (st : StreamId) (m : List Nat) (es : List Elem) : State :=
  let (vals, s) := s.readElems st 8 false es
  let at_ := fun (k : Nat) => BitVec.ofNat 64 ((vals.find? fun e => e.1 = k).map (·.2) |>.getD 0)
  s.modStream st fun x =>
    { x with thr := m.foldl (fun t l =>
        match t.stackOf l with
        | c :: r => (t.setStack l r (t.spilled l)).jump (ofLanes [l]) fun _ => c
        | [] => (t.setStack l [at_ (2 * l)] (t.spilled l - 2)).jump (ofLanes [l]) fun _ => at_ (2 * l + 1)) x.thr }

/-- Lanes whose lane test is 1 push PC + 1 and go to their element of A, plus B (R139, R140). -/
def planCalll (o : SOp) (s : State) : Plan :=
  let st := s.iss.st
  let x := s.stream st
  let m := s.laneTest o.pred
  let j := s.judge st 8 askWrite (x.pushSpills (lanesOf m))
  let b := s.base (.calll o)
  { b with
    hold := b.hold || s.wbFull st j.elems,
    val := stackTrap (x.pushTraps (lanesOf m)) false,
    addr := s.reach askWrite j,
    eff := fun t =>
      let t := if j.elems = [] then t else t.settle st
      (t.pushLanes st (lanesOf m) (s.iss.pc + 1) j.elems).scatter m (s.laneTarget o) }

/-- A bundle of `CALLL` alone. -/
def execCalll (o : SOp) (s : State) : Out := s.single (planCalll o s)

/-- Lanes whose lane test is 1 go to the address that they pop (R139, R140). -/
def planRetl (o : SOp) (s : State) : Plan :=
  let st := s.iss.st
  let x := s.stream st
  let m := s.laneTest o.pred
  let j := s.judge st 8 askRead (x.popFills (lanesOf m))
  { s.base (.retl o) with
    val := stackTrap (x.popTraps (lanesOf m)) true,
    addr := s.reach askRead j,
    eff := fun t => (t.scatter 0 fun _ => 0).popLanes st (lanesOf m) j.elems }

/-- A bundle of `RETL` alone. -/
def execRetl (o : SOp) (s : State) : Out := s.single (planRetl o s)

/-! ## TLB maintenance (R151) -/

/-- Whether a `tlbi` of a kind, address and ASID covers a cached translation. -/
def tlbiCovers (kind va : Nat) (asid : BitVec 16) (e : TlbEntry) : Bool :=
  let maps := decide (e.va ≤ va ∧ va < e.va + e.size)
  match kind with
  | 0 => true
  | 1 => e.asid = asid && !bit e.leaf 5
  | 2 => maps && (e.asid = asid || bit e.leaf 5)
  | _ => maps

/-- Whether it may cover what is known only by its line and ASID: any line that a page around the address could hold. -/
def tlbiNear (kind va : Nat) (vline : Nat) : Bool := kind ≤ 1 || decide (128 * vline / 2 ^ 30 = va / 2 ^ 30)

/-- The state after the translations that a `tlbi` covers are dropped, in the cluster, die and supervisor TLBs that a reach takes
in: the entries, the pointers of the walk caches, the L1 lines of covered pages; walks in flight install nothing; accesses that
used them are performed (R151, R410). The lines of shader instruction caches, of which R151 does not speak, stay (DESIGN CHOICE, log
entry 54). -/
def State.shoot (s : State) (inCluster inDie inSuper : Nat → Bool) (kind va : Nat) (asid : BitVec 16) : State :=
  let keep := fun (l : List TlbEntry) => l.filter fun e => !tlbiCovers kind va asid e
  let inCore := fun (c : CoreId) => match c with | .super n => inSuper n | c => inCluster (clusterOf c)
  let inTlb := fun (k : Nat) => if k < 32 then inCluster k else inSuper (k - 32)
  let near := fun (a : BitVec 16) => kind = 0 || kind = 3 || a = asid
  let s := s.streams.foldl (fun s e => if inCore e.1.core then (s.settle e.1).wbDrain e.1 fun _ => true else s) s
  let s := s.modMem fun m =>
    { m with
      clusterTlbs := m.clusterTlbs.map fun e => (e.1, if inCluster e.1 then keep e.2 else e.2),
      dieTlbs := m.dieTlbs.map fun e => (e.1, if inDie (b2n e.1) then keep e.2 else e.2),
      superTlbs := m.superTlbs.map fun e => (e.1, if inSuper e.1 then keep e.2 else e.2),
      superFirst := m.superFirst.map fun e => (e.1, if inSuper e.1.1 then keep e.2 else e.2),
      walkCaches := m.walkCaches.map fun e => (e.1, if inTlb e.1 then e.2.filter fun p => !near p.asid else e.2),
      walks := m.walks.map fun w =>
        if inTlb w.tlb && near w.asid && (kind ≤ 1 || decide (w.page.toNat / 2 ^ 18 = va / 2 ^ 30)) then { w with killed := true }
        else w }
  let gone := fun (vline : Nat) (a : BitVec 16) => tlbiNear kind va vline && (kind = 2 || near a)
  let drop := fun (c : Common) => { c with l1 := c.l1.filter fun l => !gone l.vline l.asid }
  let dropI := fun (c : Common) => { drop c with icache := c.icache.filter fun l => !gone l.vline l.asid }
  { s with
    tiles := s.tiles.map fun e => (e.1, if inCore (.tile e.1) then { e.2 with com := drop e.2.com } else e.2),
    shaders := s.shaders.map fun e => (e.1, if inCore (.shader e.1) then { e.2 with com := drop e.2.com } else e.2),
    supers := s.supers.map fun e => (e.1, if inCore (.super e.1) then { e.2 with com := dropI e.2.com } else e.2) }

/-- The state after the `tlbi` of a stream acts, by its reach (R151). -/
def State.tlbiAct (s : State) (st : StreamId) (w : TlbiWait) : State :=
  let d := st.die
  let wide := decide (2 ≤ w.reach)
  let own := fun (n : Nat) => match st.core with | .super m => decide (n = m) | _ => false
  let clusters := fun (c : Nat) =>
    wide || (decide (w.reach = 1) && decide (c / 16 = d)) || (!st.isSuper && decide (c = clusterOf st.core))
  let dies := fun (e : Nat) => wide || ((decide (w.reach = 1) || !st.isSuper) && decide (e = d))
  let supers := fun (n : Nat) => st.isSuper && (wide || (decide (w.reach = 1) && decide (n / 16 = d)) || own n)
  s.shoot clusters dies supers w.kind w.va w.asid

/-- Drop cached translations; #PRIV at U; the next bundle waits for its completion (R151). -/
def planTlbi (o : SOp) (s : State) : Plan :=
  let st := s.iss.st
  let w : TlbiWait := ⟨o.sub 0 2, o.sub 2 2, (s.sA o).toNat % 2 ^ 48, (s.sB o).setWidth 16⟩
  s.scalar (.tlbi o) o
    { s.base (.tlbi o) with
      priv := (s.stream st).csr.priv ≠ 0,
      eff := fun t => (t.modStream st fun x => { x with tlbiWait := x.tlbiWait ++ [w] }).row .tlbiCompletion (.stream st) }

/-- A bundle of `TLBI` alone. -/
def execTlbi (o : SOp) (s : State) : Out := s.single (planTlbi o s)

/-- The translations are dropped and the accesses that used them performed, so a stream's oldest `tlbi` completes (R151). -/
def execTlbiCompletion (s : State) : Out :=
  match s.subject with
  | .stream st =>
    match (s.stream st).tlbiWait with
    | w :: r => .next ((s.tlbiAct st w).modStream st fun x => { x with tlbiWait := r })
    | [] => .next s
  | _ => .next s

/-! ## Cache maintenance (R152) -/

/-- The state after a cluster cache, or a supervisor core's private L2, is written back whole, and invalidated. -/
def State.maintAll (s : State) (st : StreamId) (drop : Bool) : State :=
  match st.core with
  | .super n =>
    let a := superAgent n
    let ls := s.mm.linesOf a
    ls.foldl (fun s ln => if drop then s.evictLine a ln else s.agentClean a ln) s
  | c =>
    let s := s.clPush (clusterOf c) 5
    if drop then s.setCluster (clusterOf c) [] else s

/-- The state after one line of a cluster cache, or of a private L2, is written back, and invalidated. -/
def State.maintLine (s : State) (st : StreamId) (ln : Nat) (drop : Bool) : State :=
  match st.core with
  | .super n => if drop then s.evictLine (superAgent n) ln else s.agentClean (superAgent n) ln
  | c => if drop then s.clEvict (clusterOf c) ln else s.clWriteback (clusterOf c) ln

/-- The state after a `cmaint` operation acts; the streams' buffered stores go first (R152). -/
def State.maint (s : State) (st : StreamId) (op : Nat) (va : Nat) (l : List Elem) : State :=
  let asid := (s.stream st).csr.asid
  let s := if st.isSuper then s else
    s.streams.foldl (fun s e => if e.1.core = st.core then s.wbDrain e.1 fun _ => true else s) s
  match op with
  | 0 => s.l1Keep st.core fun _ => false
  | 1 | 2 => l.foldl (fun s e => s.maintLine st (e.x.pa / 128) (op = 2)) s
  | 3 => s.modCommon st.core fun c => { c with icache := c.icache.filter fun i => !(i.vline = va / 128 && i.asid = asid) }
  | 4 => s.modCommon st.core fun c => { c with icache := [] }
  | _ => s.maintAll st (op = 6)

/-- Cache maintenance; operations 5 and 6 are #PRIV at U; the next bundle waits for its write-backs (R152). -/
def planCmaint (o : SOp) (s : State) : Plan :=
  let st := s.iss.st
  let op := o.sub 0 3
  let va := (s.sA o).toNat % 2 ^ 48
  let j := if 1 ≤ op ∧ op ≤ 3 then s.judge st 1 askRead [(0, va)] else .ok []
  s.scalar (.cmaint o) o
    { s.base (.cmaint o) with
      priv := op < 5 || (s.stream st).csr.priv ≠ 0,
      addr := s.reach askRead j,
      eff := fun t =>
        (((t.settle st).maint st op va j.elems).modStream st fun x => { x with cmaintWait := true }).row .cmaintCompletion (.stream st) }

/-- A bundle of `CMAINT` alone. -/
def execCmaint (o : SOp) (s : State) : Out := s.single (planCmaint o s)

/-- The write-backs of a stream's `cmaint` are acknowledged, and its next bundle may issue (R152). -/
def execCmaintCompletion (s : State) : Out :=
  match s.subject with
  | .stream st =>
    if (s.stream st).cmaintWait then
      if Table.get 0 s.mm.owed (agentOf st.core) = 0 then .next (s.modStream st fun x => { x with cmaintWait := false })
      else .next (s.row .cmaintCompletion (.stream st))
    else .next s
  | _ => .next s

/-! ## Event counters (R155 to R160) -/

/-- What a counter id raises: #BOUNDS from 4096, #PERM of another's counter (R155). -/
def State.ctrRaise (s : State) (a : Word) : Option Raise :=
  if 4096 ≤ a.toNat then some (.service cBOUNDS a)
  else if s.ctrOwner a.toNat ≠ (s.stream s.iss.st).csr.asid then some (.service cPERM a)
  else none

/-- counter A += B, after a release at device scope; S[d] := the value before (R156, R157). -/
def planEvadd (o : SOp) (s : State) : Plan :=
  let st := s.iss.st
  let a := s.sA o
  let b := s.base (.evadd o)
  s.scalar (.evadd o) o
    { b with
      hold := b.hold || s.unacked st .rel 6,
      wait := fun t => t.pushed st .rel 6,
      val := s.ctrRaise a,
      eff := fun t =>
        let t := (t.settle st).release st 6
        let old := t.ctr a.toNat
        let t := t.ctrAdd a.toNat (s.sB o)
        if o.dst.nw then t
        else (t.acquire st 6).giveBack (t.result 0 (dstS o.dst) false (BitVec.allOnes 128) (old.setWidth 1024) 0 0) }

/-- A bundle of `EVADD` alone. -/
def execEvadd (o : SOp) (s : State) : Out := s.single (planEvadd o s)

/-- S[d] := counter A, with an acquire at device scope (R156, R157). -/
def planEvld (o : SOp) (s : State) : Plan :=
  let st := s.iss.st
  let a := s.sA o
  s.scalar (.evld o) o
    { s.base (.evld o) with
      val := s.ctrRaise a,
      eff := fun t =>
        let t := (t.settle st).acquire st 6
        t.giveBack (t.result 0 (dstS o.dst) o.dst.nw (BitVec.allOnes 128) ((t.ctr a.toNat).setWidth 1024) 0 0) }

/-- A bundle of `EVLD` alone. -/
def execEvld (o : SOp) (s : State) : Out := s.single (planEvld o s)

/-! ### Triggers (R160, R428) -/

/-- Word i of the descriptor of queue q (R428). -/
def State.qword (s : State) (q i : Nat) : Nat := s.phys (fld (s.ctl 0xA00) 0 52 + 64 * q + 8 * i) 8

/-- The state after the descriptor of a queue of the table has been read (R344, R447). -/
def State.lookQueue (s : State) (q : Nat) : State :=
  if q < (s.ctl 0xA08).toNat then s.looked [fld (s.ctl 0xA00) 0 52 + 64 * q] else s

/-- Whether the descriptor of queue q keeps to its table (R428). -/
def State.qFits (s : State) (q : Nat) : Bool :=
  let w := s.qword q
  decide (w 0 % 2 ^ 48 % 256 = 0) && decide (w 0 / 2 ^ 48 % 16 ≤ 12) && decide (w 0 / 2 ^ 52 = 0)
    && decide (w 1 / 2 ^ 19 % 2 ^ 13 = 0) && decide (w 1 / 2 ^ 48 = 0) && decide (w 2 < 2 ^ 32) && decide (w 3 < 2 ^ 32)
    && decide (w 4 < 2 ^ 32) && decide (w 5 % 2 ^ 48 % 256 = 0) && decide (w 6 < 2 ^ 16) && decide (w 7 = 0)

/-- The ASID that owns queue q, if any (R428). -/
def State.qOwner (s : State) (q : Nat) : Option (BitVec 16) :=
  if decide (q < (s.ctl 0xA08).toNat) && (s.qword q 1).testBit 16 && s.qFits q then some (BitVec.ofNat 16 (s.qword q 1)) else none

/-- The tile context that a kind 1 target names (R160). -/
def ulTarget (t : Nat) : StreamId := .tile (32 * (t % 2) + t / 2 % 32) (t.testBit 9)

/-- What a target raises (R160): a queue that the ASID does not own, a context that holds no core-task of the ASID. -/
def State.armRaise (s : State) (kind t : Nat) : Option Raise :=
  let asid := (s.stream s.iss.st).csr.asid
  if kind = 0 && s.qOwner (t % 65536) ≠ some asid then some (.service cPERM (BitVec.ofNat 64 (t % 65536)))
  else if kind = 1 then
    let x := s.stream (ulTarget t)
    if 32 ≤ t / 2 % 256 || x.job = none || x.csr.asid ≠ asid then some (.service cPERM (BitVec.ofNat 64 t)) else none
  else none

/-- How often a core-task or group has been rerun (R441). -/
def State.runOf (s : State) (j : Job) : Nat :=
  match s.sched.launches.find? fun l => l.queue = j.queue && l.record.toNat = j.record with
  | some l => Table.get 0 l.reruns (j.unit, j.member)
  | none => 0

/-- Set, replace or clear a counter's trigger (R160). -/
def planEvarm (o : SOp) (s : State) : Plan :=
  let st := s.iss.st
  let a := s.sA o
  let kind := o.sub 0 2
  let t := o.sub 2 25
  let job := if kind = 1 then (s.stream (ulTarget t)).job else none
  s.scalar (.evarm o) o
    { s.base (.evarm o) with
      val := (s.ctrRaise a).orElse fun _ => s.armRaise kind t,
      eff := fun u => (if kind = 0 then u.lookQueue (t % 65536) else u).arm a.toNat
        (if kind = 3 then none
         else some ⟨s.sB o, kind, t, (s.stream st).csr.asid, job, match job with | some j => s.runOf j | none => 0⟩) }

/-- A bundle of `EVARM` alone. -/
def execEvarm (o : SOp) (s : State) : Out := s.single (planEvarm o s)

/-- Whether a wait of the bundle at this program counter has been satisfied (R158). -/
def Stream.satisfied (x : Stream) (n : Nat) (thr pc : Word) : Bool := x.awaits.any fun a => a.ctr = n && a.thr = thr && a.pc = pc && a.hit

/-- The stream with a wait of a bundle listed, or gone. -/
def Stream.listAwait (x : Stream) (n : Nat) (thr pc : Word) : Stream :=
  if x.awaits.any fun a => a.ctr = n && a.thr = thr && a.pc = pc then x else { x with awaits := x.awaits ++ [⟨n, thr, pc, false⟩] }
def Stream.dropAwait (x : Stream) (pc : Word) : Stream := { x with awaits := x.awaits.filter fun a => decide (a.pc ≠ pc) }

/-- Wait until counter A is at least B, unsigned; an acquire at device scope when it completes (R156 to R159). -/
def planEvwait (o : SOp) (s : State) : Plan :=
  let st := s.iss.st
  let a := s.sA o
  let thr := s.sB o
  let b := s.base (.evwait o)
  let bad := s.ctrRaise a
  s.scalar (.evwait o) o
    { b with
      hold := b.hold || (bad.isNone && decide ((s.ctr a.toNat).toNat < thr.toNat)
                && !(s.stream st).satisfied a.toNat thr s.pcNow),
      wait := fun t => t.modStream st fun x => x.listAwait a.toNat thr s.pcNow,
      val := bad,
      eff := fun t => ((t.settle st).acquire st 6).modStream st fun x => x.dropAwait s.pcNow }

/-- A bundle of `EVWAIT` alone. -/
def execEvwait (o : SOp) (s : State) : Out := s.single (planEvwait o s)

end Sys2Proof.Machine
end

