-- ==== Sys2Proof/Machine/Sync.lean ====
section
/-! DEFINITION. The Y slot: barriers, fences, token waits, sync flags, ULI enable (R220 to R229), and `halt` (R150). -/

namespace Sys2Proof.Machine

/-! ## Barriers (R221, R222) -/

/-- The barrier that an id names on a stream (R221): of its casement, of its group. -/
def State.barKey (s : State) (st : StreamId) (id : Nat) : BarKey :=
  match st with
  | .tile c _ => .tile (c / 4) id
  | st => match (s.stream st).job with
    | some j => .shader (match st with | .wave c _ => c | _ => 0) j.queue j.record j.unit id
    | none => .shader 0 0 0 0 id

/-- A barrier. -/
def State.barrier (s : State) (k : BarKey) : Barrier := Table.get Barrier.reset s.barriers k

/-- The waves of a stream's group that have not ended. -/
def State.liveWaves (s : State) (st : StreamId) : List StreamId :=
  let u := fun (x : Stream) => x.job.map fun j => (j.queue, j.record, j.unit)
  (s.streams.filter fun e => e.1.isWave && e.1.core = st.core && u e.2 = u (s.stream st) && decide (e.2.thr.active ≠ 0)).map (·.1)

/-- The bit of a tile context in a mask of its casement. -/
def maskBit (st : StreamId) : Nat := match st with | .tile c x => 2 * (c % 4) + b2n x | _ => 0

/-- A barrier with an arrival put in its instance (R221): a second one of a participant, or one outside a mask, belongs to a
later instance. -/
def Barrier.place (b : Barrier) (a : Arrival) : Barrier :=
  let outside := match b.arrivals with
    | [] => false
    | f :: _ => (b.arrivals.any fun x => x.st = a.st) || (a.st.isTile && !f.n.testBit (maskBit a.st))
  if outside then { b with next := b.next ++ [a] } else { b with arrivals := b.arrivals ++ [a] }

/-- Whether the required arrivals of the current instance are present (R221). -/
def Barrier.full (b : Barrier) (live : List StreamId) : Bool :=
  match b.arrivals with
  | [] => false
  | f :: _ =>
    if f.st.isTile then (List.range 8).all fun k => !f.n.testBit k || b.arrivals.any fun a => maskBit a.st = k
    else if f.n = 0 then live.all fun st => b.arrivals.any fun a => a.st = st
    else decide (f.n ≤ b.arrivals.length)

/-- A barrier after the instances that are complete have ended, at most n: the phase inverts, the arrivals are cleared, and those
of later instances take their places. -/
def Barrier.settle (b : Barrier) (live : List StreamId) : Nat → Barrier
  | 0 => b
  | n + 1 =>
    if b.full live then
      (b.next.foldl Barrier.place { b with phase := !b.phase, arrivals := [], next := [] }).settle live n
    else b

/-- Whether the instance of an arrival is incomplete. -/
def Barrier.open_ (b : Barrier) (ticket : Nat) : Bool := (b.arrivals ++ b.next).any fun a => a.ticket = ticket

/-- The state after a barrier's complete instances end. -/
def State.settleBar (s : State) (k : BarKey) (live : List StreamId) : State :=
  let b := s.barrier k
  { s with barriers := Table.put s.barriers k (b.settle live (b.next.length + 1)) }

/-- The state after a participant arrives at a barrier; `ph` and `bar` say which of its waits take the arrival's number. -/
def State.arriveAs (s : State) (st : StreamId) (id n : Nat) (ph : Bool) : State :=
  let k := s.barKey st id
  let b := s.barrier k
  let t := b.tick
  let s := { s with barriers := Table.put s.barriers k ({ b with tick := t + 1 }.place ⟨st, n, t⟩) }
  let s := s.modStream st fun x =>
    { x with arrived := if ph then Table.put x.arrived id t else x.arrived,
             waiting := x.waiting.map fun w => if w.id = id && w.ticket.isNone then { w with ticket := some t } else w }
  s.settleBar k (s.liveWaves st)

/-- The state after the wave whose threads have all reached a barrier arrives at it (R221). -/
def State.arriveWave (s : State) (st : StreamId) (id : Nat) : State :=
  let x := s.stream st
  match Table.find x.reached id with
  | some r =>
    if x.thr.active ≠ 0 && (x.thr.active &&& ~~~r.lanes) = 0 then
      (s.setStream st { x with reached := Table.drop x.reached id }).arriveAs st id r.n r.ph
    else s
  | none => s

/-- The state after the path or context being issued arrives at a barrier. -/
def State.arrive (s : State) (o : YOp) (ph : Bool) : State :=
  let st := s.iss.st
  let id := o.id.toNat
  let n := fld o.imm 0 11
  let s := if orderRel o.order then (s.settle st).release st o.scope.toNat else s
  if st.isWave then
    let s := s.modStream st fun x =>
      let r := (Table.find x.reached id).getD ⟨0, n, false⟩
      { x with reached := Table.put x.reached id { r with lanes := r.lanes ||| s.iss.lanes, ph := r.ph || ph } }
    s.arriveWave st id
  else s.arriveAs st id n ph

/-- The state after threads of a wave halt: an arrival that waited for them alone is made, and barriers for every wave that has
not ended may complete (R221). -/
def State.lessThreads (s : State) (st : StreamId) : State :=
  if st.isWave then
    let s := ((s.stream st).reached.map (·.1)).foldl (fun s id => s.arriveWave st id) s
    (List.range 16).foldl (fun s id => s.settleBar (s.barKey st id) (s.liveWaves st)) s
  else s

/-- Whether a barrier operation's mask is legal (R221): it holds the issuing context, with scope 3 no other core. -/
def State.maskOk (s : State) (o : YOp) : Bool :=
  let k := maskBit s.iss.st
  !s.iss.st.isTile
    || (bit o.imm k && (o.scope ≠ 3 || (List.range 8).all fun j => !bit o.imm j || j / 2 = k / 2))

/-- The `bar` that the bundle being presented has arrived in. -/
def State.barWait (s : State) (id : Nat) : Option BarWait :=
  (s.stream s.iss.st).waiting.find? fun w => w.pc = s.pcNow && w.id = id

/-- The state after a `bar` bundle's first presentation arrives (R229). -/
def State.barFirst (s : State) (o : YOp) : State :=
  match s.barWait o.id.toNat with
  | none => (s.modStream s.iss.st fun x => { x with waiting := x.waiting ++ [⟨s.pcNow, o.id.toNat, none⟩] }).arrive o false
  | some w => if s.iss.st.isWave && w.ticket.isNone then s.arrive o false else s

/-- Whether the instance that a `bar` bundle has arrived in is incomplete. -/
def State.barOpen (s : State) (id : Nat) : Bool :=
  match s.barWait id with
  | some w => match w.ticket with
    | some t => (s.barrier (s.barKey s.iss.st id)).open_ t
    | none => true
  | none => false

/-- Arrive at a barrier and wait for the instance to complete; with order 011 a release and an acquire (R221, R222). -/
def planBar (o : YOp) (s : State) : Plan :=
  let st := s.iss.st
  let b := s.base (.bar o)
  { b with
    enc := b.enc && s.maskOk o,
    hold := b.hold || (s.barFirst o).barOpen o.id.toNat,
    wait := fun t => t.barFirst o,
    eff := fun t =>
      let t := (t.barFirst o).modStream st fun x => { x with waiting := x.waiting.filter fun w => decide (w.pc ≠ s.pcNow) }
      if orderAcq o.order then (t.settle st).acquire st o.scope.toNat else t }

/-- A bundle of `BAR` alone. -/
def execBar (o : YOp) (s : State) : Out := s.single (planBar o s)

/-- Arrive at a barrier and go on (R222). -/
def planBarphArrive (o : YOp) (s : State) : Plan :=
  let b := s.base (.barphArrive o)
  { b with enc := b.enc && s.maskOk o, eff := fun t => t.arrive o true }

/-- A bundle of `BARPH_ARRIVE` alone. -/
def execBarphArrive (o : YOp) (s : State) : Out := s.single (planBarphArrive o s)

/-- Whether a `barph.wait` has to wait (R222): for the instance of the participant's latest arrival; on a wave, for an arrival
that the path's threads have all reached and the wave has not made. -/
def State.phOpen (s : State) (id : Nat) : Bool :=
  let st := s.iss.st
  let x := s.stream st
  match Table.find x.reached id with
  | some r =>
    if r.ph && (s.iss.lanes &&& ~~~r.lanes) = 0 then true
    else match Table.find x.arrived id with | some t => (s.barrier (s.barKey st id)).open_ t | none => false
  | none => match Table.find x.arrived id with | some t => (s.barrier (s.barKey st id)).open_ t | none => false

/-- Wait for the instance of the latest `barph.arrive` to complete; with order 011 an acquire (R222). -/
def planBarphWait (o : YOp) (s : State) : Plan :=
  let st := s.iss.st
  let b := s.base (.barphWait o)
  { b with
    hold := b.hold || s.phOpen o.id.toNat,
    eff := fun t => if orderAcq o.order then (t.settle st).acquire st o.scope.toNat else t }

/-- A bundle of `BARPH_WAIT` alone. -/
def execBarphWait (o : YOp) (s : State) : Out := s.single (planBarphWait o s)

/-! ## Fences (R223, R485) -/

/-- Order earlier accesses against later ones at a scope; with release, held for the acknowledgements of earlier writes,
and the next bundle for those of its own bundle's (R223, R485). -/
def planFence (o : YOp) (s : State) : Plan :=
  let st := s.iss.st
  let sc := o.scope.toNat
  let b := s.base (.fence o)
  { b with
    hold := b.hold || s.unacked st o.order sc,
    wait := fun t => t.pushed st o.order sc,
    eff := fun t =>
      let t := (t.settle st).pushed st o.order sc
      let t := if orderRel o.order && t.owes st (ackScope o.order sc) then
        t.modStream st fun x => { x with fenced := some (ackScope o.order sc) } else t
      if orderAcq o.order then t.acquire st sc else t }

/-- A bundle of `FENCE` alone. -/
def execFence (o : YOp) (s : State) : Out := s.single (planFence o s)

/-! ## Tokens (R24, R224, R225) -/

/-- Wait while a token is PENDING; DONE is an acquire, ERROR raises what the engine recorded (R224). -/
def planTkwait (o : YOp) (s : State) : Plan :=
  let st := s.iss.st
  let b := s.base (.tkwait o)
  match (s.stream st).token o.id.toNat with
  | .pending => { b with hold := true }
  | .error c v => { b with val := some (.service c v) }
  | .done sc => { b with eff := fun t => (t.settle st).acquire st sc }
  | .idle => b

/-- A bundle of `TKWAIT` alone. -/
def execTkwait (o : YOp) (s : State) : Out := s.single (planTkwait o s)

/-- Pd := the token is DONE or ERROR; DONE is an acquire (R225). -/
def planTktest (o : YOp) (s : State) : Plan :=
  let st := s.iss.st
  let d : Dst := ⟨false, false, BitVec.ofNat 6 (fld o.imm 0 4)⟩
  s.plan (.tktest o) fun t =>
    match (s.stream st).token o.id.toNat with
    | .done sc => ((t.settle st).acquire st sc).putP 1 d t.own (allBits true) 0
    | .error _ _ => t.putP 1 d t.own (allBits true) 0
    | _ => t.putP 1 d t.own (allBits false) 0

/-- A bundle of `TKTEST` alone. -/
def execTktest (o : YOp) (s : State) : Out := s.single (planTktest o s)

/-! ## Sync flags (R28, R226, R227) -/

/-- Wait until a flag of the own core is 1, and clear it unless KEEP; with `.acq` an acquire (R226). -/
def planFlagw (o : YOp) (s : State) : Plan :=
  let st := s.iss.st
  let c := match st with | .tile c _ => c | _ => 0
  let b := s.base (.flagw o)
  { b with
    hold := b.hold || !bit (s.tile c).flags o.id.toNat,
    eff := fun t =>
      let t := if bit o.imm 0 then t else t.modTile c fun k => { k with flags := k.flags &&& ~~~(BitVec.twoPow 32 o.id.toNat) }
      if orderAcq o.order then (t.settle st).acquire st o.scope.toNat else t }

/-- A bundle of `FLAGW` alone. -/
def execFlagw (o : YOp) (s : State) : Out := s.single (planFlagw o s)

/-- Set a flag of a core of the casement at the end of the second tile clock after this one; with `.rel` a release (R227). -/
def planFlagset (o : YOp) (s : State) : Plan :=
  let st := s.iss.st
  let c := match st with | .tile c _ => c | _ => 0
  s.plan (.flagset o) fun t =>
    let t := if orderRel o.order then (t.settle st).release st o.scope.toNat else t
    t.modTile (4 * (c / 4) + fld o.imm 0 2) fun k => { k with flagSets := k.flagSets ++ [(o.id.toNat, t.ltime)] }

/-- A bundle of `FLAGSET` alone. -/
def execFlagset (o : YOp) (s : State) : Out := s.single (planFlagset o s)

/-- The flags of a tile core whose `flagset` issued two tile clocks ago or earlier are set, after any clear of the clock (R28, R227). -/
def execFlagSetArrival (s : State) : Out :=
  match s.subject with
  | .core (.tile c) =>
    let due := fun (e : Nat × BitVec 48) => decide (2 ≤ (s.ltime - e.2).toNat)
    .next (s.modTile c fun k =>
      { k with flags := (k.flagSets.filter due).foldl (fun f e => f ||| BitVec.twoPow 32 e.1) k.flags,
               flagSets := k.flagSets.filter fun e => !due e })
  | _ => .next s

/-- STATUS.UIE := v for later bundles; #ILLOP in a ULI handler (R228), and in a service routine entered from one, where INULI still
stands (R350; DESIGN CHOICE, log entry 44). -/
def planUlien (o : YOp) (s : State) : Plan :=
  let st := s.iss.st
  let b := s.base (.ulien o)
  { b with
    enc := b.enc && !(s.stream st).csr.inuli,
    eff := fun t => t.modStream st fun x => { x with csr := { x.csr with uie := bit o.imm 0 } } }

/-- A bundle of `ULIEN` alone. -/
def execUlien (o : YOp) (s : State) : Out := s.single (planUlien o s)

/-! ## Halt (R150) -/

/-- The state after the unit that a stream belongs to is looked at, for its end (R438). -/
def State.lookEnd (s : State) (st : StreamId) : State :=
  match (s.stream st).job with
  | some j => s.row .groupEnd (.unit ⟨j.queue, j.record, j.unit⟩)
  | none => s

/-- End the stream, on a wave the path's threads; #ILLOP in a handler on tile and shader cores, #PRIV at U on a supervisor
core, where it stops until an interrupt (R150). -/
def planHalt (o : SOp) (s : State) : Plan :=
  let st := s.iss.st
  let c := (s.stream st).csr
  let p := s.base (.halt o)
  s.scalar (.halt o) o
    { p with
      enc := p.enc && (st.isSuper || !(c.insvc || c.inuli)),
      priv := !st.isSuper || c.priv ≠ 0,
      fin := fun t =>
        if st.isWave then
          ((t.modStream st fun x => { x with thr := { x.thr with active := x.thr.active &&& ~~~t.iss.lanes } }).lessThreads st).lookEnd st
        else (t.modStream st fun x => { x with stop := .halted }).lookEnd st }

/-- A bundle of `HALT` alone. -/
def execHalt (o : SOp) (s : State) : Out := s.single (planHalt o s)

end Sys2Proof.Machine
end

