-- ==== Sys2Proof/Machine/Matrix.lean ====
section
/-! DEFINITION. The matrix engine: block windows, promotion, seven-product mode, drain, and the wave form (R73 to R82, R230 to
R254). -/

namespace Sys2Proof

/-- The number of N of an `mmas` by its NSEL (R247). -/
def MOp.sparseN (o : MOp) : Nat := 12 * (fld o.low 0 2 + 1)

/-- The depth of an `mma` (R237): 32 on the 16-bit formats, 128 on the 8-bit ones. -/
def MOp.depth (o : MOp) : Nat := if o.fmtA = 3 ∨ o.fmtA = 4 then 32 else 128

/-- The K that this core holds of an operation: half with Q, 384 of A for `mmas` (R240, R247). -/
def MOp.kHeld (o : MOp) (sparse : Bool) : Nat := if sparse then 384 else if o.q then o.depth / 2 else o.depth

end Sys2Proof

namespace Sys2Proof.Machine

/-! ## Windows and promotion (R75 to R80) -/

/-- The element type of an M format code (R104). -/
def mType (code : BitVec 4) : ElTy :=
  match code.toNat with
  | 1 => .e4m3 | 2 => .e5m2 | 3 => .f16 | 4 => .bf16 | _ => .i8

/-- The value of an operand element after FTZI (R57). -/
def mValue (t : ElTy) (ftzi : Bool) (x : Nat) : FVal :=
  if t.isInt then .fin (decide (ElTy.val t x < 0)) (ElTy.val t x).natAbs 0 else (ElTy.fmt t).decodeIn ftzi x

/-- An integer m × 2^sh truncated toward zero, and whether a nonzero bit is lost. -/
def truncShift (m : Int) (sh : Int) : Int × Bool :=
  if 0 ≤ sh then (m * (2 ^ sh.toNat : Nat), false)
  else (Int.tdiv m (2 ^ (-sh).toNat : Nat), m.natAbs % 2 ^ (-sh).toNat ≠ 0)

/-- The finite nonzero products of a block: signed integers with their exponents. -/
def finites (ps : List FVal) : List (Int × Int) :=
  ps.filterMap fun p => match p with
    | .fin n m e => if m = 0 then none else some ((if n then -(m : Int) else m), e)
    | _ => none

/-- The block window (R75): an integer, the exponent of its bit 0, and whether a product was truncated. -/
def blockWindow (ps : List FVal) : Int × Int × Bool :=
  match finites ps with
  | [] => (0, 0, false)
  | p :: l =>
    let top := fun (x : Int × Int) => (Nat.log2 x.1.natAbs : Int) + x.2
    let u := (l.foldl (fun m x => max m (top x)) (top p)) - 87
    let t := (p :: l).map fun x => truncShift x.1 (x.2 - u)
    ((t.map (·.1)).foldl (· + ·) 0, u, t.any (·.2))

/-- A block's sideband outcome from its products (R79): bits PINF, NINF, NAN. -/
def blockOutcome (ps : List FVal) : BitVec 3 :=
  let pos := ps.any fun p => p = .inf false
  let neg := ps.any fun p => p = .inf true
  if (ps.any FVal.isNan) || (pos && neg) then 4 else if pos then 1 else if neg then 2 else 0

/-- Sideband bits with an outcome ORed in: both infinities set NAN (R79). -/
def joinTags (a b : BitVec 3) : BitVec 3 :=
  let t := a ||| b
  if t &&& 3 = 3 then t ||| 4 else t

/-- A promotion of x × 2^e and an outcome into an element, with MSTAT.WTRUNC where bits are lost (R78, R79, R80). -/
def Lacc.promote (l : Lacc) (x e : Int) (oc : BitVec 3) : Lacc × BitVec 4 :=
  let d := truncShift x (e + 320)
  let sum := l.val.toInt + d.1
  let ovf : BitVec 3 := if 2 ^ 639 ≤ sum then 1 else if sum < -(2 ^ 639) then 2 else 0
  (⟨BitVec.ofInt 640 sum, joinTags (joinTags l.tags oc) ovf⟩, if d.2 then mWTRUNC else 0)

/-- A classical block of an element: the window times its scales, promoted; an invalid scale makes its products NaN (R74, R78): of a
block without products too, which R74 and R79 leave open (DESIGN CHOICE, log entry 42). -/
def Lacc.block (l : Lacc) (ps : List FVal) (scales : Option (Nat × Nat)) : Lacc × BitVec 4 :=
  let (w, u, lost) := blockWindow ps
  let fl := if lost then mWTRUNC else 0
  match scales with
  | none => let (l, f) := l.promote w u (blockOutcome ps); (l, f ||| fl)
  | some (a, b) =>
    if scaleOk a && scaleOk b then
      let (l, f) := l.promote (w * (scaleVal a).1 * (scaleVal b).1) (u + (scaleVal a).2 + (scaleVal b).2) (blockOutcome ps)
      (l, f ||| fl)
    else let (l, f) := l.promote 0 0 4; (l, f ||| mSCLINV)

/-! ## Seven-product mode (R242 to R246) -/

/-- A value times 2^n. -/
def FVal.scale (n : Int) : FVal → FVal
  | .fin a m e => .fin a m (e + n)
  | v => v

/-- A significand rounded to g bits, to nearest even, its exponent without limit (R244). -/
def roundSig (g m : Nat) (e : Int) : Nat × Int :=
  let sh := Nat.log2 m + 1 - g
  let q := m / 2 ^ sh
  (if roundsUp 0 false q (m % 2 ^ sh) sh false 0 then q + 1 else q, e + sh)

/-- A pre-added operand: a + b rounded once to g significand bits (R244). -/
def preAdd (g : Nat) : FVal → FVal → FVal
  | .nan s, _ => .nan s
  | _, .nan s => .nan s
  | .inf a, .inf b => if a = b then .inf a else .nan false
  | .inf a, _ => .inf a
  | _, .inf b => .inf b
  | .fin a m e, .fin b n d =>
    let u := min e d
    let x := unitsOf a m e u + unitsOf b n d u
    let (q, e') := roundSig g x.natAbs u
    .fin (decide (x < 0)) q e'

/-- The seven products: for A and for B, the first sub-block, and the second with whether it is subtracted (R242); sub-blocks by
row half and column half. -/
def sevenA : Nat → (Nat × Nat) × Option ((Nat × Nat) × Bool)
  | 1 => ((0, 0), some ((1, 1), false)) | 2 => ((1, 0), some ((1, 1), false)) | 3 => ((0, 0), none)
  | 4 => ((1, 1), none) | 5 => ((0, 0), some ((0, 1), false)) | 6 => ((1, 0), some ((0, 0), true))
  | _ => ((0, 1), some ((1, 1), true))
def sevenB : Nat → (Nat × Nat) × Option ((Nat × Nat) × Bool)
  | 1 => ((0, 0), some ((1, 1), false)) | 2 => ((0, 0), none) | 3 => ((0, 1), some ((1, 1), true))
  | 4 => ((1, 0), some ((0, 0), true)) | 5 => ((1, 1), none) | 6 => ((0, 0), some ((0, 1), false))
  | _ => ((1, 0), some ((1, 1), false))

/-- The products that an output sub-block adds, and which of them it subtracts (R242). -/
def sevenOut : Nat → Nat → List (Nat × Bool)
  | 0, 0 => [(1, false), (4, false), (5, true), (7, false)]
  | 0, _ => [(3, false), (5, false)]
  | _, 0 => [(2, false), (4, false)]
  | _, _ => [(1, false), (2, true), (3, false), (6, false)]

/-- A pair's operand: each element times 2^(e − m), m the larger scale exponent, and summed; with m (R244). -/
def sevenPair (g : Nat) (val : Nat × Nat → FVal) (ex : Nat × Nat → Int) (p : (Nat × Nat) × Option ((Nat × Nat) × Bool)) :
    FVal × Int :=
  match p.2 with
  | none => (val p.1, ex p.1)
  | some (q, sub) =>
    let m := max (ex p.1) (ex q)
    let y := (val q).scale (ex q - m)
    (preAdd g ((val p.1).scale (ex p.1 - m)) (if sub then y.negate else y), m)

/-- The exponent of a valid scale with a zero fraction. -/
def scaleExp (x : Nat) : Int := (scaleVal x).2 + 23

/-- The outcome with PINF and NINF exchanged (R246). -/
def swapTags (t : BitVec 3) : BitVec 3 := (t &&& 4) ||| ((t &&& 1) <<< 1) ||| ((t >>> 1) &&& 1)

/-- The promotions of an element in seven-product mode (R243, R246): a and b give operand elements, ea and eb the exponents of
the scales of a row and of an N-tile. -/
def Lacc.seven (l : Lacc) (g h : Nat) (a b : Nat → Nat → FVal) (ea eb : Nat → Int) (i j : Nat) : Lacc × BitVec 4 :=
  let r := i % 64
  let c := j % 128
  (sevenOut (i / 64) (j / 128)).foldl (fun (l, f) (n, sub) =>
    let pa := fun k => sevenPair g (fun q => a (64 * q.1 + r) (h * q.2 + k)) (fun q => ea (64 * q.1 + r)) (sevenA n)
    let pb := fun k => sevenPair g (fun q => b (h * q.1 + k) (128 * q.2 + c)) (fun q => eb q.2) (sevenB n)
    let ps := (List.range h).map fun k => (pa k).1.mul (pb k).1
    let (w, u, lost) := blockWindow ps
    let oc := blockOutcome ps
    let (l, f') := l.promote (if sub then -w else w) (u + (pa 0).2 + (pb 0).2) (if sub then swapTags oc else oc)
    (l, f ||| f' ||| (if lost then mWTRUNC else 0))) (l, 0)

/-! ## Regions (R233 to R235, R484) -/

/-- A staging register of the matrix engine. -/
def Stream.stM (x : Stream) (n : Nat) : Word := Table.get 0 x.staging n

/-- The rows of a region. -/
def matRows (base stride n : Nat) : List Nat := (List.range n).map fun i => base + i * stride

/-- The first byte of a range that is not reached: windows and sashes are whole pages (R30), allocations of group store are whole
KiB (R33). -/
def Stream.firstBad (x : Stream) (st : StreamId) (space off n : Nat) (write : Bool) : Option Nat :=
  let g := if space = 3 then 1024 else 65536
  (List.range ((off + n + g - 1) / g - off / g)).findSome? fun j =>
    let o := max off (g * (off / g + j))
    if n = 0 || x.reaches st space o write then none else some o

/-- #BOUNDS of the rows of a typed-buffer region. -/
def Stream.rowsBound (x : Stream) (st : StreamId) (space : Nat) (rows : List Nat) (len : Nat) (write : Bool) : Option Raise :=
  (rows.findSome? fun a => x.firstBad st space a len write).map fun o => .service cBOUNDS (boundsTval space o)

/-- A page put into a list by increasing page, with the lowest address that a region has in it. -/
def insertPage (p lo : Nat) : List (Nat × Nat) → List (Nat × Nat)
  | [] => [(p, lo)]
  | (q, l) :: t => if p < q then (p, lo) :: (q, l) :: t else if p = q then (q, min l lo) :: t else (q, l) :: insertPage p lo t

/-- The pages of the rows of a region in memory, by increasing address, each with the region's lowest address in it (R484). -/
def rowPages (rows : List Nat) (len : Nat) : List (Nat × Nat) :=
  rows.foldl (fun l a =>
    (List.range ((a + len + 4095) / 4096 - a / 4096)).foldl (fun l j =>
      let lo := max a (4096 * (a / 4096 + j)) % 2 ^ 48
      insertPage (lo / 4096) lo l) l) []

/-- The translation of each page of a region, in order, for an agent (R235, R402, R484). -/
def State.judgePages (s : State) (st : StreamId) (a : Ask) : List (Nat × Nat) → Judged
  | [] => .ok []
  | (p, va) :: t =>
    let c := (s.stream st).csr
    match s.look st c.priv c.asid va a false with
    | .miss => .miss va
    | .denied => .raise (.recover cPERM va a.code)
    | .hit x => match s.judgePages st a t with
      | .ok l => .ok (⟨p, va, x⟩ :: l)
      | j => j

/-- The tile fetch unit's accesses, and those of drain and residual (R235, R250, R484). -/
def askFetchUnit : Ask := ⟨true, false, false, some 6, 6⟩
def askDrain : Ask := ⟨false, true, false, some 0, 7⟩
def askResidual : Ask := ⟨true, false, false, some 0, 7⟩

/-- The bytes of a range of memory as a stream's streaming read finds them, and the state after; what reaches no memory reads as zeros and is
noted (R447). -/
def State.readMem (s : State) (st : StreamId) (pages : List Elem) (va n : Nat) : List Byte × State :=
  (linePieces va n).foldl (fun (l, s) p =>
    match xlAt pages p.1 with
    | some x =>
      if !(region x.pa).isMemory then
        (l ++ List.replicate p.2 0, s.note .control st.die 0 4 (s.stream st).csr.asid (BitVec.ofNat 64 x.pa) 0)
      else
      let (v, s) := (s.classed (s.stream st).cls x).readLine st p.1 x true
      (l ++ (List.range p.2).map fun k => bits v (8 * (x.pa % 128 + k)) 8, s)
    | none => (l ++ List.replicate p.2 0, s)) ([], s)

/-- A region with its bytes read, and the state after. -/
def State.readRegion (s : State) (r : MatRegion) : MatRegion × State :=
  if r.space = 2 then
    let (l, s) := r.rows.foldl (fun (l, s) a => let (b, s) := s.readMem r.st r.pages a r.len; (l ++ [b], s)) (([] : List (List Byte)), s)
    ({ r with bytes := l.flatten }, s.poisonCheck r.st r.pages)
  else ({ r with bytes := r.rows.flatMap fun a => s.spaceBytes r.st r.space a r.len }, s)

/-- A byte of memory as a streaming read of a core would find it now: the cluster cache's dirty byte, else the coherent one. -/
def State.seenByte (s : State) (c : CoreId) (pa : Nat) : Byte :=
  let ln := pa / 128
  match s.clLine (clusterOf c) ln with
  | some l => if bit l.dirty (pa % 128) then bits l.data (8 * (pa % 128)) 8 else bits (s.coherent ln) (8 * (pa % 128)) 8
  | none => bits (s.coherent ln) (8 * (pa % 128)) 8

/-- The bytes of a region as they stand now. -/
def State.regionNow (s : State) (r : MatRegion) : List Byte :=
  r.rows.flatMap fun a =>
    if r.space = 2 then (List.range r.len).map fun k => match xlAt r.pages (a + k) with | some x => s.seenByte r.st.core x.pa | none => 0
    else s.spaceBytes r.st r.space a r.len

/-- The bytes that the array read of a region over its occupancy: an element that a store changed is its old or its new value,
free for each element (R32, R235; log entry 6). -/
def State.readOver (s : State) (r : MatRegion) (z k0 : Nat) : List Byte :=
  (((r.bytes.zip (s.regionNow r)).zipIdx).map fun e =>
    if e.1.1 = e.1.2 then e.1.1 else if s.pickBit (k0 + e.2 / z) then e.1.2 else e.1.1)

/-- One region or two halves, each with the length of its rows, their number and its bytes. -/
def State.parts (s : State) (rs : List MatRegion) (z k0 : Nat) : Array (Nat × Nat × Array Byte) :=
  (rs.zipIdx.map fun e => (e.1.len, e.1.rows.length, (s.readOver e.1 z (k0 + 65536 * e.2)).toArray)).toArray

/-- Element access to parts: the half, the row and the element within it give z bytes; bytes that a half of another shape does
not hold are free. -/
def State.operand (s : State) (parts : Array (Nat × Nat × Array Byte)) (z k0 half row k : Nat) : Nat :=
  match parts[half]? with
  | some (len, n, bs) =>
    if z * k + z ≤ len && row < n then leNat ((List.range z).map fun j => bs.getD (len * row + z * k + j) 0)
    else s.pick (k0 + 4096 * row + k) % 2 ^ (8 * z)
  | none => s.pick (k0 + 4096 * row + k) % 2 ^ (8 * z)

/-! ## The end of an occupancy (R231) -/

/-- A scale of a list. -/
def scaleAt (l : List Nat) (k : Nat) : Nat := (l[k]?).getD 0

/-- What an element becomes, and the flags, by `mma` in classical order or P7 (R238, R243). -/
def mmaElem (o : MOp) (K : Nat) (a b : Nat → Nat → FVal) (sc : Option MatScales) (p7 : Bool) (i j : Nat) (l : Lacc) :
    Lacc × BitVec 4 :=
  let l := if o.acc then l else ⟨0, 0⟩
  if p7 then
    let ex := fun (f : MatScales → List Nat) (k : Nat) => match sc with | some m => scaleExp (scaleAt (f m) k) | none => 0
    l.seven (if K = 32 then 16 else 8) (K / 2) a b (ex (·.a)) (ex (·.b)) i j
  else
    l.block ((List.range K).map fun k => (a i k).mul (b k j)) (sc.map fun m => (scaleAt m.a i, scaleAt m.b (j / 128)))

/-- What an element becomes by `mmas` (R247, R248): b gives stored values, index their rows within their group of 48. A K block that holds
no stored value and whose scale is invalid still sets NAN and SCLINV (DESIGN CHOICE, log entry 42). -/
def mmasElem (o : MOp) (n : Nat) (a b : Nat → Nat → FVal) (index : Nat → Nat → Nat) (sc : Option MatScales) (i j : Nat)
    (l : Lacc) : Lacc × BitVec 4 :=
  let l := if o.acc then l else ⟨0, 0⟩
  let rows := (List.range (8 * n)).filterMap fun r =>
    let x := index r j % 64
    if x < 48 then some (48 * (r / n) + x, r) else none
  (List.range 3).foldl (fun (l, f) blk =>
    let ps := (rows.filter fun e => e.1 / 128 = blk).map fun e => (a i e.1).mul (b e.2 j)
    let (l, f') := l.block ps (sc.map fun m => (scaleAt m.a (128 * blk + i), scaleAt m.b (2 * blk + j / 128)))
    (l, f ||| f')) (l, 0)

/-- The elements of a tile, by number. -/
def TileCore.elems (t : TileCore) (tile : Nat) : Array Lacc :=
  t.kbuf.foldl (fun (a : Array Lacc) e => if e.1 / 32768 = tile then a.setIfInBounds (e.1 % 32768) e.2 else a)
    (Array.replicate 32768 ⟨0, 0⟩)

/-- A core's tile with every element changed, with the flags raised. -/
def TileCore.modTile (t : TileCore) (tile : Nat) (f : Nat → Nat → Lacc → Lacc × BitVec 4) : TileCore × BitVec 4 :=
  let old := t.elems tile
  let new := (List.range 32768).map fun k => (32768 * tile + k, f (k / 256) (k % 256) (old.getD k ⟨0, 0⟩))
  ({ t with kbuf := (t.kbuf.filter fun e => decide (e.1 / 32768 ≠ tile))
              ++ (new.map fun e => (e.1, e.2.1)).filter fun e => decide (e.2 ≠ ⟨0, 0⟩) },
    new.foldl (fun m e => m ||| e.2.2) 0)

/-- A core's tile after what the end of an occupancy makes of its elements, with the flags raised. -/
def State.arrayTile (s : State) (t : TileCore) (w : ArrayWork) : TileCore × BitVec 4 :=
  match w with
  | .products o a b index sc p7 ftza ftzb =>
    let ta := mType o.fmtA
    let tb := mType o.fmtB
    let pa := s.parts a ta.bytes 0
    let pb := s.parts b tb.bytes (2 ^ 20)
    let ea := fun (h i k : Nat) => mValue ta ftza (s.operand pa ta.bytes 0 h i k)
    let eb := fun (h k j : Nat) => mValue tb ftzb (s.operand pb tb.bytes (2 ^ 20) h k j)
    match index with
    | some ix =>
      let pi := s.parts [ix] 1 (2 ^ 21)
      t.modTile w.tile fun i j l =>
        mmasElem o o.sparseN (fun i k => ea 0 i k) (fun r j => eb 0 r j) (fun r j => s.operand pi 1 (2 ^ 21) 0 r j) sc i j l
    | none =>
      let h := if a.length = 2 then o.depth / 2 else o.depth
      t.modTile w.tile fun i j l =>
        mmaElem o o.depth (fun i k => ea (k / h) i (k % h)) (fun k j => eb (k / h) (k % h) j) sc p7 i j l
  | .zero n => t.modTile n fun _ _ _ => (⟨0, 0⟩, 0)
  | .tags n image =>
    let im := image.toArray
    t.modTile n fun i j l => (⟨l.val, joinTags ((im.getD (256 * i + j) 0).setWidth 3) 0⟩, 0)
  | .drain _ => (t, 0)

/-- The state after the M operation of a tile core's array completes: its tile is promoted, its flags are delivered when they are due by
its context's time, the array is free (R71, R231, R354). -/
def State.endArray (s : State) (c : Nat) : State :=
  match (s.tile c).array with
  | none => s
  | some a =>
    let (t, f) := s.arrayTile (s.tile c) a.work
    let asid := (s.stream a.st).csr.asid
    let pages := match a.work with | .drain _ => [] | w => (List.range 40).map fun k => (2, 40 * w.tile + k)
    let s := s.modTile c fun _ => { t with array := none, writers := pages.foldl (fun w p => Table.put w p asid) t.writers }
    let r : Result := { due := a.due, seq := 0, slot := .m, dest := .none, mask := 0, val := 0, latch := false, nw := false, ff := 0,
                        mf := a.mf ||| f }
    (if a.mf ||| f = 0 then s else s.modStream a.st fun x => { x with pend := x.pend ++ [r] }).picked

/-- The occupancy of a tile core's array ends: promotions are complete, flags are delivered, the array frees (R230, R231). -/
def execArrayOccupancyEnd (s : State) : Out :=
  match s.subject with
  | .core (.tile c) =>
    match (s.tile c).array with
    | some a => .next (if a.left = 0 then s.endArray c else s)
    | none => .next s
  | _ => .next s

/-- Whether what a commit buffer holds is due: the issuing context's time is 128 past the issue (R251). -/
def State.commitDue (s : State) (d : Drain) : Bool := decide (d.due ≤ (s.stream d.st).time)

/-- The state after a drain unit's writes are performed: to a typed buffer, or as relaxed stores (R251, R357). -/
def State.commitDrain (s : State) (d : Drain) : State :=
  let s := d.writes.foldl (fun s w =>
    if d.space = 2 then match xlAt d.pages w.1 with
      | some x => (s.clearReservations d.st 0).writeElem d.st x d.size w.2 false
      | none => s
    else s.putSpace d.st d.space w.1 (leBytes d.size w.2)) s
  if 32 < (s.stream d.st).wbuf.length then s.wbDrain d.st fun _ => true else s

/-- The results of a tile core's drain unit that are due are committed, in the order of issue (R251, R357). -/
def execDrainCommit (s : State) : Out :=
  match s.subject with
  | .core (.tile c) =>
    let due := (s.tile c).commits.filter s.commitDue
    let s := s.modTile c fun t => { t with commits := t.commits.filter fun d => !s.commitDue d }
    .next (due.foldl (fun s d => s.commitDrain d) s)
  | _ => .next s

/-! ## `mma` and `mmas` (R236 to R241, R247) -/

/-- The A region that an operation reads in its own core, without its bytes (R233, R234). -/
def Stream.regionA (x : Stream) (st : StreamId) (o : MOp) (sparse : Bool) : MatRegion :=
  let len := o.kHeld sparse * (mType o.fmtA).bytes
  let stride := fld (x.stM 1) 0 22
  ⟨st, 1, matRows (fld (x.stM 0) 0 22) (if stride = 0 then len else stride) 128, len, [], []⟩

/-- The B region in its own core, with the pages of memory given, without its bytes (R234, R247). -/
def Stream.regionB (x : Stream) (st : StreamId) (o : MOp) (sparse : Bool) (pages : List Elem) : MatRegion :=
  let len := 256 * (mType o.fmtB).bytes
  let stride := fld (x.stM 3) 0 32
  let rows := if sparse then 8 * o.sparseN else o.kHeld false
  ⟨st, if bit (x.stM 2) 63 then 2 else 0, matRows (fld (x.stM 2) 0 48) (if stride = 0 then len else stride) rows, len, pages, []⟩

/-- The index bytes of `mmas` (R247). -/
def Stream.regionIndex (x : Stream) (st : StreamId) (o : MOp) : MatRegion :=
  ⟨st, 0, matRows (fld (x.stM 8) 0 23) 256 (8 * o.sparseN), 256, [], []⟩

/-- The scales that an operation reads at issue (R236). -/
def Stream.scales (x : Stream) (o : MOp) (blocks : Nat) : Option MatScales :=
  if !o.scl then none
  else some
    ⟨(List.range (128 * blocks)).map fun k => elemAt (x.readV (o.asel + BitVec.ofNat 6 (4 * (k / 128) + k % 128 / 32))) 0 4 (k % 32),
     (List.range (2 * blocks)).map fun k => elemAt (x.readV o.bsel) 0 4 (2 * o.bbyte.toNat + k)⟩

/-- Whether P7 is in effect (R239). -/
def sevens (o : MOp) (sc : Option MatScales) : Bool :=
  o.p7 && o.fmtA ≠ 5
    && (match sc with | some m => (m.a ++ m.b).all fun k => scaleOk k && k % 2 ^ 23 = 0 | none => true)

/-- #ILLOP of reserved bits in the staging registers that `mma` and `mmas` use (R233). -/
def Stream.badStaging (x : Stream) (sparse : Bool) : Bool :=
  fld (x.stM 0) 22 42 ≠ 0 || fld (x.stM 1) 22 42 ≠ 0 || fld (x.stM 2) 48 15 ≠ 0 || fld (x.stM 3) 32 32 ≠ 0
    || (!bit (x.stM 2) 63 && fld (x.stM 2) 23 25 ≠ 0) || (sparse && fld (x.stM 8) 23 41 ≠ 0)

/-- #ILLOP in the M slot. -/
def illopM : Raise := .service cILLOP 3

/-- #ALIGN of a value that is no multiple of n. -/
def alignOf (v n : Nat) : Option Raise := if v % n = 0 then none else some (.service cALIGN (BitVec.ofNat 64 v))

/-- The bytes of an accumulator tile (R29). -/
def Stream.tileBound (x : Stream) (st : StreamId) (tile : Nat) : Option Raise := x.rowsBound st 2 [0x280000 * tile] 0x280000 true

/-- What the addresses of `mma` or `mmas` raise before translation (R233, R234, R247): alignments, then the bounds of A, B, index bytes,
tile. R484 orders pages alone; this order is the model's (DESIGN CHOICE, log entry 46). -/
def Stream.matRaise (x : Stream) (st : StreamId) (o : MOp) (sparse : Bool) : Option Raise :=
  let unit_ := if bit (x.stM 2) 63 then 128 else 32
  let a := x.regionA st o sparse
  let b := x.regionB st o sparse []
  let ix := x.regionIndex st o
  [alignOf (fld (x.stM 0) 0 22) 32, alignOf (fld (x.stM 1) 0 22) 32, alignOf (fld (x.stM 2) 0 48) unit_,
    alignOf (fld (x.stM 3) 0 32) unit_, if sparse then alignOf (fld (x.stM 8) 0 23) 32 else none,
    x.rowsBound st 1 a.rows a.len false, if b.space = 0 then x.rowsBound st 0 b.rows b.len false else none,
    if sparse then x.rowsBound st 0 ix.rows ix.len false else none, x.tileBound st o.tile.toNat].findSome? id

/-- The translations of the B region (R235). -/
def State.judgeB (s : State) (st : StreamId) (o : MOp) (sparse : Bool) : Judged :=
  let b := (s.stream st).regionB st o sparse []
  if b.space = 2 then s.judgePages st askFetchUnit (rowPages b.rows b.len) else .ok []

/-- Whether a core's array is occupied (R230). -/
def State.arrayBusy (s : State) (st : StreamId) : Bool := (s.tile st.tileOf).array.isSome

/-- The array clocks of an `mma` or `mmas` (R230): of `mmas` 2N, as R230 and R248 give them, where the row of R107 has 32 for both (DEDUCED, log
entry 54). -/
def productClocks (o : MOp) (sparse p7 : Bool) : Nat := if sparse then 2 * o.sparseN else if p7 then 28 else 32

/-- The context's time at which the flags of an M operation of n array clocks are delivered: in handler mode when it ends (R71, R354,
R358). -/
def State.flagsDue (s : State) (st : StreamId) (n : Nat) : Nat :=
  let x := s.stream st
  if x.inHandler then x.time else x.time + n

/-- The array clocks by which an operation on a tile is lengthened, by its wait for tags that the drain unit still loads (R252): no more
than the unit still works, a number that the manual does not give (log entry 6). -/
def State.tagWait (s : State) (st : StreamId) (tile : Nat) : Nat :=
  let t := s.tile st.tileOf
  if t.commits.any fun d => d.tags = some tile then s.pick 0 % (t.drain + 1) else 0

/-- The occupancy of the array that an M operation of n clocks begins; its first clock is that of its issue. -/
def State.occupancy (s : State) (st : StreamId) (n : Nat) (w : ArrayWork) (mf : BitVec 4) (feeds : List Feed) : Occupancy :=
  let wait := s.tagWait st w.tile
  ⟨st, n, n + wait - 1, w, mf, s.flagsDue st (n + wait), feeds⟩

/-- The plan of `mma` or `mmas`: it holds for the array, and with Q for the four cores (R230, R241). -/
def State.planProducts (s : State) (i : Instr) (o : MOp) (sparse : Bool) : Plan :=
  let st := s.iss.st
  let x := s.stream st
  let c := st.tileOf
  let coop := o.q && !sparse
  let j := s.judgeB st o sparse
  let sc := x.scales o (if sparse then 3 else 1)
  let p7 := !sparse && sevens o sc
  let b := s.base i
  { b with
    enc := b.enc && (!coop || x.csr.qown),
    hold := b.hold || s.arrayBusy st || (coop && (s.tile c).coop.isNone),
    val := if x.badStaging sparse then some illopM else none,
    addr := match x.matRaise st o sparse with | some r => .raise r | none => s.reach askFetchUnit j,
    eff := fun t =>
      let (a, b, feeds, t) := match (if coop then (s.tile c).coop else none) with
        | some (a, b, feeds) => (a, b, feeds, t)
        | none =>
          let (a, t) := t.readRegion (x.regionA st o sparse)
          let (b, t) := t.readRegion (x.regionB st o sparse j.elems)
          ([a], [b], [], t)
      let (ix, t) := if sparse then let (r, t) := t.readRegion (x.regionIndex st o); (some r, t) else (none, t)
      let w := ArrayWork.products o a b ix sc p7 (modeFtzi s.mode (mType o.fmtA)) (modeFtzi s.mode (mType o.fmtB))
      t.modTile c fun k =>
        { k with array := some (s.occupancy st (productClocks o sparse p7) w (if o.p7 && !p7 then mP7D else 0) feeds), coop := none } }

/-- Multiply A and B into a tile, in classical order or as seven products (R237 to R246). -/
def planMma (o : MOp) (s : State) : Plan :=
  s.planProducts (.mma o) o false

/-- A bundle of `MMA` alone. -/
def execMma (o : MOp) (s : State) : Out := s.single (planMma o s)

/-- As `mma` with a sparse B of N rows stored of 48 (R247, R248). -/
def planMmas (o : MOp) (s : State) : Plan :=
  s.planProducts (.mmas o) o true

/-- A bundle of `MMAS` alone. -/
def execMmas (o : MOp) (s : State) : Out := s.single (planMmas o s)

/-- Clear a tile at the end of its occupancy (R249). -/
def planMzero (o : MOp) (s : State) : Plan :=
  let st := s.iss.st
  let b := s.base (.mzero o)
  { b with
    hold := b.hold || s.arrayBusy st,
    addr := match (s.stream st).tileBound st o.tile.toNat with | some r => .raise r | none => .ok,
    eff := fun t => t.modTile st.tileOf fun k => { k with array := some (s.occupancy st 8 (.zero o.tile.toNat) 0 []) } }

/-- A bundle of `MZERO` alone. -/
def execMzero (o : MOp) (s : State) : Out := s.single (planMzero o s)

/-! ## `mdrain` and `mlacc` (R250 to R252) -/

/-- The sum of two values as an exact one, where one is not finite. -/
def FVal.plus : FVal → FVal → FVal
  | .nan s, .nan t => .nan (s || t)
  | .nan s, _ => .nan s
  | _, .nan t => .nan t
  | .inf a, .inf b => if a = b then .inf a else .nan true
  | .inf a, _ => .inf a
  | _, b => b

/-- A value rounded into the drain's type. -/
def drainRound (t : ElTy) (eff : Eff) (k : Nat) (v : FVal) : FRes :=
  if t.isInt then ElTy.ofFVal t eff k v else (ElTy.fmt t).convert eff k v

/-- A drained element (R82, R251): the tile's element l, the residual r, whether dropout keeps it, κ × α as significand and
exponent where both are valid, whether one of them is a signalling NaN, which sets NV as such a residual does (R55). -/
def drainElem (t : ElTy) (eff : Eff) (k : Nat) (l : Lacc) (r : FVal) (keep : Bool) (scale : Option (Nat × Int)) (snan : Bool) : FRes :=
  if !keep then drainRound t eff k r
  else match scale with
  | none => (drainRound t eff k (.nan (snan || r.isSnan))).mflag mSCLINV
  | some (m, e) =>
    if l.tags ≠ 0 then drainRound t eff k (FVal.plus (if bit l.tags 2 then .nan true else .inf (bit l.tags 1)) r)
    else match r with
      | .fin n rm re =>
        let u := min re (e - 320)
        let x := l.val.toInt * m
        let sum := unitsOf n rm re u + x * (2 ^ (e - 320 - u).toNat : Nat)
        let ex := Exact.ofInt (zeroSign eff.rm n (decide (x < 0))) sum u
        if t.isInt then ElTy.ofExact t eff k ex else (ElTy.fmt t).round eff k ex
      | r => drainRound t eff k r

/-- The destination type of a drain (R233). -/
def drainType (x : Stream) : Option ElTy :=
  if [0, 4, 8, 9, 10, 11, 12].contains (fld (x.stM 4) 48 4) then ElTy.ofCode (BitVec.ofNat 4 (fld (x.stM 4) 48 4)) else none

/-- The residual type (R233). -/
def residualType (x : Stream) : ElTy := (ElTy.ofCode (BitVec.ofNat 4 (fld (x.stM 5) 48 4))).getD .f32

/-- #ILLOP of the staging registers that a drain uses (R233, R250). -/
def Stream.badDrain (x : Stream) : Bool :=
  let rs := fld (x.stM 5) 52 2
  fld (x.stM 4) 54 10 ≠ 0 || fld (x.stM 5) 54 10 ≠ 0 || (drainType x).isNone || fld (x.stM 4) 52 2 = 3 || rs = 3
    || (rs ≠ 0 && !(decide (8 ≤ fld (x.stM 5) 48 4) && decide (fld (x.stM 5) 48 4 ≤ 12)))

/-- The rows of a drain's destination, and of its residual. -/
def Stream.drainRows (x : Stream) (o : MOp) (z : Nat) : List Nat :=
  matRows (fld (x.stM 4) 0 48) (if fld o.low 0 13 = 0 then 256 * z else 16 * fld o.low 0 13) 128
def Stream.residualRows (x : Stream) (o : MOp) (z : Nat) : List Nat :=
  if fld (x.stM 5) 52 2 = 0 then [] else matRows (fld (x.stM 5) 0 48) (if fld o.low 13 13 = 0 then 256 * z else 16 * fld o.low 13 13) 128

/-- What the addresses of a drain raise before translation (R250). -/
def Stream.drainRaise (x : Stream) (st : StreamId) (o : MOp) (z rz : Nat) : Option Raise :=
  let ds := fld (x.stM 4) 52 2
  let rs := fld (x.stM 5) 52 2
  [alignOf (fld (x.stM 4) 0 48) z, if rs = 0 then none else alignOf (fld (x.stM 5) 0 48) rz,
    if ds = 2 then none else x.rowsBound st ds (x.drainRows o z) (256 * z) true,
    if rs = 1 then x.rowsBound st 1 (x.residualRows o rz) (256 * rz) false else none].findSome? id

/-- The translations of a drain's destination, then of its residual (R250, R484); the number says how many pages are the
destination's. -/
def State.judgeDrain (s : State) (st : StreamId) (o : MOp) (z rz : Nat) : Judged × Judged :=
  let x := s.stream st
  (if fld (x.stM 4) 52 2 = 2 then s.judgePages st askDrain (rowPages (x.drainRows o z) (256 * z)) else .ok [],
   if fld (x.stM 5) 52 2 = 2 then s.judgePages st askResidual (rowPages (x.residualRows o rz) (256 * rz)) else .ok [])

/-- Whether an M operation that uses the drain unit holds, for the array or for the unit (R230, R251). -/
def State.drainHold (s : State) (st : StreamId) : Bool := s.arrayBusy st || decide ((s.tile st.tileOf).drain ≠ 0)

/-- The tile whose tags the array's work loads. -/
def ArrayWork.loads : ArrayWork → Option Nat
  | .tags t _ => some t
  | _ => none

/-- The state with the array and the drain unit started (R230). -/
def State.startDrain (s : State) (a : Occupancy) (space size : Nat) (writes : List (Nat × Nat)) (pages : List Elem) : State :=
  let due := (s.stream a.st).time + 128
  s.modTile a.st.tileOf fun k =>
    { k with array := some a, drain := 135, commits := k.commits ++ [⟨a.st, due, space, size, writes, pages, a.work.loads⟩] }

/-- The numbers from 0 to n - 1 in a free order (log entry 6). -/
def State.freeOrder (s : State) (n : Nat) : List Nat :=
  (((List.range n).map fun k => (s.pick k, k)).mergeSort fun a b => decide (a.1 < b.1 ∨ (a.1 = b.1 ∧ a.2 ≤ b.2))).map (·.2)

/-- The byte at an address that a drain has written so far, by writes of z bytes each. -/
def wroteByte (done : List (Nat × FRes)) (z p : Nat) : Option Byte :=
  (done.find? fun w => decide (w.1 ≤ p ∧ p < w.1 + z)).map fun w => BitVec.ofNat 8 (w.2.bits / 2 ^ (8 * (p - w.1)))

/-- A residual of rz bytes from an address among destinations of z bytes in the same space: each byte that the drain has written by then
is the old or the new one, free for each element (R32, R251; log entry 6). -/
def State.nearBits (s : State) (done : List (Nat × FRes)) (z k p : Nat) (old : List Byte) : Nat :=
  leNat (old.zipIdx.map fun b => if s.pickBit k then (wroteByte done z (p + b.2)).getD b.1 else b.1)

/-- What a drain writes, by the number of its element: in increasing i and j, so that of two destinations that overlap the last one stays
(R5, R251). -/
def inRows (l : List (Nat × Nat × FRes)) : List (Nat × FRes) := (l.mergeSort fun a b => decide (a.1 ≤ b.1)).map (·.2)

/-- Round a tile into a destination, with a residual, α and dropout (R250, R251). A signalling α or κ sets NV (R55). -/
def planMdrain (o : MOp) (s : State) : Plan :=
  let st := s.iss.st
  let x := s.stream st
  let t := (drainType x).getD .f32
  let rt := residualType x
  let z := t.bytes
  let rz := rt.bytes
  let (jd, jr) := s.judgeDrain st o z rz
  let b := s.base (.mdrain o)
  let eff := effOf s.mode t 0 false (s.rand fun _ => 0)
  let ds := fld (x.stM 4) 52 2
  let rs := fld (x.stM 5) 52 2
  let dest := x.drainRows o z
  let res := x.residualRows o rz
  let drop := bit o.low 26
  let alpha := if o.scl then elemAt (x.readV o.asel) 0 4 (o.bsel.toNat % 32) else 0x3F800000
  let kappa := if drop then fld (x.stM 6) 32 32 else 0x3F800000
  let scale := if scaleOk alpha && scaleOk kappa then
    some ((scaleVal alpha).1 * (scaleVal kappa).1, (scaleVal alpha).2 + (scaleVal kappa).2) else none
  let keep := fun (i j : Nat) =>
    !drop || decide (fld (x.stM 6) 0 32 ≤ philox (fld x.csr.seed 0 32) (fld x.csr.seed 32 32 ^^^ fld (x.stM 7) 0 32)
      ((128 * fld (x.stM 7) 32 16 + i) % 2 ^ 32) ((256 * fld (x.stM 7) 48 16 + j) % 2 ^ 32) o.tile.toNat 0)
  { b with
    hold := b.hold || s.drainHold st,
    val := if x.badDrain then some illopM else none,
    addr := match x.drainRaise st o z rz with
      | some r => .raise r
      | none => match s.reach askDrain jd with
        | .ok => s.reach askResidual jr
        | r => r,
    sr := eff.isSr,
    eff := fun u =>
      let u := if ds = 2 ∨ rs = 2 then u.settle st else u
      let (rr, u) := u.readRegion ⟨st, rs, res, 256 * rz, jr.elems, []⟩
      let bs := rr.bytes.toArray
      let tile := (s.tile st.tileOf).elems o.tile.toNat
      let at_ := fun (rows : List Nat) (z k : Nat) => (rows[k / 256]?).getD 0 + z * (k % 256)
      let old := fun (k : Nat) => (List.range rz).map fun n => bs.getD (rz * k + n) 0
      let elem := fun (k x : Nat) =>
        (at_ dest z k, drainElem t eff k (tile.getD k ⟨0, 0⟩)
          (if rs = 0 then FVal.fin false 0 0 else (ElTy.fmt rt).decodeIn (modeFtzi s.mode rt) x) (keep (k / 256) (k % 256)) scale
          ((fmt32.decode alpha).isSnan || (fmt32.decode kappa).isSnan))
      let order := s.freeOrder 32768
      let l := if rs ≠ 0 ∧ ds = rs then
                 inRows (order.reverse.zip (order.foldl (fun l k => elem k (s.nearBits l z k (at_ res rz k) (old k)) :: l) []))
               else (List.range 32768).map fun k => elem k (leNat (old k))
      let fl := orFlags (l.map (·.2))
      let u := (u.startDrain (s.occupancy st 8 (.drain o.tile.toNat) 0 []) ds z (l.map fun e => (e.1, e.2.bits)) jd.elems).putFlags 128
        fl.1 fl.2
      if eff.isSr then u.stepSr else u }

/-- A bundle of `MDRAIN` alone. -/
def execMdrain (o : MOp) (s : State) : Out := s.single (planMdrain o s)

/-- The plan of `mlacc`: its image lies in a typed buffer (R252). -/
def State.planLacc (s : State) (i : Instr) (load : Bool) (eff : Nat → Nat → State → State) : Plan :=
  let st := s.iss.st
  let x := s.stream st
  let b := s.base i
  let space := fld (x.stM 4) 52 2
  let base := fld (x.stM 4) 0 48
  { b with
    hold := b.hold || s.drainHold st,
    val := if fld (x.stM 4) 54 10 ≠ 0 || 2 ≤ space then some illopM else none,
    addr := match (alignOf base 32).orElse fun _ => x.rowsBound st space [base] 32768 !load with
      | some r => .raise r
      | none => .ok,
    eff := eff space base }

/-- Save the sideband tags of a tile as 32 768 bytes (R252). -/
def planMlaccSave (o : MOp) (s : State) : Plan :=
  s.planLacc (.mlaccSave o) false fun space base t =>
    let k := (s.tile s.iss.st.tileOf).elems o.tile.toNat
    t.startDrain (s.occupancy s.iss.st 8 (.drain o.tile.toNat) 0 []) space 1
      ((List.range 32768).map fun n => (base + n, (k.getD n ⟨0, 0⟩).tags.toNat)) []

/-- A bundle of `MLACC_SAVE` alone. -/
def execMlaccSave (o : MOp) (s : State) : Out := s.single (planMlaccSave o s)

/-- Load the sideband tags of a tile from 32 768 bytes (R252). -/
def planMlaccLoad (o : MOp) (s : State) : Plan :=
  s.planLacc (.mlaccLoad o) true fun space base t =>
    t.startDrain (s.occupancy s.iss.st 8 (.tags o.tile.toNat (t.spaceBytes s.iss.st space base 32768)) 0 []) space 1 [] []

/-- A bundle of `MLACC_LOAD` alone. -/
def execMlaccLoad (o : MOp) (s : State) : Out := s.single (planMlaccLoad o s)

/-! ## `wvmac` (R253, R254) -/

/-- An element of a result of `wvmac`: the window of the products, added exactly to c and rounded once (R82, R254). -/
def wvElem (eff : Eff) (k : Nat) (ps : List FVal) (c : FVal) : FRes :=
  let (w, u, lost) := blockWindow ps
  let oc := blockOutcome ps
  let sum : FVal := if bit oc 2 then .nan true else if oc ≠ 0 then .inf (bit oc 1) else .fin (decide (w < 0)) w.natAbs u
  let r := (ElTy.fmt .f32).add eff k c sum
  if lost then r.mflag mWTRUNC else r

/-- The wave form: 32 × 8 results, one row for each lane (R253, R254). -/
def planWvmac (o : MOp) (s : State) : Plan :=
  let st := s.iss.st
  let x := s.stream st
  let ta := mType o.fmtA
  let tb := mType o.fmtB
  let z := ta.bytes
  let eff := effOf s.mode .f32 0 false (s.rand fun k => k)
  let reg := fun (n : Nat) => x.readV (BitVec.ofNat 6 n)
  let a := fun (r k : Nat) => mValue ta (modeFtzi s.mode ta) (fld (reg (o.va + k * z / 4)) (32 * r + 8 * (k * z % 4)) (8 * z))
  let b := fun (k n : Nat) => mValue tb (modeFtzi s.mode tb) (fld (reg (o.vb + n / 4)) (8 * (32 * (n % 4) + k * z)) (8 * z))
  let c := fun (r n : Nat) =>
    if o.acc then (ElTy.fmt .f32).decodeIn (modeFtzi s.mode .f32) (elemAt (reg (o.vc + n)) 0 4 r) else FVal.fin false 0 0
  let el := fun (r n : Nat) => wvElem eff r ((List.range (32 / z)).map fun k => (a r k).mul (b k n)) (c r n)
  { s.base (.wvmac o) with
    val := s.convCheck,
    sr := eff.isSr,
    eff := fun t =>
      let t := (List.range 8).foldl (fun t n =>
        let l := (List.range 32).map fun r => el r n
        let fl := orFlags l
        t.putV 16 ⟨false, false, BitVec.ofNat 6 (o.vc + n)⟩ (vmap 0 4 32 (fun _ => true) fun r => (el r n).bits) fl.1 fl.2) t
      if eff.isSr then t.stepSr else t }

/-- A bundle of `WVMAC` alone. -/
def execWvmac (o : MOp) (s : State) : Out := s.single (planWvmac o s)

end Sys2Proof.Machine
end

