-- ==== Sys2Proof/Machine/Engine.lean ====
section
/-! DEFINITION. What every engine shares: command queues and tokens, the checks of an engine and its errors, how an engine reads
and writes memory and typed buffers (R258 to R272). -/

namespace Sys2Proof.Machine

/-! ## Issue (R258 to R262, R268) -/

/-- The commands in an engine queue of a stream, the one at its head first. -/
def Stream.commands (x : Stream) (q : Nat) : List Command := Table.get [] x.queues q

/-- Register n of the staging that a command read at issue. -/
def Command.sg (c : Command) (n : Nat) : Word := (c.staging[n]?).getD 0

/-- The address in bits [47:0] of a staging register. -/
def Command.addr (c : Command) (n : Nat) : Nat := fld (c.sg n) 0 48

/-- The staging registers of an engine as a stream holds them (R153). -/
def Stream.stagingOf (x : Stream) (eng : Nat) : List Word := (List.range 16).map fun k => Table.get 0 x.staging (16 * eng + k)

/-- Whether a list of staging registers has no bit set outside the bits [n - 1 : 0] that each defines (R268). -/
def fitStaging (l : List Word) (w : List (Nat × Nat)) : Bool := w.all fun e => decide (((l[e.1]?).getD 0).toNat < 2 ^ e.2)

/-- The state after a command enters its queue with the staging that its bundle found (R153, R263), its token PENDING (R260, R262). -/
def State.enqueue (s : State) (i : Instr) (o : COp) (staging : List Word) (rel : Bool) (regs : List VWord) (info : List Nat) : State :=
  let st := s.iss.st
  let x := s.stream st
  let q := o.queue.toNat
  let c : Command :=
    { op := i, o := o, token := o.token.toNat, cls := if o.qos = 0xF then x.cls else o.qos.toNat, ulic := o.ulic, rel := rel,
      staging := staging, regs := regs, lanes := s.iss.lanes, priv := x.csr.priv, asid := x.csr.asid, seq := x.seq, attached := x.attached,
      started := false, shown := false, due := 0, moved := none, fail := none, info := info, members := [] }
  (s.modStream st fun x =>
    { x with queues := Table.put x.queues q (x.commands q ++ [c]), tokens := Table.put x.tokens c.token .pending }).row
    .engineCommandStart (.streamNum st q)

/-- The plan of a command (R260 to R263, R268): it waits for room in its queue; an invalid staging value and a PENDING token trap
at the C slot; then it enters its queue. -/
def State.planC (s : State) (i : Instr) (o : COp) (eng : Nat) (rel : Bool) (fits : List Word → Bool) (regs : List VWord)
    (info : List Nat) : Plan :=
  let x := s.stream s.iss.st
  let b := s.base i
  { b with
    hold := b.hold || decide (32 ≤ (x.commands o.queue.toNat).length),
    val := if !fits (x.stagingOf eng) then some (.service cILLOP 6)
           else if x.token o.token.toNat = .pending then some (.service cTOKEN (o.token.setWidth 64)) else none,
    eff := fun t => t.enqueue i o (x.stagingOf eng) rel regs info }

/-! ## Ends (R262, R264, R266, R267, R269) -/

/-- Whether a `qfence` command joins a queue (R266). -/
def Command.joins (c : Command) (own q : Nat) : Bool :=
  match c.op with
  | .qfence o => q = own || bit o.low q
  | _ => false

/-- A command in queue own after a command of queue q, issued at seq, has completed with a scope: a `qfence` behind it notes the
widest (R266). -/
def Command.noted (c : Command) (own q seq scope : Nat) : Command :=
  if c.joins own q && decide (seq < c.seq) then { c with info := [max scope ((c.info.head?).getD 0)] } else c

/-- The state after the command at the head of a queue ends: its token is DONE with a completion scope, or ERROR; a completion ULI
is pending; the next command of the queue may start (R260, R264, R267); of a saved context the save area takes it (R366). -/
def State.endCommand (s : State) (st : StreamId) (q : Nat) (t : Token) : State :=
  match (s.stream st).commands q with
  | [] => s
  | c :: rest =>
    let scope := match t with | .done k => k | _ => 0
    let s := s.modStream st fun x =>
      { x with
        queues := (Table.put x.queues q rest).map fun e => (e.1, e.2.map fun d => d.noted e.1 q c.seq scope),
        widest := Table.put x.widest q (max scope (Table.get 0 x.widest q)),
        tokens := Table.put x.tokens c.token t,
        tokenUlis := if c.ulic then (x.tokenUlis.filter fun e => decide (e.1 ≠ c.token)) ++ [(c.token, t.code)] else x.tokenUlis }
    let s := if rest.isEmpty then s else s.row .engineCommandStart (.streamNum st q)
    let s := if (s.stream st).stop = .saved then s.row .preemptionSave (.stream st) else s
    s.lookEnd st

/-- The state with the command at the head of a queue changed. -/
def State.modCommand (s : State) (st : StreamId) (q : Nat) (f : Command → Command) : State :=
  s.modStream st fun x =>
    match x.commands q with
    | [] => x
    | c :: rest => { x with queues := Table.put x.queues q (f c :: rest) }

/-- Why an engine does not complete a command: an engine error, a recoverable fault before an access, or something to wait for. -/
inductive Halt where
  | error (code : BitVec 8) (tval : Word)
  | fault (code : BitVec 8) (va access : Nat)
  | wait
  deriving DecidableEq, Repr

/-- What a stage of an engine's work gives, with the state after it. -/
abbrev Eng (α : Type) := Except Halt α × State

/-- A stage of work followed by another. -/
def Eng.andThen {α β : Type} (r : Eng α) (f : α → State → Eng β) : Eng β :=
  match r with
  | (.ok a, s) => f a s
  | (.error h, s) => (.error h, s)

/-- The state after an engine's recoverable fault (R270, R361): the queue stalls, and the record waits to be posted. -/
def State.engineFault (s : State) (st : StreamId) (q : Nat) (code : BitVec 8) (va access : Nat) : State :=
  let asid := match (s.stream st).commands q with | c :: _ => c.asid | [] => (s.stream st).csr.asid
  let s := s.forget st asid va
  let s := s.modStream st fun x => { x with faultQ := Table.put x.faultQ q ⟨code, va, access, 6, 0, 0, none⟩ }
  let r : FaultRecord := ⟨⟨st, some q⟩, code, va, asid, access, s.ltime⟩
  (s.modMem fun m => { m with waitingFaults := m.waitingFaults ++ [r] }).row .faultRecordPost (.die (st.die == 1))

/-- The first failure of a list of checks. -/
def firstHalt (l : List (Option Halt)) : Option Halt := l.findSome? id

/-- A stage that only checks. -/
def State.require (s : State) (h : Option Halt) : Eng Unit :=
  match h with
  | some e => (.error e, s)
  | none => (.ok (), s)

/-- #ALIGN of a value that is no multiple of n (R269). -/
def alignHalt (v n : Nat) : Option Halt := if v % n = 0 then none else some (.error cALIGN (BitVec.ofNat 64 v))

/-! ## Pages (R263, R268, R270, R402) -/

/-- What an engine asks of a page but its own bit: R for a source, W for a destination. -/
def askEngine (wr : Bool) : Ask := ⟨!wr, wr, false, none, if wr then 5 else 4⟩

/-- The translation of an address for an engine with an EMASK bit, counted from 52: a missing translation or R, W or U is a
recoverable fault, a clear per-engine bit is an error, and so is a page of a peer that no path reaches (R269) or of a host whose port is
in reset (R455). It waits for a walk of the page that is in flight, and is among those who share its outcome (R410). -/
def State.enginePage (s : State) (st : StreamId) (c : Command) (em : Nat) (wr : Bool) (va : Nat) : Eng Xl :=
  if s.walking st c.asid va then
    (.error .wait, s.joinWalk st c.asid va (.engine st c.o.queue.toNat va (askEngine wr).code)) else
  match s.xlate st c.priv c.asid va (askEngine wr) with
  | (.ok x, s) =>
    if !x.em.testBit em then (.error (.error cPERM (BitVec.ofNat 64 va)), s)
    else match s.cutOff x.pa with
      | some m => (.error (.error cECC (BitVec.ofNat 64 (2 ^ 63 + m))), s)
      | none => if s.hostAway x.pa then (.error (.error cECC (BitVec.ofNat 64 x.pa)), s) else (.ok x, s)
  | (.error code, s) => (.error (.fault code va (askEngine wr).code), s)

/-- The translations of a list of pages, each with an address in it. -/
def State.enginePages (s : State) (st : StreamId) (c : Command) (em : Nat) (wr : Bool) : List (Nat × Nat) → Eng (List Elem)
  | [] => (.ok [], s)
  | (p, va) :: t =>
    (s.enginePage st c em wr va).andThen fun x s =>
      (s.enginePages st c em wr t).andThen fun l s => (.ok (⟨p, va, x⟩ :: l), s)

/-! ## Endpoints (R272) -/

/-- An endpoint of a command: its space code, the addresses of its rows, their bytes. -/
structure Endpoint where
  space : Nat
  rows : List Nat
  len : Nat
  deriving DecidableEq, Repr

/-- Rows at a stride. -/
def strided (base stride n : Nat) : List Nat := (List.range n).map fun i => base + i * stride

/-- A stream with the sashes that it had attached when a command issued (R314). -/
def Stream.withAttached (x : Stream) (c : Command) : Stream := { x with attached := x.attached ++ c.attached }

/-- The bounds of the rows of a typed-buffer or group-store endpoint (R30, R33); a write into a sash attached RO is #PERM (R269). -/
def Stream.rowsHalt (x : Stream) (st : StreamId) (e : Endpoint) (wr : Bool) : Option Halt :=
  (e.rows.findSome? fun a => x.firstBad st (e.space - 1) a e.len wr).map fun o =>
    .error (if wr && x.reaches st (e.space - 1) o false then cPERM else cBOUNDS) (boundsTval (e.space - 1) o)

/-- The checks of an endpoint before any byte moves, with the translations of its pages (R268). -/
def State.reachEnd (s : State) (st : StreamId) (c : Command) (em : Nat) (e : Endpoint) (wr : Bool) : Eng (List Elem) :=
  if e.len = 0 then (.ok [], s)
  else if e.space = 0 then s.enginePages st c em wr (rowPages e.rows e.len)
  else match ((s.stream st).withAttached c).rowsHalt st e wr with
    | some h => (.error h, s)
    | none => (.ok [], s)

/-- The alignment rule of typed-buffer and group-store endpoints (R272). -/
def typedAlign (space : Nat) (l : List Nat) : Option Halt :=
  if 1 ≤ space ∧ space ≤ 4 then l.findSome? fun v => alignHalt v 32 else none

/-! ## Data (R263, R264) -/

/-- A line as an engine's read at device scope finds it, with the state after. What the stream has written and not passed on may
have arrived by then or not (R263; log entry 6). -/
def State.engineLine (s : State) (st : StreamId) (cls : Nat) (x : Xl) : VWord × State :=
  let ln := x.pa / 128
  if !(region x.pa).isMemory then (0, s.note .control st.die 0 4 (s.stream st).csr.asid (BitVec.ofNat 64 x.pa) 0)
  else
    let s := s.classed cls x
    let s := if s.pickBit ln && !st.isSuper then (s.wbDrain st fun w => decide (w.line = ln)).clWriteback (clusterOf st.core) ln else s
    if s.atHomeOnly x then let s := s.toHome ln; (s.mm.atHome ln, s)
    else let s := s.agentRead st.die ln; (s.agentData st.die ln, s)

/-- The state after an engine writes bytes of a line at device scope; bytes of CXL, host and peer memory go on to their home. -/
def State.enginePut (s : State) (st : StreamId) (cls : Nat) (x : Xl) (mask : PWord) (v : VWord) : State :=
  let ln := x.pa / 128
  if !(region x.pa).isMemory then s.note .control st.die 0 4 (s.stream st).csr.asid (BitVec.ofNat 64 x.pa) 0
  else
    let s := s.classed cls x
    if s.atHomeOnly x then ((s.toHome ln).putHome ln mask v).killAt placeHome ln
    else
      let s := s.agentWrite st.die ln mask v x.sync
      if region x.pa = .lpddr then s else s.agentClean st.die ln

/-- The bytes of a range of an endpoint's space, and the state after; poison in memory is an engine error (R269). -/
def State.engineRead (s : State) (st : StreamId) (c : Command) (space : Nat) (pages : List Elem) (va n : Nat) : Eng (List Byte) :=
  if space ≠ 0 then (.ok (s.spaceBytes st (space - 1) va n), s)
  else (linePieces va n).foldl (fun r p =>
    Eng.andThen r fun l s =>
      match xlAt pages p.1 with
      | some x =>
        if s.lost x.pa then (.error (.error cECC (BitVec.ofNat 64 x.pa)), s)
        else
          let (v, s) := s.engineLine st c.cls x
          (.ok (l ++ (List.range p.2).map fun k => bits v (8 * (x.pa % 128 + k)) 8), s)
      | none => (.ok (l ++ List.replicate p.2 0), s)) (.ok [], s)

/-- The bytes of a list of rows. -/
def State.engineRows (s : State) (st : StreamId) (c : Command) (pages : List Elem) (e : Endpoint) : Eng (List (List Byte)) :=
  e.rows.foldl (fun r a =>
    Eng.andThen r fun l s => (s.engineRead st c e.space pages a e.len).andThen fun b s => (.ok (l ++ [b]), s)) (.ok [], s)

/-- Rows laid at their addresses: a byte that two rows name holds the byte of one of them, a free choice (R264, R274, R278). -/
def State.lay (s : State) (rows : List (Nat × List Byte)) : Table Nat Byte :=
  ((rows.flatMap fun r => r.2.zipIdx.map fun b => (r.1 + b.2, b.1)).zipIdx).foldl
    (fun t e => if (Table.find t e.1.1).isSome && s.pickBit (2 ^ 40 + e.2) then t else Table.put t e.1.1 e.1.2) []

/-- The state after an engine writes bytes at addresses of a space. -/
def State.putLaid (s : State) (st : StreamId) (c : Command) (space : Nat) (pages : List Elem) (t : Table Nat Byte) : State :=
  if space ≠ 0 then t.foldl (fun s e => s.putSpace st (space - 1) e.1 [e.2]) s
  else
    let u := t.filterMap fun e => (xlAt pages e.1).map fun x => (x, e.2)
    ((u.map fun e => e.1.pa / 128).eraseDups).foldl (fun s ln =>
      let l := u.filter fun e => decide (e.1.pa / 128 = ln)
      let mask : PWord := l.foldl (fun m e => m ||| BitVec.twoPow 128 (e.1.pa % 128)) 0
      let v : VWord := l.foldl (fun v e => v ||| BitVec.ofNat 1024 (e.2.toNat <<< (8 * (e.1.pa % 128)))) 0
      match l.head? with
      | some e => s.enginePut st c.cls e.1 mask v
      | none => s) s

/-- The state after an engine writes rows of a space. -/
def State.engineWrite (s : State) (st : StreamId) (c : Command) (space : Nat) (pages : List Elem) (rows : List (Nat × List Byte)) :
    State :=
  s.putLaid st c space pages (s.lay rows)

/-- The state in which pieces of the rows that an engine writes are visible before the others, free which (R32; log entry 20). -/
def State.engineShow (s : State) (st : StreamId) (c : Command) (space : Nat) (pages : List Elem) (rows : List (Nat × List Byte)) :
    State :=
  s.putLaid st c space pages ((s.lay rows).filter fun e => s.pickBit (2 ^ 41 + e.1))

/-- How a command writes rows, to one or several contexts: pieces of them become visible first, and all of them, with a completion scope, at
a later time that is free (R32, R264). -/
def State.writeRows (s : State) (st : StreamId) (c : Command) (to_ : List StreamId) (scope space : Nat) (pages : List Elem)
    (rows : List (Nat × List Byte)) : Eng Nat :=
  if c.shown then (.ok scope, to_.foldl (fun s t => s.engineWrite t c space pages rows) s)
  else (.error .wait, (to_.foldl (fun s t => s.engineShow t c space pages rows) s).modCommand st c.o.queue.toNat fun d =>
    { d with shown := true, due := s.clocks + 1 + s.pick 1 })

/-- The completion scope of writes through translations: device, system where a page is not in LPDDR-6 (R265, R272). -/
def scopeOf (pages : List Elem) : Nat := if pages.all fun e => region e.x.pa = .lpddr then 6 else 7

/-! ## Status words (R265, R268) -/

/-- The check of a status word, none at address 0: its alignment, its page. -/
def State.reachStatus (s : State) (st : StreamId) (c : Command) (em va : Nat) : Eng (Option Xl) :=
  if va = 0 then (.ok none, s)
  else if va % 8 ≠ 0 then (.error (.error cALIGN (BitVec.ofNat 64 va)), s)
  else (s.enginePage st c em true va).andThen fun x s => (.ok (some x), s)

/-- The state after a status word is written. -/
def State.putStatus (s : State) (st : StreamId) (c : Command) (x : Option Xl) (v : Nat) : State :=
  match x with
  | some x => let (m, w) := inLine x.pa 8 v; s.enginePut st c.cls x m w
  | none => s

/-- A completion scope widened by a status word (R265). -/
def widen (scope : Nat) (x : Option Xl) : Nat :=
  match x with
  | some x => max scope (if region x.pa = .lpddr then 6 else 7)
  | none => scope

/-- A number of n bytes that an engine reads from memory. -/
def State.engineNum (s : State) (st : StreamId) (c : Command) (em va n : Nat) : Eng Nat :=
  (s.enginePages st c em false (rowPages [va] n)).andThen fun ps s =>
    (s.engineRead st c 0 ps va n).andThen fun b s => (.ok (leNat b), s)

end Sys2Proof.Machine
end

