-- ==== Sys2Proof/Machine/Ray.lean ====
section
/-! DEFINITION. The exact tests and the traversal of `rtrace` (R291 to R295). Coordinates are integers in units of 2^-149, of
which every finite `f32` is a whole number. -/

namespace Sys2Proof.Machine

/-! ## Extended coordinates -/

/-- A coordinate: −Inf, a finite value in units of 2^-149, +Inf. -/
inductive Coord where
  | low
  | fin (x : Int)
  | high
  deriving DecidableEq, Repr

/-- The coordinate of an `f32`; none of a NaN. -/
def coord (x : Nat) : Option Coord :=
  match (ElTy.fmt .f32).decode x with
  | .nan _ => none
  | .inf neg => some (if neg then .low else .high)
  | .fin neg m e => some (.fin (unitsOf neg m e (-149)))

/-- A finite coordinate. -/
def finite (x : Nat) : Option Int := match coord x with | some (.fin x) => some x | _ => none

/-- A number of 4 bytes at an offset of a list of bytes. -/
def word4 (l : List Byte) (off : Nat) : Nat := leNat ((l.drop off).take 4)

/-- Three numbers that are all there. -/
def three {α : Type} : Option α → Option α → Option α → Option (List α)
  | some a, some b, some c => some [a, b, c]
  | _, _, _ => none

/-- A valid ray (R294): its origin and direction, its tmin and tmax. -/
structure Ray where
  o : List Int
  d : List Int
  tmin : Coord
  tmax : Coord
  deriving DecidableEq, Repr

/-- The ray that eight `f32` describe; none of one that hits nothing: a NaN, an infinite origin or direction, no direction. -/
def rayOf (r : Nat → Nat) : Option Ray :=
  match three (finite (r 0)) (finite (r 1)) (finite (r 2)), three (finite (r 3)) (finite (r 4)) (finite (r 5)), coord (r 6), coord (r 7) with
  | some o, some d, some a, some b => if d = [0, 0, 0] then none else some ⟨o, d, a, b⟩
  | _, _, _, _ => none

/-! ## The box test (R294) -/

/-- Bounds on t, as fractions with positive denominators: those below it, those above it; and whether it can be met at all. -/
structure Span where
  lo : List (Int × Int)
  hi : List (Int × Int)
  ok : Bool
  deriving DecidableEq, Repr

/-- The bounds of tmin and tmax. -/
def Ray.span (r : Ray) : Span :=
  { lo := match r.tmin with | .fin x => [(x, 2 ^ 149)] | _ => [],
    hi := match r.tmax with | .fin x => [(x, 2 ^ 149)] | _ => [],
    ok := r.tmin ≠ .high && r.tmax ≠ .low }

/-- The bounds of one axis with its slab, an origin and a direction. -/
def Span.axis (s : Span) (a b : Coord) (o d : Int) : Span :=
  let bad := match a, b with
    | .high, _ => true
    | _, .low => true
    | .fin x, .fin y => decide (y < x)
    | _, _ => false
  let above := match a with | .fin x => some (x - o) | _ => none
  let below := match b with | .fin x => some (x - o) | _ => none
  if d = 0 then
    { s with ok := s.ok && !bad && (match above with | some x => decide (x ≤ 0) | none => true)
                 && (match below with | some x => decide (0 ≤ x) | none => true) }
  else
    let f := fun (x : Option Int) => (x.map fun x => if 0 < d then (x, d) else (-x, -d)).toList
    if 0 < d then { lo := s.lo ++ f above, hi := s.hi ++ f below, ok := s.ok && !bad }
    else { lo := s.lo ++ f below, hi := s.hi ++ f above, ok := s.ok && !bad }

/-- Whether some real t keeps every bound. -/
def Span.meets (s : Span) : Bool := s.ok && s.lo.all fun a => s.hi.all fun b => decide (a.1 * b.2 ≤ b.1 * a.2)

/-- Whether a ray meets the closed box of six `f32`, minimum then maximum. -/
def Ray.meetsBox (r : Ray) (box : List Byte) : Bool :=
  match (List.range 6).mapM fun k => coord (word4 box (4 * k)) with
  | some [ax, ay, az, bx, by_, bz] =>
    match r.o, r.d with
    | [ox, oy, oz], [dx, dy, dz] => (((r.span.axis ax bx ox dx).axis ay by_ oy dy).axis az bz oz dz).meets
    | _, _ => false
  | _ => false

/-! ## The triangle test (R294) -/

/-- Vector operations on three coordinates. -/
def vsub (a b : List Int) : List Int := List.zipWith (· - ·) a b
def vdot (a b : List Int) : Int := (List.zipWith (· * ·) a b).foldl (· + ·) 0
def vcross : List Int → List Int → List Int
  | [a, b, c], [x, y, z] => [b * z - c * y, c * x - a * z, a * y - b * x]
  | _, _ => [0, 0, 0]

/-- A hit: t, u and v over one positive denominator, the triangle's id. -/
structure RayHit where
  t : Int
  u : Int
  v : Int
  den : Int
  id : Nat
  deriving DecidableEq, Repr

/-- Whether t lies in [tmin, tmax]. -/
def Ray.inRange (r : Ray) (t den : Int) : Bool :=
  (match r.tmin with | .low => true | .fin x => decide (x * den ≤ t * 2 ^ 149) | .high => false)
    && (match r.tmax with | .high => true | .fin x => decide (t * 2 ^ 149 ≤ x * den) | .low => false)

/-- The hit of a ray on a leaf's triangle, if it hits. -/
def Ray.hits (r : Ray) (leaf : List Byte) : Option RayHit :=
  match (List.range 9).mapM fun k => finite (word4 leaf (4 * k)) with
  | some v =>
    let v0 := v.take 3
    let e1 := vsub ((v.drop 3).take 3) v0
    let e2 := vsub (v.drop 6) v0
    let p := vcross r.d e2
    let det := vdot e1 p
    let w := vsub r.o v0
    let q := vcross w e1
    let sg := if det < 0 then (-1 : Int) else 1
    let h : RayHit := ⟨sg * vdot e2 q, sg * vdot w p, sg * vdot r.d q, sg * det, word4 leaf 36⟩
    if det ≠ 0 && decide (0 ≤ h.u ∧ 0 ≤ h.v ∧ h.u + h.v ≤ h.den) && r.inRange h.t h.den then some h else none
  | none => none

/-- The better of two hits: the least exact t, with ties the lower id. -/
def RayHit.better (a b : RayHit) : RayHit :=
  let x := a.t * b.den
  let y := b.t * a.den
  if x < y || (x == y && a.id ≤ b.id) then a else b

/-! ## Traversal (R292 to R294) -/

/-- A unit of 64 bytes as the ray engine reads it. -/
def State.readUnit (s : State) (st : StreamId) (c : Command) (va : Nat) : Eng (List Byte) :=
  (s.enginePages st c 5 false (rowPages [va] 64)).andThen fun ps s => s.engineRead st c 0 ps va 64

/-- The best hit below a reference, depth first, child 0 before child 1; the fuel is one more than the nodes that a path may still
take; a path of more than 64 is #BOUNDS of the node's address. -/
def State.rayWalk (s : State) (st : StreamId) (c : Command) (r : Ray) (first : Bool) : Nat → Nat → Option RayHit → Eng (Option RayHit)
  | 0, _, best => (.ok best, s)
  | n + 1, ref, best =>
    if ref = 0xFFFFFFFF || (first && best.isSome) then (.ok best, s)
    else if ref.testBit 31 then
      (s.readUnit st c (c.addr 1 + 64 * (ref % 2 ^ 31))).andThen fun leaf s =>
        (.ok (match r.hits leaf, best with | some h, some b => some (b.better h) | some h, none => some h | none, b => b), s)
    else
      let at_ := c.addr 0 + 64 * ref
      if n = 0 then (.error (.error cBOUNDS (BitVec.ofNat 64 (at_ % 2 ^ 48))), s)
      else (s.readUnit st c at_).andThen fun node s =>
        let go := fun (k : Nat) (best : Option RayHit) (s : State) =>
          let child := word4 node (48 + 4 * k)
          if child ≠ 0xFFFFFFFF && r.meetsBox (node.drop (24 * k)) then s.rayWalk st c r first n child best else (.ok best, s)
        (go 0 best s).andThen fun best s => go 1 best s

/-! ## Results (R295) -/

/-- A fraction rounded to nearest even to `f32`. -/
def fracF32 (x den : Int) : Nat :=
  if x = 0 then 0 else ((ElTy.fmt .f32).round effRne 0 (quotient (decide (x < 0)) x.natAbs den.natAbs 0)).bits

/-- The four values of a lane's hit record. -/
def hitRecord (h : Option RayHit) : List Nat :=
  match h with
  | some h => [fracF32 h.t h.den, h.id, fracF32 h.u h.den, fracF32 h.v h.den]
  | none => [0x7F800000, 0xFFFFFFFF, 0, 0]

/-- The hits of the lanes of a command, in order. -/
def State.rays (s : State) (st : StreamId) (c : Command) : List Nat → Eng (List (Nat × Option RayHit))
  | [] => (.ok [], s)
  | l :: t =>
    let hit := match rayOf fun k => elemAt ((c.regs[k]?).getD 0) 0 4 l with
      | some r => s.rayWalk st c r (bit (c.sg 2) 32) 65 (fld (c.sg 2) 0 32) none
      | none => (.ok none, s)
    hit.andThen fun h s => (s.rays st c t).andThen fun r s => (.ok ((l, h) :: r), s)

/-- The state after the hit records of traced lanes are written. -/
def State.putHits (s : State) (st : StreamId) (vh : Nat) (hits : List (Nat × Option RayHit)) : State :=
  let mask := laneBytes (ofLanes (hits.map (·.1)))
  s.modStream st fun x =>
    (List.range 4).foldl (fun x i =>
      let w := hits.foldl (fun (w : VWrite) h => w.add (4 * h.1) 4 (((hitRecord h.2)[i]?).getD 0)) VWrite.empty
      x.writeV (BitVec.ofNat 6 (vh + i)) mask w.val) x

end Sys2Proof.Machine
end

