-- ==== Sys2Proof/Machine/Tier.lean ====
section
/-! DEFINITION. Pins, the object table, frame pools, tier moves and the expert residency table (R279 to R282, R411 to R420). -/

namespace Sys2Proof.Machine

/-! ## The object table (R412, R413) -/

/-- Word k of entry i of the object table, and the state with it written. -/
def State.otAddr (s : State) (i k : Nat) : Nat := fld (s.ctl 0x900) 0 52 + 32 * i + 8 * k
def State.otWord (s : State) (i k : Nat) : Nat := s.phys (s.otAddr i k) 8
def State.putOt (s : State) (i k v : Nat) : State := s.putPhys (s.otAddr i k) 8 v

/-- A number with its bits [lo + n - 1 : lo] replaced. -/
def putBits (x lo n v : Nat) : Nat := x - x / 2 ^ lo % 2 ^ n * 2 ^ lo + v % 2 ^ n * 2 ^ lo

/-- The pages, first address and owner of an object. -/
def State.objPages (s : State) (i : Nat) : Nat := s.otWord i 1 % 65536
def State.objVa (s : State) (i : Nat) : Nat := s.otWord i 0 % 2 ^ 48
def State.objAsid (s : State) (i : Nat) : BitVec 16 := BitVec.ofNat 16 (s.otWord i 0 / 2 ^ 48)

/-- The state after the object table has been read (R344, R413, R447). -/
def State.lookObjects (s : State) : State :=
  s.looked (((List.range (s.ctl 0x908).toNat).map fun i => s.otAddr i 0 / 128 * 128).eraseDups)

/-- The objects of an address space that meet a range. -/
def State.objectsIn (s : State) (asid : BitVec 16) (va len : Nat) : List Nat :=
  (List.range (s.ctl 0x908).toNat).filter fun i =>
    let n := s.objPages i
    let a := s.objVa i
    n ≠ 0 && s.objAsid i = asid && decide (a < va + len ∧ va < a + 2 ^ 21 * n)

/-- Whether a range is exactly a union of whole objects (R413). -/
def State.wholeObjects (s : State) (asid : BitVec 16) (va len : Nat) : Bool :=
  let l := s.objectsIn asid va len
  l ≠ [] && (l.all fun i => decide (va ≤ s.objVa i ∧ s.objVa i + 2 ^ 21 * s.objPages i ≤ va + len))
    && decide ((l.map fun i => 2 ^ 21 * s.objPages i).foldl (· + ·) 0 = len)

/-- The entries of the expert residency table whose object is i (R420). -/
def State.experts (s : State) (i : Nat) : List Nat :=
  let w := s.ctl 0x910
  if !bit w 0 then []
  else (List.range 1024).filter fun e =>
    let x := s.phys (fld w 15 37 * 2 ^ 15 + 32 * e) 8
    x.testBit 44 && x / 2 ^ 32 % 4096 = i

/-- The state after the tier engine sets an object's STATE and home, and the hardware fields of the experts that it holds (R420). -/
def State.setObject (s : State) (i st home mod_ dev : Nat) : State :=
  let w := s.otWord i 1
  let s := s.putOt i 1 (putBits (putBits (putBits (putBits w 16 3 st) 20 2 home) 22 4 mod_) 26 4 dev)
  let code := if st ≠ 0 then st else if home = 0 then 0 else 3
  (s.experts i).foldl (fun s e =>
    let a := fld (s.ctl 0x910) 15 37 * 2 ^ 15 + 32 * e
    s.putPhys a 8 (putBits (s.phys a 8) 17 13 (home + 4 * mod_ + 64 * dev + 1024 * code))) s

/-! ## Pins (R280, R281, R396, R417) -/

/-- The object that holds a virtual address of an address space, if any. -/
def State.objectAt (s : State) (asid : BitVec 16) (va : Nat) : Option Nat := (s.objectsIn asid va 1).head?

/-- The state with the pins of the object that holds an address counted up or down. -/
def State.countPin (s : State) (asid : BitVec 16) (va : Nat) (up : Bool) : State :=
  match s.objectAt asid va with
  | some i =>
    let w := s.otWord i 2
    s.putOt i 2 (putBits w 0 32 (if up then w % 2 ^ 32 + 1 else w % 2 ^ 32 - 1))
  | none => s

/-- The die whose level a pin of a line names: the issuing die's L2, which also stands for the levels of a peer's line (R375, R417;
DEDUCED, log entry 40), or the line's home. -/
def pinDie (st : StreamId) (level ln : Nat) : Bool := if level = 0 || peerLine ln then st.die == 1 else lineDie ln == 1

/-- The state after a line is fetched into a level of a die (R280). -/
def State.fetchAt (s : State) (level : Nat) (die : Bool) (ln : Nat) : State :=
  if level = 2 && !peerLine ln then s.homeUse ln false else s.agentRead (b2n die) ln

/-- The state after a line is fetched into a level (R280). -/
def State.fetchLevel (s : State) (st : StreamId) (level ln : Nat) : State := s.fetchAt level (pinDie st level ln) ln

/-- Whether a class may pin a line at a level (R280, R390, R396): its pinned lines of the line's base die stay within its quota, and the
pinned ways of the line's directory set, which lines of the base-die system cache do not take, within 8. -/
def State.pinRoom (s : State) (cls level ln : Nat) : Bool :=
  let mine := ((s.mm.pins.filter fun p => p.cls = cls && lineDie p.line = lineDie ln).map (·.line)).eraseDups
  let ways := ((s.mm.pins.filter fun p => decide (p.level < 2) && decide (dirSet p.line = dirSet ln)).map (·.line)).eraseDups
  (mine.contains ln || decide (mine.length < s.quota cls)) && (decide (level = 2) || ways.contains ln || decide (ways.length < 8))

/-- The state in which the system cache of a die gives up an unpinned line of a class whose lines and pins exceed its quota (R396). -/
def State.l3Trim (s : State) (d c : Nat) : State :=
  if s.mm.held d c ≤ s.quota c then s
  else s.modMem fun m =>
    { m with l3 := m.l3.eraseP fun e => e.cls = c && lineDie e.line = d && !(m.pins.any fun p => p.line = e.line) }

/-- One line of a `pfb`: the state after, and whether the quota kept it from being pinned. A line that no cache holds (UC, DEV, a
range) is left. -/
def State.pfbLine (s : State) (st : StreamId) (c : Command) (level : Nat) (pin : Bool) (va : Nat) (x : Xl) : Bool × State :=
  let ln := x.pa / 128
  if s.atHomeOnly x || !(region x.pa).isMemory then (false, s)
  else
    let s := (s.classed c.cls x).fetchLevel st level ln
    if !pin then (false, s)
    else if s.pinRoom s.mm.cls level ln then
      let asid := c.asid
      let p : Pin := ⟨level, pinDie st level ln, ln, asid, s.mm.cls⟩
      (false, ((s.modMem fun m => { m with pins := m.pins ++ [p] }).l3Trim (lineDie ln) s.mm.cls).countPin asid va true)
    else (true, s)

/-- One line of a `drop`: one pin of the address space goes; at the home's levels, wherever a move has left it (R281, R417). -/
def State.dropLine (s : State) (st : StreamId) (asid : BitVec 16) (level va : Nat) (x : Xl) : State :=
  let ln := x.pa / 128
  let hit := fun (p : Pin) => p.level = level && (level ≠ 0 || p.die = pinDie st level ln) && p.line = ln && p.asid = asid
  if s.mm.pins.any hit then (s.modMem fun m => { m with pins := m.pins.eraseP hit }).countPin asid va false else s

/-- The lines of a range, by their first address, with the translations of its pages. -/
def rangeVas (va len : Nat) (pages : List Elem) : List (Nat × Xl) :=
  (if len = 0 then [] else List.range ((va + len + 127) / 128 - va / 128)).filterMap fun k =>
    (xlAt pages (128 * (va / 128 + k))).map fun x => (128 * (va / 128 + k), x)

/-! ## Frame pools (R412) -/

/-- The free frames of a pool, and the state after n are taken from the top of its stack. -/
def State.poolCount (s : State) (p : Nat) : Nat := fld (s.ctl (0x1008 + 0x10 * p)) 0 32
def State.poolAddr (s : State) (p k : Nat) : Nat := fld (s.ctl (0x1000 + 0x10 * p)) 0 52 + 8 * k
def State.setPool (s : State) (p n : Nat) : State :=
  s.setCtl (0x1008 + 0x10 * p) (BitVec.ofNat 64 (putBits (s.ctl (0x1008 + 0x10 * p)).toNat 0 32 n))
def State.takeFrames (s : State) (p n : Nat) : List Nat × State :=
  let k := s.poolCount p
  let l := (List.range n).map fun j => s.phys (s.poolAddr p (k - 1 - j)) 8 % 2 ^ 52
  (l, (s.looked (linesIn (s.poolAddr p (k - n)) (8 * n) |>.map (128 * ·))).setPool p (k - n))

/-- The state after a frame returns to its pool; of a full one it is left out, and noted. A frame of a peer is the peer's. -/
def State.returnFrame (s : State) (pa : Nat) : State :=
  let back := fun (p : Nat) =>
    let n := s.poolCount p
    if n = fld (s.ctl (0x1008 + 0x10 * p)) 32 32 then s.note .memory (homeDie pa) p 5 0 (BitVec.ofNat 64 pa) 0
    else (s.putPhys (s.poolAddr p n) 8 pa).setPool p (n + 1)
  match region pa with
  | .lpddr => back (homeDie pa)
  | .cxl i => back (2 + i)
  | _ => s

/-- Frames at a place (0 local, 1 peer, 2 CXL), if there are enough: of the issuing die's pool first. What a peer's tier engine
answers is the peer's: free (log entry 6). -/
def State.framesAt (s : State) (die place mod_ dev n : Nat) : Option (List Nat) × State :=
  match place with
  | 0 =>
    let a := min n (s.poolCount die)
    if n ≤ s.poolCount die + s.poolCount (1 - die) then
      let (l, s) := s.takeFrames die a
      let (m, s) := s.takeFrames (1 - die) (n - a)
      (some (l ++ m), s)
    else (none, s)
  | 1 =>
    if s.pickBit 0 then
      (some ((List.range n).map fun j => 2 ^ 48 + mod_ * 2 ^ 40 + 2 ^ 21 * (s.pick (j + 1) % 2 ^ 19)), s.picked)
    else (none, s.picked)
  | _ => if n ≤ s.poolCount (2 + dev) then let (l, s) := s.takeFrames (2 + dev) n; (some l, s) else (none, s)

/-! ## Requests (R414) -/

/-- The state with a request gone and its status entered for the command that asked; of an uncorrectable error its address is above the
status 5. A move of the sequencer's own has none to tell. -/
def State.tierAnswer (s : State) (r : TierReq) (status : Nat) : State :=
  let s := s.modMem fun m => { m with tier := m.tier.erase r }
  match r.queue with
  | some q => s.modCommand r.st q fun c => { c with info := c.info ++ [status] }
  | none => s

/-- Whether a place is the home, and the backing place, of an object (R413). -/
def State.homeIs (s : State) (i place mod_ dev : Nat) : Bool :=
  let w := s.otWord i 1
  w / 2 ^ 20 % 4 = place && (place ≠ 1 || w / 2 ^ 22 % 16 = mod_) && (place ≠ 2 || w / 2 ^ 26 % 16 = dev)
def State.backing (s : State) (i : Nat) : Nat × Nat × Nat :=
  let w := s.otWord i 1
  (w / 2 ^ 30 % 4, w / 2 ^ 32 % 16, w / 2 ^ 36 % 16)

/-- The peer module of a place that no path reaches (R458): moves to it and from it end as uncorrectable errors with the link form (R269). -/
def State.placeCut (s : State) (place mod_ : Nat) : Option Nat := if place = 1 then s.cutOff (2 ^ 48 + mod_ * 2 ^ 40) else none

/-- The status entered for a request that ends as an uncorrectable error with a TVAL (R269, R414), above 5; the link form of TVAL. -/
def eccAnswer (tval : Nat) : Nat := 5 + 8 * tval
def linkTval (m : Nat) : Nat := 2 ^ 63 + m

/-- The state after frames are asked for at a place: the request goes on with them, or is answered that there are none, or that no path
reaches the place (R414, R458). -/
def State.askFrames (s : State) (r : TierReq) (place mod_ dev : Nat) (go : State → List Nat → State) : State :=
  match s.placeCut place mod_ with
  | some m => s.tierAnswer r (eccAnswer (linkTval m))
  | none =>
    match s.framesAt r.st.die place mod_ dev (s.objPages r.obj) with
    | (some l, s) => go s l
    | (none, s) => s.tierAnswer r 2

/-- The state after the request first in line for an object that is RESIDENT is served (R414, R416): answered, or its frames taken
and the object MOVING or EVICTING. -/
def State.serveOne (s : State) (r : TierReq) : State :=
  let w := s.otWord r.obj 1
  let imm := w.testBit 19
  let (bp, bm, bd) := s.backing r.obj
  let toBack := r.place = bp && (bp ≠ 1 || r.module_ = bm) && (bp ≠ 2 || r.dev = bd)
  let evict := r.evict || (imm && toBack)
  let n := s.objPages r.obj
  let go := fun (s : State) (l : List Nat) (st due : Nat) =>
    let s := s.setObject r.obj st (w / 2 ^ 20 % 4) (w / 2 ^ 22 % 16) (w / 2 ^ 26 % 16)
    s.modMem fun m => { m with tier := m.tier.map fun q => if q = r then { q with frames := l, active := true, due := due } else q }
  let due := s.clocks + 1 + s.pick r.obj
  if !r.evict && s.homeIs r.obj r.place r.module_ r.dev then s.tierAnswer r 0
  else if evict then
    if s.otWord r.obj 2 % 2 ^ 32 ≠ 0 then s.tierAnswer r 1
    else if s.homeIs r.obj bp bm bd then s.tierAnswer r 0
    else if imm then go s ((List.range n).map fun j => s.otWord r.obj 3 % 2 ^ 52 + 2 ^ 21 * j) 2 s.clocks
    else s.askFrames r bp bm bd fun s l => (go s l 2 due).picked
  else s.askFrames r r.place r.module_ r.dev fun s l => (go s l 1 due).picked

/-- The state after the requests of an object are served until one is under way, at most n. -/
def State.serveTier (s : State) (obj : Nat) : Nat → State
  | 0 => s
  | n + 1 =>
    if s.mm.tier.any fun r => r.obj = obj && r.active then s
    else match s.mm.tier.find? fun r => r.obj = obj with
      | some r => (s.serveOne r).serveTier obj n
      | none => s

/-! ## Copy, remap, shootdown (R414 to R417) -/

/-- Whether a line lies in a frame. -/
def inFrame (base ln : Nat) : Bool := decide (base / 128 ≤ ln ∧ ln < (base + 2 ^ 21) / 128)

/-- The state with every byte of a frame at its home: what cores have written there, in their buffers and caches, has arrived
(R415). -/
def State.gather (s : State) (base : Nat) : State :=
  let s := s.streams.foldl (fun s e => s.wbDrain e.1 fun w => inFrame base w.line) s
  let s := s.mm.clusters.foldl (fun s e => ((e.2.filter fun l => inFrame base l.line).map (·.line)).foldl (fun s ln => s.clEvict e.1 ln) s) s
  (((((s.mm.lines ++ s.mm.victims).map (·.line)) ++ s.mm.partials.map (·.1.2)).eraseDups).filter (inFrame base)).foldl (fun s ln => s.toHome ln) s

/-- The state after a frame's bytes are copied to another, in the class of the move (R393): each line is read and written at its home
(R395). -/
def State.copyFrame (s : State) (src dst : Nat) : State :=
  let s := (((s.gather src).gather dst).homeUses (linesIn src (2 ^ 21)) false).homeUses (linesIn dst (2 ^ 21)) true
  s.modMem fun m =>
    let cells := (m.mem.filter fun c => decide (src ≤ c.1 ∧ c.1 < src + 2 ^ 21)).map fun c => (c.1 - src + dst, c.2)
    { m with mem := (m.mem.filter fun c => decide (c.1 < dst)) ++ cells ++ m.mem.filter fun c => decide (dst + 2 ^ 21 ≤ c.1) }

/-- A translation whose page has moved from one frame to another (R415). -/
def Xl.redirect (src dst : Nat) (x : Xl) : Xl := if src ≤ x.pa ∧ x.pa < src + 2 ^ 21 then { x with pa := x.pa - src + dst } else x
def Elem.redirect (src dst : Nat) (e : Elem) : Elem := { e with x := e.x.redirect src dst }
def MatRegion.redirect (src dst : Nat) (r : MatRegion) : MatRegion := { r with pages := r.pages.map (Elem.redirect src dst) }
def ArrayWork.redirect (src dst : Nat) : ArrayWork → ArrayWork
  | .products o a b i sc p fa fb =>
    .products o (a.map (MatRegion.redirect src dst)) (b.map (MatRegion.redirect src dst)) (i.map (MatRegion.redirect src dst)) sc p fa fb
  | w => w

/-- A tile core whose accesses under way go to the new frame of a page that has moved (R415). -/
def TileCore.redirect (src dst : Nat) (t : TileCore) : TileCore :=
  { t with
    array := t.array.map fun o => { o with work := o.work.redirect src dst },
    commits := t.commits.map fun d => { d with pages := d.pages.map (Elem.redirect src dst) },
    coop := t.coop.map fun c => (c.1.map (MatRegion.redirect src dst), c.2.1.map (MatRegion.redirect src dst), c.2.2) }

/-- The state in which the accesses under way that hold a moved page's translation, M operations and their drains, status words of remote
launches, are performed at its new home (R415). -/
def State.redirect (s : State) (src dst : Nat) : State :=
  { s with tiles := s.tiles.map fun e => (e.1, e.2.redirect src dst),
           sched := { s.sched with sent := s.sched.sent.map fun r => { r with rstat := r.rstat.map (Xl.redirect src dst) } } }

/-- The walk of a page of an object. -/
def State.objLeaf (s : State) (st : StreamId) (i j : Nat) : Option Found :=
  s.walk (tlbOf st.core) (s.common st.core).ptbase (s.objAsid i) (s.objVa i + 2 ^ 21 * j)

/-- The state after one page of an object is copied, unless its backing image stands, and remapped, and what is cached of its
translation is dropped; its pinned lines are pinned again under their new addresses (R414, R417). -/
def State.movePage (s : State) (r : TierReq) (j dst : Nat) (copy : Bool) : State :=
  match s.objLeaf r.st r.obj j with
  | none => s
  | some f =>
    let src := f.leaf / 2 ^ 12 % 2 ^ 40 * 2 ^ 12
    let va := s.objVa r.obj + 2 ^ 21 * j
    let s := s.walked (tlbOf r.st.core) (s.common r.st.core).ptbase (s.objAsid r.obj) va
    let s := s.modMem fun m => { m with cls := max r.cls (f.leaf / 2 ^ 60 % 8) }
    let s := if copy then s.copyFrame src dst else s.gather src
    let s := s.toHome (f.addr / 128)
    let s := s.modMem fun m => { m with mem := Mem.putNum m.mem f.addr 8 (putBits (Mem.num m.mem f.addr 8) 12 40 (dst / 4096)) }
    let s := s.killAt placeHome (f.addr / 128)
    let s := (s.shoot (fun _ => true) (fun _ => true) (fun _ => true) 3 va 0).redirect src dst
    let moved := fun (p : Pin) =>
      if inFrame src p.line then
        let ln := p.line - src / 128 + dst / 128
        { p with line := ln, die := if p.level = 0 || peerLine ln then p.die else lineDie ln == 1 }
      else p
    let pins := s.mm.pins.filter fun p => inFrame src p.line
    let s := s.modMem fun m => { m with pins := m.pins.map moved }
    pins.foldl (fun s p =>
      let q := moved p
      s.fetchAt q.level q.die q.line) s

/-- The TVAL of the uncorrectable error that a copy between frames meets (R269, R414): a poisoned line that it reads, a peer that no path
reaches any more (R458). -/
def State.copyLost (s : State) (from_ to_ : List Nat) : Option Nat :=
  match s.mm.poison.find? fun ln => from_.any fun b => inFrame b ln with
  | some ln => some (128 * ln)
  | none => ((from_ ++ to_).findSome? s.cutOff).map linkTval

/-- The state after the copy of an object's move or eviction completes (R414): an uncorrectable error leaves it at its old home;
else its pages are remapped, its old frames returned, its entry RESIDENT at the new home. -/
def State.moveDone (s : State) (r : TierReq) : State :=
  let w := s.otWord r.obj 1
  let imm := w.testBit 19
  let n := s.objPages r.obj
  let (bp, bm, bd) := s.backing r.obj
  let evicting := w / 2 ^ 16 % 8 = 2
  let atBack := s.homeIs r.obj bp bm bd
  let old := (List.range n).filterMap fun j => (s.objLeaf r.st r.obj j).map fun f => f.leaf / 2 ^ 12 % 2 ^ 40 * 2 ^ 12
  let copy := !(evicting && imm)
  let bad := if copy then s.copyLost old r.frames else none
  let s := match bad with
    | some v =>
      let s := if copy then r.frames.foldl (fun (s : State) f => s.returnFrame f) s else s
      (s.setObject r.obj 0 (w / 2 ^ 20 % 4) (w / 2 ^ 22 % 16) (w / 2 ^ 26 % 16)).tierAnswer r (eccAnswer v)
    | none =>
      let s := (r.frames.zipIdx).foldl (fun (s : State) (e : Nat × Nat) => s.movePage r e.2 e.1 copy) s
      let s := if imm && atBack then s else old.foldl (fun (s : State) f => s.returnFrame f) s
      let (h, m, d) := if evicting then (bp, bm, bd) else (r.place, r.module_, r.dev)
      (s.setObject r.obj 0 h m d).tierAnswer r 0
  s.serveTier r.obj (s.mm.tier.length + 1)

/-- The request of the sequencer's own that a word says: the die [0], whether an evict [1], the place, the module, the device. What it moves,
and when, the manual leaves open (log entry 6). -/
def ownMove (obj : Nat) (v : Word) : TierReq :=
  ⟨obj, fld v 2 8 % 3, fld v 10 4, fld v 14 4, bit v 1, .super (16 * b2n (bit v 0)) , none, 4, [], false, 0⟩

/-- A tier object's copy completes; with a word, the sequencer asks for a move of its own, which takes its place in the order (R414): of an
object that the table holds, to a place that a path reaches. -/
def execTmoveCopyComplete (s : State) : Out :=
  match s.subject with
  | .numWord obj v =>
    let r := ownMove obj v
    if s.objPages obj = 0 || (r.place = 1 && (s.cutOff (2 ^ 48 + r.module_ * 2 ^ 40)).isSome) then .next s
    else
      let s := s.modMem fun m => { m with tier := m.tier ++ [r] }
      .next (s.serveTier obj (s.mm.tier.length + 1))
  | .num obj =>
    match s.mm.tier.find? fun r => r.obj = obj && r.active with
    | some r => .next (s.lookObjects.moveDone r)
    | none => .next s
  | _ => .next s

/-! ## Expert use (R287, R420) -/

/-- The state after the expert residency table has been read (R344, R420, R447). -/
def State.lookExperts (s : State) : State :=
  let w := s.ctl 0x910
  if bit w 0 then s.looked ((List.range 256).map fun k => fld w 15 37 * 2 ^ 15 + 128 * k) else s

/-- The state after the uses of an expert by an address space are counted. -/
def State.useExpert (s : State) (asid : BitVec 16) (id n : Nat) : State :=
  let w := s.ctl 0x910
  let at_ := fun (e : Nat) => fld w 15 37 * 2 ^ 15 + 32 * e
  if !bit w 0 then s
  else match (List.range 1024).find? fun e =>
      let x := s.phys (at_ e) 8
      x.testBit 16 && x % 65536 = id && s.phys (at_ e + 24) 8 / 2 ^ 48 = asid.toNat with
    | some e => (s.putPhys (at_ e + 8) 8 ((s.phys (at_ e + 8) 8 + n) % 2 ^ 48)).putPhys (at_ e + 16) 8 s.ltime.toNat
    | none => s

end Sys2Proof.Machine
end

