-- ==== Sys2Proof/Machine/Engines.lean ====
section
/-! DEFINITION. The data commands: copies, gather and scatter, prefetch and pins, tier moves, collectives, expert sort, task enqueue
and remote launch, ray traversal, joins (R266, R272 to R295). -/

namespace Sys2Proof.Machine

/-- No staging register is used. -/
def noStaging (_ : List Word) : Bool := true

/-! ## Copy and casement broadcast (R273 to R276) -/

/-- The staging of the copy engine (R273). -/
def fitsCopy (l : List Word) : Bool := fitStaging l [(0, 48), (1, 48)]

/-- Copy rows from a space to a space, or into an inbound queue (R273 to R275). -/
def planCopy (o : COp) (s : State) : Plan :=
  s.planC (.copy o) o 1 o.rel fitsCopy [] []

/-- A bundle of `COPY` alone. -/
def execCopy (o : COp) (s : State) : Out := s.single (planCopy o s)

/-- Copy rows to the same offsets of several cores of the casement (R276). -/
def planQbcast (o : COp) (s : State) : Plan :=
  s.planC (.qbcast o) o 1 o.rel fitsCopy [] []

/-- A bundle of `QBCAST` alone. -/
def execQbcast (o : COp) (s : State) : Out := s.single (planQbcast o s)

/-- The source and destination rows of a copy. -/
def Command.source (c : Command) (o : COp) : Endpoint :=
  ⟨o.sub 0 4, strided (c.addr 0) (fld (c.sg 3) 0 32) (fld (c.sg 2) 32 32), fld (c.sg 2) 0 32⟩
def Command.target (c : Command) (o : COp) : Endpoint :=
  ⟨o.sub 4 4, strided (c.addr 1) (fld (c.sg 3) 32 32) (fld (c.sg 2) 32 32), fld (c.sg 2) 0 32⟩

/-- The alignment rules of a copy (R272, R275). -/
def Command.copyAlign (c : Command) (o : COp) : Option Halt :=
  let n := fld (c.sg 2) 0 32
  firstHalt [typedAlign (o.sub 0 4) [c.addr 0, fld (c.sg 3) 0 32, n], typedAlign (o.sub 4 4) [c.addr 1, fld (c.sg 3) 32 32, n],
    if o.sub 4 4 = 5 then alignHalt n 128 else none]

/-- The entries of 128 bytes that rows make. -/
def entriesOf (rows : List (List Byte)) : List VWord :=
  let l := rows.flatten
  (List.range (l.length / 128)).map fun k => BitVec.ofNat 1024 (leNat ((l.drop (128 * k)).take 128))

/-- The address of a save area (R428). -/
def State.saveAddr (s : State) (q a : Nat) : Nat := s.qword q 5 % 2 ^ 48 + 0xA400 * a

/-- The save area of a context that is saved with its queues. -/
def State.savedQueues (s : State) (st : StreamId) : Option SaveArea :=
  let x := s.stream st
  if x.stop = .saved && x.csr.qown then s.sched.saves.find? fun a => some a.job = x.job else none

/-- The entries of an inbound queue as a command of a context finds it, and the state with some appended: in the save area of a context that
has been saved with its queues (R271, R366). -/
def State.inbound (s : State) (st : StreamId) (k : BitVec 3) : List VWord :=
  match s.savedQueues st with
  | some a => File.get a.inq k
  | none => File.get (s.tile st.tileOf).inq k
def State.enterQueue (s : State) (st : StreamId) (k : BitVec 3) (l : List VWord) : State :=
  match s.savedQueues st with
  | some a =>
    let all := File.get a.inq k ++ l
    let at_ := s.saveAddr a.queue a.area
    let s := (s.putPhysBytes (at_ + 0x4A00 + 0x800 * k.toNat) (all.flatMap fun v => leBytes 128 v.toNat)).putPhys (at_ + 0xA200 + 8 * k.toNat) 8 all.length
    s.modSched fun d => { d with saves := d.saves.map fun b => if b = a then { b with inq := File.set b.inq k all } else b }
  | none => s.modTile st.tileOf fun t => { t with inq := File.set t.inq k (File.get t.inq k ++ l) }

/-- A copy into an inbound queue goes on with as many entries as fit; the command notes how many have entered (R275). -/
def State.streamIn (s : State) (st : StreamId) (q n : Nat) (c : Command) (entries : List VWord) : Eng Nat :=
  let k := BitVec.ofNat 3 (4 + n)
  let done := (c.info.head?).getD 0
  let now := (entries.drop done).take (16 - (s.inbound st k).length)
  let s := s.enterQueue st k now
  if done + now.length = entries.length then (.ok 3, s)
  else (.error .wait, s.modCommand st q fun d => { d with info := [done + now.length] })

/-- What a copy does once it has started. -/
def State.copyWork (s : State) (st : StreamId) (q : Nat) (c : Command) (o : COp) : Eng Nat :=
  let a := c.source o
  let b := c.target o
  if fld (c.sg 2) 32 32 = 0 then (.ok (if b.space = 0 then 6 else 3), s)
  else (s.require (c.copyAlign o)).andThen fun _ s =>
    (s.reachEnd st c 1 a false).andThen fun pa s =>
      if b.space = 5 then (s.engineRows st c pa a).andThen fun rows s => s.streamIn st q (o.sub 8 2) c (entriesOf rows)
      else (s.reachEnd st c 1 b true).andThen fun pb s =>
        (s.engineRows st c pa a).andThen fun rows s =>
          s.writeRows st c [st] (if b.space = 0 then scopeOf pb else 3) b.space pb (b.rows.zip rows)

/-- The contexts of the issuer's gang that a broadcast reaches, one at each position of its mask; none where a position has none. Where both
contexts of a core belong to the gang it is c0 (R276 says "that core's context"; DESIGN CHOICE, log entry 54). -/
def State.castTargets (s : State) (st : StreamId) (mask : Nat) : List (Option StreamId) :=
  let gang := fun (x : Stream) => x.job.map fun j => (j.queue, j.record, j.unit)
  let own := gang (s.stream st)
  ((List.range 4).filter mask.testBit).map fun p =>
    [StreamId.tile (4 * (st.tileOf / 4) + p) false, .tile (4 * (st.tileOf / 4) + p) true].find? fun t =>
      t = st || (own.isSome && gang (s.stream t) = own)

/-- What a casement broadcast does once it has started. -/
def State.castWork (s : State) (st : StreamId) (c : Command) (o : COp) : Eng Nat :=
  let a := c.source o
  let b := c.target o
  let ts := s.castTargets st (o.sub 8 4)
  if fld (c.sg 2) 32 32 = 0 then (.ok 4, s)
  else (s.require (c.copyAlign o)).andThen fun _ s =>
    if ts.any (·.isNone) then (.error (.error cPERM (BitVec.ofNat 64 (c.addr 1))), s)
    else
      let ts := ts.filterMap id
      let bound := fun (t : StreamId) =>
        if b.len = 0 then none
        else (if t = st then (s.stream t).withAttached c else s.stream t).rowsHalt t b true
      (s.reachEnd st c 1 a false).andThen fun pa s =>
        (s.require (ts.findSome? bound)).andThen fun _ s =>
          (s.engineRows st c pa a).andThen fun rows s =>
            s.writeRows st c ts 4 b.space [] (b.rows.zip rows)

/-! ## Gather and scatter (R277, R278) -/

/-- The staging of the gather/scatter engine (R277). -/
def fitsGather (l : List Word) : Bool := fitStaging l [(0, 48), (1, 48), (2, 48), (5, 32)]

/-- Copy table rows that an index list names to dense rows; zeros for an index out of range (R277, R278). -/
def planGath (o : COp) (s : State) : Plan :=
  s.planC (.gath o) o 2 o.rel fitsGather [] []

/-- A bundle of `GATH` alone. -/
def execGath (o : COp) (s : State) : Out := s.single (planGath o s)

/-- Copy dense rows to the table rows that an index list names; an index out of range writes nothing (R277, R278). -/
def planScat (o : COp) (s : State) : Plan :=
  s.planC (.scat o) o 2 o.rel fitsGather [] []

/-- A bundle of `SCAT` alone. -/
def execScat (o : COp) (s : State) : Out := s.single (planScat o s)

/-- What a gather or scatter does once it has started. -/
def State.gatherWork (s : State) (st : StreamId) (c : Command) (o : COp) (scatter : Bool) : Eng Nat :=
  let n := fld (c.sg 3) 0 32
  let count := fld (c.sg 3) 32 32
  let ts := fld (c.sg 4) 0 32
  let ds := fld (c.sg 4) 32 32
  let tsp := o.sub 0 4
  let dsp := o.sub 4 4
  let right := fun (sp a : Nat) => if sp = 3 then some (Halt.error cPERM (BitVec.ofNat 64 a)) else none
  if count = 0 then (.ok (if (if scatter then tsp else dsp) = 0 then 6 else 3), s)
  else (s.require (firstHalt [alignHalt (c.addr 1) 4, right tsp (c.addr 0), right dsp (c.addr 2), typedAlign tsp [c.addr 0, ts, n],
      typedAlign dsp [c.addr 2, ds, n]])).andThen fun _ s =>
    (s.enginePages st c 2 false (rowPages [c.addr 1] (4 * count))).andThen fun pi s =>
      (s.engineRead st c 0 pi (c.addr 1) (4 * count)).andThen fun raw s =>
        let ids := (List.range count).map fun k => leNat ((raw.drop (4 * k)).take 4)
        let used := ids.zipIdx.filter fun e => decide (e.1 < fld (c.sg 5) 0 32)
        let table : Endpoint := ⟨tsp, used.map fun e => c.addr 0 + e.1 * ts, n⟩
        let inRange : Endpoint := ⟨dsp, used.map fun e => c.addr 2 + e.2 * ds, n⟩
        let dense : Endpoint := ⟨dsp, if scatter then inRange.rows else strided (c.addr 2) ds count, n⟩
        (s.reachEnd st c 2 table scatter).andThen fun pt s =>
          (s.reachEnd st c 2 dense (!scatter)).andThen fun pd s =>
            if scatter then
              (s.engineRows st c pd inRange).andThen fun rows s =>
                s.writeRows st c [st] (if tsp = 0 then scopeOf pt else 3) tsp pt (table.rows.zip rows)
            else
              (s.engineRows st c pt table).andThen fun rows s =>
                let zeros := (ids.zipIdx.filter fun e => !decide (e.1 < fld (c.sg 5) 0 32)).map fun e =>
                  (c.addr 2 + e.2 * ds, List.replicate n (0 : Byte))
                s.writeRows st c [st] (if dsp = 0 then scopeOf pd else 3) dsp pd (inRange.rows.zip rows ++ zeros)

/-! ## Prefetch, pins and tier moves (R279 to R282) -/

/-- The staging of the tier engine (R279): the range and the status word; for a move, the place. -/
def fitsTier (l : List Word) : Bool := fitStaging l [(0, 48), (1, 48), (3, 48)]
def fitsMove (l : List Word) : Bool :=
  let p := (l[2]?).getD 0
  fitsTier l && fld p 12 52 = 0 && fld p 2 2 = 0 && fld p 0 2 ≠ 3

/-- Fetch the lines of a range into a level, and with PIN pin them there (R280). -/
def planPfb (o : COp) (s : State) : Plan :=
  s.planC (.pfb o) o 4 o.rel fitsTier [] []

/-- A bundle of `PFB` alone. -/
def execPfb (o : COp) (s : State) : Out := s.single (planPfb o s)

/-- Remove one pin from each line of a range at a level (R281). -/
def planDrop (o : COp) (s : State) : Plan :=
  s.planC (.drop o) o 4 o.rel fitsTier [] []

/-- A bundle of `DROP` alone. -/
def execDrop (o : COp) (s : State) : Out := s.single (planDrop o s)

/-- Make a place the home of whole tier objects (R282). -/
def planTmoveMove (o : COp) (s : State) : Plan :=
  s.planC (.tmoveMove o) o 4 o.rel fitsMove [] []

/-- A bundle of `TMOVE_MOVE` alone. -/
def execTmoveMove (o : COp) (s : State) : Out := s.single (planTmoveMove o s)

/-- Return whole tier objects to their backing tier (R282). -/
def planTmoveEvict (o : COp) (s : State) : Plan :=
  s.planC (.tmoveEvict o) o 4 o.rel fitsTier [] []

/-- A bundle of `TMOVE_EVICT` alone. -/
def execTmoveEvict (o : COp) (s : State) : Out := s.single (planTmoveEvict o s)

/-- The checks of a tier command: its pages and its status word. -/
def State.tierReach (s : State) (st : StreamId) (c : Command) : Eng (List Elem × Option Xl) :=
  (s.enginePages st c 4 false (if c.addr 1 = 0 then [] else rowPages [c.addr 0] (c.addr 1))).andThen fun ps s =>
    (s.reachStatus st c 4 (c.addr 3)).andThen fun x s => (.ok (ps, x), s.lookObjects)

/-- What `pfb` does once it has started. -/
def State.pfbWork (s : State) (st : StreamId) (c : Command) (o : COp) : Eng Nat :=
  (s.tierReach st c).andThen fun (ps, x) s =>
    let (part, s) := (rangeVas (c.addr 0) (c.addr 1) ps).foldl (fun (p, s) e =>
      let (q, s) := s.pfbLine st c (o.sub 0 2) (bit o.flags 0) e.1 e.2
      (p || q, s)) (false, s)
    (.ok (widen 6 x), s.putStatus st c x (if part then 4 else 0))

/-- What `drop` does once it has started. -/
def State.dropWork (s : State) (st : StreamId) (c : Command) (o : COp) : Eng Nat :=
  (s.tierReach st c).andThen fun (ps, x) s =>
    let s := (rangeVas (c.addr 0) (c.addr 1) ps).foldl (fun s e => s.dropLine st c.asid (o.sub 0 2) e.1 e.2) s
    (.ok (widen 6 x), s.putStatus st c x 0)

/-- What `tmove` does once it has started: it asks for each object, waits for the answers, and writes its status, the first that is
not OK. -/
def State.tmoveWork (s : State) (st : StreamId) (q : Nat) (c : Command) (evict : Bool) : Eng Nat :=
  (s.tierReach st c).andThen fun (_, x) s =>
    let asid := c.asid
    match c.info with
    | [] =>
      if !s.wholeObjects asid (c.addr 0) (c.addr 1) then (.ok 7, s.putStatus st c x 3)
      else
        let objs := s.objectsIn asid (c.addr 0) (c.addr 1)
        let p := c.sg 2
        let s := s.modCommand st q fun d => { d with info := [objs.length] }
        let s := s.modMem fun m =>
          { m with tier := m.tier ++ objs.map fun i => ⟨i, fld p 0 2, fld p 4 4, fld p 8 4, evict, st, some q, c.cls, [], false, 0⟩ }
        (.error .wait, objs.foldl (fun s i => s.serveTier i (s.mm.tier.length + 1)) s)
    | n :: answers =>
      if answers.length < n then (.error .wait, s)
      else match answers.find? fun a => decide (5 ≤ a) with
        | some a => (.error (.error cECC (BitVec.ofNat 64 (a / 8))), s)
        | none => (.ok 7, s.putStatus st c x ((answers.find? fun a => decide (a ≠ 0)).getD 0))

/-! ## Collectives (R283 to R285) -/

/-- The staging of the collective engine (R283). -/
def fitsColl (l : List Word) : Bool := fitStaging l [(0, 48), (1, 48), (2, 32), (3, 48), (4, 32)]

/-- This member's part in a collective (R283 to R285). -/
def planColl (o : COp) (s : State) : Plan :=
  s.planC (.coll o) o 3 o.rel fitsColl [] []

/-- A bundle of `COLL` alone. -/
def execColl (o : COp) (s : State) : Out := s.single (planColl o s)

/-- The elements that a member sends and receives, in blocks of c (R284). -/
def collSend (kind n : Nat) : Nat := if kind = 1 ∨ kind = 4 then n else 1
def collRecv (kind n : Nat) : Nat := if kind = 2 ∨ kind = 4 then n else 1

/-- The type of a collective's elements. -/
def collType (o : COp) : ElTy := (ElTy.ofCode (BitVec.ofNat 4 (o.sub 4 4))).getD .i32

/-- A list in an order that the manual leaves open: that of arrival (R285; log entry 6). -/
def State.arrivalOrder {α : Type} (s : State) (key : Nat) (l : List α) : List α :=
  (l.zipIdx).foldl (fun acc e => let k := s.pick (64 * key + e.2) % (acc.length + 1); acc.take k ++ e.1 :: acc.drop k) []

/-- Element i of what a member sent. -/
def sentElem (m : CollMember) (z i : Nat) : Nat := leNat ((m.send.drop (z * i)).take z)

/-- Element i of what the member of a rank receives (R284, R285). -/
def State.collElem (s : State) (o : COp) (rank root c : Nat) (ms : List CollMember) (i : Nat) : Nat :=
  let t := collType o
  let z := t.bytes
  let from_ := fun (r : Nat) => ms.find? fun m => m.rank = r
  let join := fun (k : Nat) =>
    match s.arrivalOrder i (ms.map fun m => sentElem m z k) with
    | [] => 0
    | a :: l => l.foldl (fun x y => rangeOp t (o.sub 8 2) x y) a
  match o.sub 0 4 with
  | 0 => join i
  | 1 => join (rank * c + i)
  | 2 => match from_ (i / c) with | some m => sentElem m z (i % c) | none => 0
  | 3 => match from_ root with | some m => sentElem m z i | none => 0
  | _ => match from_ (i / c) with | some m => sentElem m z (rank * c + i % c) | none => 0

/-- The communicator descriptor (R283): id, size, rank, root, the members' codes; none where it is out of range. -/
def commOf (b : List Byte) (codes : List Byte) : Option (List Nat) :=
  let h := fun (off n : Nat) => leNat ((b.drop off).take n)
  let n := h 4 2
  if 2 ≤ n ∧ n ≤ 32 ∧ h 6 2 < n ∧ h 8 2 < n then
    some ([h 0 4, n, h 6 2, h 8 2] ++ (List.range n).map fun k => leNat ((codes.drop (4 * k)).take 4))
  else none

/-- Whether two commands that wait belong to one collective (R285). -/
def Command.sameColl (a b : Command) : Bool :=
  (match b.op with | .coll _ => true | _ => false) && a.info.head? = b.info.head? && fld (a.sg 4) 0 32 = fld (b.sg 4) 0 32
    && b.started && b.members.length = 1 && b.fail.isNone

/-- The streams of this module whose commands wait for the other members of a collective, and of them those of its members by rank. -/
def State.collWaiting (s : State) (c : Command) : List (StreamId × Nat × CollMember) :=
  s.streams.flatMap fun e => e.2.queues.filterMap fun q => match q.2 with
    | d :: _ => if c.sameColl d then (d.members.head?).map fun m => (e.1, q.1, m) else none
    | [] => none
def State.collPeers (s : State) (c : Command) : List (Option (StreamId × Nat × CollMember)) :=
  ((c.info.drop 4).zipIdx.map fun e =>
    (s.collWaiting c).find? fun p => e.1 % 16 = Config.module.toNat && p.1.die = e.1 / 16 % 2 && p.2.2.rank = e.2)

/-- What `coll` does once it has started: it reads its descriptor and its send buffer, waits for the other members, and writes its
receive buffer. The TVAL of a bad descriptor is not given, and is free (log entry 6). -/
def State.collWork (s : State) (st : StreamId) (q : Nat) (c : Command) (o : COp) : Eng Nat :=
  let n0 := fld (c.sg 2) 0 32
  let z := (collType o).bytes
  let kind := o.sub 0 4
  match c.members with
  | [] =>
    (s.require (alignHalt (c.addr 3) 64)).andThen fun _ s =>
      (s.enginePages st c 3 false (rowPages [c.addr 3] 64)).andThen fun p0 s =>
        (s.engineRead st c 0 p0 (c.addr 3) 64).andThen fun head s =>
          let n := leNat ((head.drop 4).take 2)
          (s.enginePages st c 3 false (rowPages [c.addr 3 + 64] (4 * min n 32))).andThen fun p1 s =>
            (s.engineRead st c 0 p1 (c.addr 3 + 64) (4 * min n 32)).andThen fun codes s =>
              match commOf head codes with
              | none => (.error (.error cILLOP (BitVec.ofNat 64 (s.pick 1))), s)
              | some info =>
                let len := collSend kind n * n0 * z
                (s.enginePages st c 3 false (if len = 0 then [] else rowPages [c.addr 0] len)).andThen fun ps s =>
                  let rl := collRecv kind n * n0 * z
                  (s.enginePages st c 3 true (if rl = 0 then [] else rowPages [c.addr 1] rl)).andThen fun _ s =>
                    (s.engineRead st c 0 ps (c.addr 0) len).andThen fun send s =>
                      let me : CollMember :=
                        ⟨leNat ((head.drop 6).take 2), n0, n, leNat ((head.drop 8).take 2), bits o.low 0 10, send, false⟩
                      let c := { c with info := info, members := [me] }
                      let s := s.modCommand st q fun _ => { c with due := s.clocks + 1 }
                      let peers := s.collPeers c
                      let odd := (s.collWaiting c).filter fun p => p.2.2.size ≠ n
                      if odd ≠ [] then
                        (.error .wait, s.post (.row .collectiveMatch (.collective st q (odd.map (·.2.2)))
                          :: odd.map fun p => .row .collectiveMatch (.collective p.1 p.2.1 [me])))
                      else if peers.all (·.isSome) then
                        let l := peers.filterMap id
                        (.error .wait, s.post (l.map fun p =>
                          .row .collectiveMatch (.collective p.1 p.2.1 ((l.map (·.2.2)).filter fun m => decide (m.rank ≠ p.2.2.rank)))))
                      else (.error .wait, s)
  | [_] => (.error .wait, s)
  | me :: others =>
    let ms := me :: others
    match ms.find? fun m => m.failed with
    | some m => (.error (.error cECC (BitVec.ofNat 64 (2 ^ 63 + ((c.info[4 + m.rank]?).getD 0) % 16))), s)
    | none =>
      if others.any fun m => m.kindTypeOp ≠ me.kindTypeOp || m.count ≠ me.count || m.size ≠ me.size then (.error (.error cILLOP 1), s)
      else
        let k := collRecv kind me.size * n0
        (s.enginePages st c 3 true (if k * z = 0 then [] else rowPages [c.addr 1] (k * z))).andThen fun pr s =>
          let data := (List.range k).flatMap fun i => leBytes z (s.collElem o me.rank me.root n0 ms i)
          (.ok 6, s.engineWrite st c 0 pr [(c.addr 1, data)])

/-- The commands of every other member of a collective have arrived for the one at the head of a queue, or one that disagrees on how many
they are (R285). -/
def execCollectiveMatch (s : State) : Out :=
  match s.subject with
  | .collective st q ms =>
    match (s.stream st).commands q with
    | c :: _ =>
      match c.op, c.members with
      | .coll _, [me] =>
        let ranks := (List.range me.size).filter fun r => decide (r ≠ me.rank)
        if (ms.any fun m => m.size ≠ me.size) || (ms.length = ranks.length && ranks.all fun r => ms.any fun m => m.rank = r) then
          .next (s.modCommand st q fun d => { d with members := me :: ms, due := s.clocks })
        else .next s
      | _, _ => .next s
    | [] => .next s
  | _ => .next s

/-! ## Expert sort (R286, R287) -/

/-- The staging of the expert-sort engine (R286). -/
def fitsSort (l : List Word) : Bool :=
  let w := (l[1]?).getD 0
  fitStaging l [(0, 48), (2, 48), (3, 48), (4, 48), (5, 48)] && fld w 28 4 = 0 && fld w 45 19 = 0
    && decide (1 ≤ fld w 24 4 ∧ fld w 24 4 ≤ 8) && decide (1 ≤ fld w 32 13 ∧ fld w 32 13 ≤ 4096)

/-- Sort a token list's expert ids into counts, offsets and a permutation (R286, R287). -/
def planXsort (o : COp) (s : State) : Plan :=
  s.planC (.xsort o) o 7 o.rel fitsSort [] []

/-- A bundle of `XSORT` alone. -/
def execXsort (o : COp) (s : State) : Out := s.single (planXsort o s)

/-- The exclusive sums of a list. -/
def offsets : Nat → List Nat → List Nat
  | _, [] => []
  | a, x :: t => a :: offsets (a + x) t

/-- What `xsort` does once it has started. -/
def State.sortWork (s : State) (st : StreamId) (c : Command) (o : COp) : Eng Nat :=
  let w := c.sg 1
  let k := fld w 24 4
  let e := fld w 32 13
  let n := fld w 0 24 * k
  let pages := fun (s : State) (va len : Nat) (wr : Bool) =>
    s.enginePages st c 2 wr (if len = 0 then [] else rowPages [va] len)
  let words := fun (l : List Nat) => l.flatMap (leBytes 4)
  (s.require (firstHalt [alignHalt (c.addr 0) 2, alignHalt (c.addr 2) 4, alignHalt (c.addr 3) 4, alignHalt (c.addr 4) 4,
      alignHalt (c.addr 5) 4])).andThen fun _ s =>
    (pages s (c.addr 0) (2 * n) false).andThen fun pa s =>
      (s.engineRead st c 0 pa (c.addr 0) (2 * n)).andThen fun raw s =>
        let ids := (List.range n).map fun j => leNat ((raw.drop (2 * j)).take 2)
        let cnt := (List.range e).map fun x => (ids.filter fun y => decide (y = x)).length
        let perm := (List.range e).flatMap fun x => (ids.zipIdx.filter fun y => decide (y.1 = x)).map fun y => 8 * (y.2 / k) + y.2 % k
        let kept := perm.length
        (pages s (c.addr 2) (4 * e) true).andThen fun p2 s =>
          (pages s (c.addr 3) (4 * e) true).andThen fun p3 s =>
            (pages s (c.addr 4) (4 * kept) true).andThen fun p4 s =>
              (pages s (c.addr 5) (if c.addr 5 = 0 then 0 else 8) true).andThen fun p5 s =>
                let s := s.engineWrite st c 0 (p2 ++ p3 ++ p4 ++ p5)
                  ([(c.addr 2, words cnt), (c.addr 3, words (offsets 0 cnt)), (c.addr 4, words perm)]
                    ++ if c.addr 5 = 0 then [] else [(c.addr 5, words [kept, n - kept])])
                let s := if bit o.flags 0 then s
                  else cnt.zipIdx.foldl (fun s x => if x.1 = 0 then s else s.useExpert c.asid x.2 x.1) s.lookExperts
                (.ok (max 6 (scopeOf p5)), s)

/-! ## Task enqueue and remote launch (R288 to R290) -/

/-- The staging of the sequencer interface (R288). -/
def fitsPush (l : List Word) : Bool := fitStaging l [(0, 48), (1, 20)]
def fitsLaunch (l : List Word) : Bool :=
  fitStaging l [(0, 48), (1, 20), (2, 48), (3, 21), (4, 48), (6, 48)] && decide (((l[3]?).getD 0).toNat ≤ 2 ^ 20)

/-- Append a launch record to a local work queue (R289). -/
def planTqpush (o : COp) (s : State) : Plan :=
  s.planC (.tqpush o) o 5 true fitsPush [] []

/-- A bundle of `TQPUSH` alone. -/
def execTqpush (o : COp) (s : State) : Out := s.single (planTqpush o s)

/-- Send a payload and a launch record to a work queue of a peer module (R290). -/
def planRlaunch (o : COp) (s : State) : Plan :=
  s.planC (.rlaunch o) o 5 true fitsLaunch [] []

/-- A bundle of `RLAUNCH` alone. -/
def execRlaunch (o : COp) (s : State) : Out := s.single (planRlaunch o s)

/-- Whether a queue's ring is full (R428). -/
def State.ringFull (s : State) (q : Nat) : Bool := (s.qword q 4 + 2 ^ 32 - s.qword q 2) % 2 ^ 32 = 2 ^ (s.qword q 0 / 2 ^ 48 % 16)

/-- The physical address of record n of a queue (R428). -/
def State.recordAddr (s : State) (q n : Nat) : Nat := s.qword q 0 % 2 ^ 48 + 256 * (n % 2 ^ (s.qword q 0 / 2 ^ 48 % 16))

/-- The state after the sequencer appends a record to a queue (R289, R429). -/
def State.appendRecord (s : State) (q : Nat) (b : List Byte) : State :=
  let n := s.qword q 4 % 2 ^ 32
  let s := s.putPhysBytes (s.recordAddr q n) b
  (s.putPhys (fld (s.ctl 0xA00) 0 52 + 64 * q + 32) 8 ((n + 1) % 2 ^ 32)).row .doorbell (.num q)

/-- The pages of a record that a command reads. -/
def State.reachRecord (s : State) (st : StreamId) (c : Command) : Eng (List Byte) :=
  (s.require (alignHalt (c.addr 0) 64)).andThen fun _ s =>
    (s.enginePages st c 1 false (rowPages [c.addr 0] 256)).andThen fun ps s => s.engineRead st c 0 ps (c.addr 0) 256

/-- What `tqpush` does once it has started: a full queue holds it. -/
def State.pushWork (s : State) (st : StreamId) (c : Command) : Eng Nat :=
  let q := fld (c.sg 1) 0 16
  (s.reachRecord st c).andThen fun b s =>
    let s := s.lookQueue q
    if s.qOwner q ≠ some c.asid then (.error (.error cPERM (BitVec.ofNat 64 q)), s)
    else if s.ringFull q then (.error .wait, s)
    else (.ok 6, s.appendRecord q b)

/-- Bytes in pieces of the 240 that a flit carries (R457). -/
def flitPieces (l : List Byte) : List (List Byte) := (List.range ((l.length + 239) / 240)).map fun k => (l.drop (240 * k)).take 240

/-- The bytes of a remote launch's request (R290): the queue and the issuer's namespace, where the payload goes, its length, the payload, the
record. The manual does not give their order (log entry 38). -/
def launchBytes (queue : Nat) (space : BitVec 16) (rpay n : Nat) (load rec : List Byte) : List Byte :=
  leBytes 2 queue ++ leBytes 2 space.toNat ++ leBytes 8 rpay ++ leBytes 4 n ++ load ++ rec

/-- What a launch that has been sent comes to: once the port has sent it and its flits are acknowledged, the peer answers, at a time and in
a way that are free: it has appended the record, or its queue is not exported to the tenant (R290; log entry 6). -/
def State.launchAnswer (s : State) (st : StreamId) (c : Command) (x : Option Xl) (p : Nat) : Eng Nat :=
  let k := s.link p
  if !k.out.isEmpty || !k.retry.isEmpty || s.pickBit 1 then (.error .wait, s)
  else if s.pickBit 0 then
    let r : RemoteSent :=
      ⟨s.sched.serials, st, c.asid, x, fld (c.sg 5) 0 12, BitVec.ofNat 64 (fld (c.sg 5) 12 52)⟩
    (.ok 7, s.modSched fun d => { d with sent := d.sent ++ [r], serials := d.serials + 1 })
  else (.error (.error cPERM (BitVec.ofNat 64 (fld (c.sg 1) 0 16))), s)

/-- What `rlaunch` does once it has started: payload and record go to the module's port as requests, unless its channel is stopped
or there is no path (R457 to R459); then it waits for the peer's answer. -/
def State.launchWork (s : State) (st : StreamId) (q : Nat) (c : Command) : Eng Nat :=
  let n := fld (c.sg 3) 0 21
  let m := fld (c.sg 1) 16 4
  let sent := c.info ≠ []
  Eng.andThen (if sent then (.ok [], s) else s.reachRecord st c) fun rec s =>
    (s.enginePages st c 1 false (if n = 0 || sent then [] else rowPages [c.addr 2] n)).andThen fun ps s =>
      Eng.andThen (if sent then (.ok [], s) else s.engineRead st c 0 ps (c.addr 2) n) fun load s =>
        (s.reachStatus st c 1 (c.addr 6)).andThen fun x s =>
          match s.portFrom (Config.portOf m) 16 with
          | none => (.error (.error cECC (BitVec.ofNat 64 (2 ^ 63 + m))), s)
          | some p =>
            if sent then s.launchAnswer st c x p
            else if bit (s.link p).stopSeen 0 || !(s.link p).out.isEmpty then (.error .wait, s)
            else
              let b := launchBytes (fld (c.sg 1) 0 16) c.asid (c.addr 4) n load rec
              let f := fun (d : List Byte) => (⟨1, 0, 2 * Config.module.toNat + st.die, 2 * m, d⟩ : Flit)
              (.error .wait, (s.modLink p fun k => { k with out := (flitPieces b).map f }).modCommand st q fun d => { d with info := [1] })

/-- The remote task of an `rlaunch` ends: its status word is written, and then its counter is added to, after the
acknowledgements of that write (R290, R157). -/
def execRlaunchRemoteEnd (s : State) : Out :=
  match s.subject with
  | .remoteEnd serial status =>
    match s.sched.sent.find? fun r => r.serial = serial with
    | none => .next s
    | some r =>
      match r.rstat with
      | some x =>
        let (m, w) := inLine x.pa 8 status.toNat
        let s := s.enginePut r.st 7 x m w
        .next ((s.modSched fun d => { d with sent := d.sent.map fun q => if q.serial = serial then { q with rstat := none } else q }).row
          .rlaunchRemoteEnd (.remoteEnd serial status))
      | none =>
        if Table.get 0 s.mm.owed r.st.die ≠ 0 then .next (s.row .rlaunchRemoteEnd (.remoteEnd serial status))
        else
          let s := s.modSched fun d => { d with sent := d.sent.filter fun q => q.serial ≠ serial }
          .next (if s.ctrOwner r.ctr = r.asid then s.ctrAdd r.ctr r.inc else s)
  | _ => .next s

/-- A translation that the sequencer or an external agent uses: the tables that PTBASE names, the same on every core (R398, R402). -/
def State.seqXlate (s : State) (asid : BitVec 16) (va : Nat) (a : Ask) : (Except (BitVec 8) Xl) × State :=
  let base := (s.common (.tile 0)).ptbase
  let u := s.walked 64 base asid (va % 2 ^ 48)
  match s.walk 64 base asid (va % 2 ^ 48) with
  | none => (.error cPFAULT, u)
  | some f =>
    let s := u
    let x := xlOf (BitVec.ofNat 64 f.leaf) f.page (va % 2 ^ 48) a.wr
    let need := (if f.leaf.testBit 6 then 0 else 64) + (if a.wr && !f.leaf.testBit 7 then 128 else 0)
    (if x.grants 1 { a with ex := false } then .ok x else .error cPERM, if need = 0 then s else s.setEntryBits f.addr need)

/-- The translations of a range of an address space, by page. -/
def State.seqPages (s : State) (asid : BitVec 16) (a : Ask) : List (Nat × Nat) → (Except (BitVec 8) (List Elem)) × State
  | [] => (.ok [], s)
  | (p, va) :: t =>
    match s.seqXlate asid va a with
    | (.error e, s) => (.error e, s)
    | (.ok x, s) => match s.seqPages asid a t with
      | (.ok l, s) => (.ok (⟨p, va, x⟩ :: l), s)
      | (.error e, s) => (.error e, s)

/-- External DMA's accesses (R402). -/
def askExternal (wr : Bool) : Ask := ⟨!wr, wr, false, some 7, 5⟩

/-- The state after bytes are written through translations at their homes, by an agent outside of a request class (R393); what reaches no
memory is dropped and noted (R447). -/
def State.putThrough (s : State) (cls : Nat) (pages : List Elem) (va : Nat) (b : List Byte) : State :=
  (linePieces va b.length).foldl (fun s p =>
    match xlAt pages p.1 with
    | some x => ((s.classed cls x).homeUses (linesIn x.pa p.2) true).putPhysBytes x.pa ((b.drop (p.1 - va)).take p.2)
    | none => s) s

/-- A remote launch arrives from a peer: for a queue that is exported to the issuer's tenant namespace (R428) its payload is written, then the record is
appended; a full queue holds it (R290). A queue that is not, or a payload without its pages, is refused to the peer. -/
def execRemoteLaunchReceive (s : State) : Out :=
  match s.subject with
  | .remote l =>
    let w := s.qword l.queue 1
    match s.qOwner l.queue with
    | none => .next s
    | some asid =>
      if !w.testBit 18 || w / 2 ^ 32 % 65536 ≠ l.space.toNat then .next s
      else if s.ringFull l.queue then .next (s.modSched fun d => { d with arriving := d.arriving ++ [l] })
      else
        let pages := if l.payload = [] then [] else rowPages [l.rpay.toNat] l.payload.length
        match s.seqPages asid (askExternal true) pages with
        | (.error _, s) => .next s
        | (.ok ps, s) =>
          let s := s.putThrough 6 ps l.rpay.toNat l.payload
          let r : RemoteRun := ⟨l.peer, l.serial, l.queue, BitVec.ofNat 32 (s.qword l.queue 4)⟩
          .next ((s.modSched fun d => { d with received := d.received ++ [r] }).appendRecord l.queue ((l.record ++ List.replicate 256 0).take 256))
  | _ => .next s

/-! ## Ray traversal (R291 to R295) -/

/-- The staging of the ray engine (R291). -/
def fitsRay (l : List Word) : Bool := fitStaging l [(0, 48), (1, 48), (2, 33)]

/-- Trace a ray for each active lane of the path (R291 to R295). -/
def planRtrace (o : COp) (s : State) : Plan :=
  s.planC (.rtrace o) o 6 o.rel fitsRay ((List.range 8).map fun k => (s.stream s.iss.st).readV (BitVec.ofNat 6 (o.sub 0 6 + k))) []

/-- A bundle of `RTRACE` alone. -/
def execRtrace (o : COp) (s : State) : Out := s.single (planRtrace o s)

/-- What `rtrace` does once it has started. -/
def State.rayWork (s : State) (st : StreamId) (c : Command) (o : COp) : Eng Nat :=
  (s.require (firstHalt [alignHalt (c.addr 0) 64, alignHalt (c.addr 1) 64])).andThen fun _ s =>
    (s.rays st c (lanesOf c.lanes)).andThen fun hits s => (.ok 6, s.putHits st (o.sub 6 6) hits)

/-! ## Joins (R266) -/

/-- A join of the commands issued before it in the queues of a mask (R266). -/
def planQfence (o : COp) (s : State) : Plan :=
  let x := s.stream s.iss.st
  let own := o.queue.toNat
  let qs := (List.range 16).filter fun q => q = own || bit o.low q
  s.planC (.qfence o) o 0 o.rel noStaging [] [(qs.map fun q => Table.get 0 x.widest q).foldl max 0]

/-- A bundle of `QFENCE` alone. -/
def execQfence (o : COp) (s : State) : Out := s.single (planQfence o s)

/-- What a join does: it waits for every command before it in the queues it joins. -/
def State.joinWork (s : State) (st : StreamId) (q : Nat) (c : Command) : Eng Nat :=
  if (s.stream st).queues.any fun e => c.joins q e.1 && e.2.any fun d => decide (d.seq < c.seq) then (.error .wait, s)
  else (.ok ((c.info.head?).getD 0), s)

end Sys2Proof.Machine
end

