-- ==== Sys2Proof/Machine/Sash.lean ====
section
/-! DEFINITION. Sashes: the directory, pages of typed buffers, moves, restores and evictions, the sash commands with their events
(R300 to R318, R322, R488). -/

namespace Sys2Proof.Machine

/-! ## The directory (R300 to R303) -/

/-- The name that a command uses (R300): at U its namespace is the ASID. -/
def sashName (priv : BitVec 2) (asid : BitVec 16) (name : Word) : Word := if priv = 0 then asid ++ name.setWidth 48 else name

/-- The name that a command uses, with the level and ASID of the context that issued it. -/
def Command.sash (c : Command) : Word := sashName c.priv c.asid (c.sg 8)

/-- The key of the entry that holds a name, if one does: 1024 × die + its number; of one that is live, neither FREE nor DEAD. -/
def State.sashHeld (s : State) (name : Word) : Option Nat := (s.sched.sashes.find? fun e => e.2.name = name).map (·.1)
def State.sashLive (s : State) (name : Word) : Option Nat :=
  (s.sched.sashes.find? fun e => e.2.name = name && e.2.st ≠ .dead).map (·.1)

/-- An entry, and the state with an entry changed. -/
def State.sash (s : State) (key : Nat) : SashEntry := Table.get SashEntry.none s.sched.sashes key
def State.modSash (s : State) (key : Nat) (f : SashEntry → SashEntry) : State :=
  s.modSched fun d => { d with sashes := Table.put d.sashes key (f (Table.get SashEntry.none d.sashes key)) }

/-- A key for a new entry of a die's directory; none of a full one. -/
def State.sashRoom (s : State) (die : Nat) : Option Nat :=
  (List.range 1024).findSome? fun k =>
    if (Table.find s.sched.sashes (1024 * die + k)).isSome then none else some (1024 * die + k)

/-- The pages of a space of a tile core (R29, R302). -/
def spacePages (space : Nat) : Nat := if space = 0 then 96 else if space = 1 then 48 else 160

/-- The tile core of an entry. -/
def SashEntry.tile (e : SashEntry) : Nat := e.core.toNat
def SashEntry.dest (e : SashEntry) : Nat := e.toCore.toNat

/-- The launch that a job belongs to, as an entry's CREATOR. -/
def State.launchId (s : State) (j : Option Job) : BitVec 32 :=
  match j with
  | some j => match s.sched.launches.find? fun l => l.queue = j.queue && l.record.toNat = j.record with
    | some l => BitVec.ofNat 32 l.order
    | none => BitVec.allOnes 32
  | none => BitVec.allOnes 32

/-! ## Pages (R488) -/

/-- The owner of a page, and the state with the owners of pages set. -/
def State.owner (s : State) (core space page : Nat) : PageOwner := Table.get .free (s.tile core).owners (space, page)
def State.own_ (s : State) (core space base n : Nat) (w : PageOwner) : State :=
  s.modTile core fun t =>
    { t with owners := (List.range n).foldl (fun o k =>
        if w = .free then Table.drop o (space, base + k) else Table.put o (space, base + k) w) t.owners }

/-- The bytes i to j - 1 of an element of the K-buffer. -/
def laccBytes (i j : Nat) : BitVec 640 := BitVec.ofNat 640 (2 ^ (8 * j) - 2 ^ (8 * i))

/-- The state after pages are newly allocated to an address space (R488): what another address space wrote last reads as zero; any
other byte holds zero or what was left, a free choice for each (log entry 6). An element of the K-buffer that reads as zero in part has its
sideband bits clear. -/
def State.freshPages (s : State) (core space base n : Nat) (asid : BitVec 16) : State :=
  let new := fun (page : Nat) => decide (base ≤ page ∧ page < base + n)
  let own := fun (page : Nat) => Table.find (s.tile core).writers (space, page) = some asid
  let cells := fun (m : List Host.Cell) => m.filter fun c => !new (c.1 / 65536) || (own (c.1 / 65536) && s.pickBit c.1)
  State.picked (s.modTile core fun t =>
    match space with
    | 0 => { t with wbuf := cells t.wbuf }
    | 1 => { t with abuf := cells t.abuf }
    | _ =>
      { t with kbuf := t.kbuf.map fun e =>
          let a := 80 * e.1
          let gone := ([a / 65536, (a + 79) / 65536].eraseDups).filter fun p => new p && !(own p && s.pickBit a)
          if gone = [] then e
          else
            (e.1, ⟨gone.foldl (fun v p => v &&& ~~~ laccBytes (max a (65536 * p) - a) (min (a + 80) (65536 * (p + 1)) - a)) e.2.val, 0⟩) })

/-- The bytes of pages of a core, and the state after pages are filled with bytes, written under an address space (R29, R313). -/
def State.pageBytes (s : State) (core space base n : Nat) : List Byte :=
  (s.tile core).bytes space (65536 * base) (65536 * n)
def State.fillPages (s : State) (core space base : Nat) (asid : BitVec 16) (b : List Byte) : State :=
  s.modTile core fun t =>
    let t := t.putBytes space (65536 * base) b
    { t with writers := (List.range (b.length / 65536)).foldl (fun w k => Table.put w (space, base + k) asid) t.writers }

/-! ## Making room (R318) -/

/-- The first pages of the runs of n pages of a space that a test frees. -/
def runsOf (space n : Nat) (free : Nat → Bool) : List Nat :=
  (List.range (spacePages space + 1 - n)).filter fun b => (List.range n).all fun k => free (b + k)

/-- What a request for contiguous pages comes to: a run, a wait for an eviction, none. -/
inductive Room where
  | run (base : Nat)
  | wait
  | none
  deriving DecidableEq, Repr

/-- The candidates for eviction on a core, in increasing LASTREL, then base page (R318). -/
def SashEntry.older (a b : Nat × SashEntry) : Bool :=
  a.2.lastrel.toNat < b.2.lastrel.toNat || (a.2.lastrel = b.2.lastrel && a.2.base.toNat ≤ b.2.base.toNat)
def insertSash (x : Nat × SashEntry) : List (Nat × SashEntry) → List (Nat × SashEntry)
  | [] => [x]
  | y :: t => if SashEntry.older x y then x :: y :: t else y :: insertSash x t
def State.candidates (s : State) (core req : Nat) : List (Nat × SashEntry) :=
  (s.sched.sashes.filter fun e =>
    e.2.st = .resident && e.2.cls = 1 && e.2.attach = 0 && e.2.backing ≠ 0 && e.2.tile = core
      && !s.sched.faulted.contains (req, e.1)).foldr insertSash []

/-- The state after an eviction of an entry starts (R304). -/
def State.startEvict (s : State) (key : Nat) (client : Option (StreamId × Nat)) (req : Nat) : State :=
  State.picked (s.modSash key fun e =>
    { e with st := .evicting, client := client, own := client.isNone, request := req, wrote := false,
             due := s.clocks + 1 + s.pick key })

/-- A request for n contiguous pages of a space of a core (R318): where more than one run is free, any of them (log entry 6). -/
def State.makeRoom (s : State) (core space n req : Nat) : Room × State :=
  let free := fun p => s.owner core space p = .free
  match runsOf space n free with
  | r :: rs => (.run (((r :: rs)[s.pick 0 % (rs.length + 1)]?).getD r), s.picked)
  | [] =>
    if s.sched.sashes.any fun e => e.2.st = .evicting && e.2.own && e.2.tile = core then (.wait, s)
    else
      let cs := s.candidates core req
      let gone := fun p => free p || cs.any fun e => e.2.space.toNat = space && decide (e.2.base.toNat ≤ p ∧ p < e.2.base.toNat + e.2.pages.toNat)
      match runsOf space n gone, cs with
      | _ :: _, c :: _ =>
        (.wait, (s.startEvict c.1 none req).note .sequencer (core / 32) (core % 32) 6 c.2.asid c.2.name 0)
      | _, _ => (.none, s)

/-! ## Ends of a sash's life (R304, R314, R315, R317) -/

/-- The state after an entry becomes FREE: its pages are free. -/
def State.freeSash (s : State) (key : Nat) : State :=
  let e := s.sash key
  let s := if e.st = .evicted then s else s.own_ e.tile e.space.toNat e.base.toNat e.pages.toNat .free
  s.modSched fun d => { d with sashes := Table.drop d.sashes key }

/-- The state after an entry is dropped (R315); one in EVICTING or RESTORING is dropped when that ends. -/
def State.dropSash (s : State) (key : Nat) : State :=
  let e := s.sash key
  match e.st with
  | .resident => if e.attach = 0 then s.freeSash key else s.modSash key fun e => { e with st := .dead }
  | .evicted => s.freeSash key
  | .evicting | .restoring => s.modSash key fun e => { e with dropping := true }
  | _ => s

/-- The state after an attachment is released (R314, R317): of RW the generation advances, unless a rerun releases it. -/
def State.releaseSash (s : State) (key : Nat) (rw advance : Bool) : State :=
  let s := s.modSash key fun e =>
    { e with attach := e.attach - 1, rwh := if rw then false else e.rwh, gen := if rw && advance then e.gen + 1 else e.gen,
             advanced := e.advanced || (rw && advance), lastrel := s.ltime }
  let e := s.sash key
  if e.st = .dead && e.attach = 0 then s.freeSash key else s

/-- The state after a change of state has ended: an entry that is to be dropped is. -/
def State.settleSash (s : State) (key : Nat) : State :=
  if (s.sash key).dropping then (s.modSash key fun e => { e with dropping := false }).dropSash key else s

/-- The key of an attachment. -/
def Attach.key (a : Attach) : Nat := 1024 * b2n a.die + a.entry

/-- The state after every attachment of a stream is released; of a rerun, what the task created and never advanced is dropped
(R317). -/
def State.releaseAll (s : State) (st : StreamId) (advance : Bool) : State :=
  let x := s.stream st
  let s := x.attached.foldl (fun s a => s.releaseSash a.key a.rw advance) (s.setStream st { x with attached := [] })
  if advance then s
  else (s.sched.sashes.filter fun e => x.job.isSome && e.2.maker = x.job && !e.2.advanced).foldl (fun s e => s.dropSash e.1) s

/-! ## Attachments (R308, R312, R313) -/

/-- Whether a generation is at least another (R312). -/
def atLeast (g m : BitVec 32) : Bool := (g - m).toNat < 2 ^ 31

/-- The state after an attach is performed for a stream: the count rises, its pages are reachable once the base lands. -/
def State.attach (s : State) (st : StreamId) (key : Nat) (rw landed : Bool) : State :=
  let e := s.sash key
  let s := s.modSash key fun e => { e with attach := e.attach + 1, rwh := e.rwh || rw }
  s.modStream st fun x =>
    { x with attached := x.attached ++ [⟨key / 1024 = 1, key % 1024, e.name, rw, e.space.toNat, e.base.toNat, e.pages.toNat, landed⟩] }

/-- The state with a value to land at the stream's next bundle boundary (R308, R313). -/
def State.landLater (s : State) (st : StreamId) (b : BaseLand) : State := s.modStream st fun x => { x with bases := x.bases ++ [b] }

/-- The state with the failure predicate of a `satt` to be written, if it names one (R313). -/
def State.landFail (s : State) (st : StreamId) (c : Command) (v : Bool) : State :=
  match c.op with
  | .satt o =>
    if o.sub 6 4 = 0 then s
    else s.landLater st ⟨c.seq, .p (BitVec.ofNat 4 (o.sub 6 4)), if v then 1 else 0, 0⟩
  | _ => s

/-- What sash commands whose tokens are DONE or ERROR return lands at a bundle boundary of the context: bases, which enter the C latch and
make the pages reachable, and failure predicates (R308, R313). -/
def execBaseLanding (s : State) : Out :=
  match s.subject with
  | .stream st =>
    let x := s.stream st
    let s := s.setStream st { x with bases := x.bases.filter fun b => !x.mayLand b }
    .next ((x.bases.filter x.mayLand).foldl (fun s b =>
      let val : VWord := match b.dest with | .p _ => if b.val = 0 then 0 else BitVec.allOnes 1024 | _ => b.val.setWidth 1024
      let r : Result :=
        ⟨x.time, x.seq, .c, b.dest, BitVec.allOnes 128, val, match b.dest with | .p _ => false | _ => true, false, 0, 0⟩
      (s.landOne st r).modStream st fun y =>
        { y with attached := y.attached.map fun a => if a.name = b.name && b.dest ≠ .none then { a with landed := true } else a }) s)
  | _ => .next s

/-! ## Commands: issue (R305, R306, R309 to R315) -/

/-- The directory answers the held sash command of a context, which then issues or raises its precise condition (R305). -/
def execSashDirectoryAnswer (s : State) : Out :=
  match s.subject with
  | .stream st => .next (s.modStream st fun x => if x.dirAsk.isSome then { x with dirAns := true } else x)
  | _ => .next s

/-- The bits of the staging registers that each sash command uses (R306). -/
def fitsSash (used : List (Nat × Nat)) (l : List Word) : Bool := fitStaging l ((12, 48) :: used)
def fitsOpen (evicted : Bool) (l : List Word) : Bool :=
  let w := (l[9]?).getD 0
  let p := fld w 8 8
  fitsSash [(10, 32), (11, 48)] l && fld w 2 6 = 0 && fld w 18 46 = 0 && fld w 0 2 ≠ 3 && fld w 16 2 ≠ 3
    && decide (1 ≤ p ∧ p ≤ spacePages (fld w 0 2)) && !(evicted && (fld w 16 2 = 0 || ((l[11]?).getD 0) = 0))

/-- #ATTMISS with a reason. -/
def attMiss (r : Nat) : Raise := .service cATTMISS (BitVec.ofNat 64 r)

/-- The plan of a sash command: it waits for the directory's answer; then its precise conditions (R305). -/
def State.planSash (s : State) (i : Instr) (o : COp) (fits : List Word → Bool) (bad : Option Raise) (before : State → State)
    (info : List Nat) : Plan :=
  let st := s.iss.st
  let x := s.stream st
  let p := s.planC i o 5 false fits [] info
  { p with
    hold := p.hold || !x.dirAns,
    wait := fun t =>
      if (t.stream st).dirAsk.isSome then t
      else State.picked (t.modStream st fun x => { x with dirAsk := some (s.ltime + 1 + BitVec.ofNat 48 (s.pick 0)) }),
    val := p.val.orElse fun _ => bad,
    eff := fun t => p.eff (before t) }

/-- The name that the command being issued uses. -/
def State.sashNameNow (s : State) : Word :=
  let x := s.stream s.iss.st
  sashName x.csr.priv x.csr.asid (Table.get 0 x.staging 88)

/-- The state after `sopen` takes its name at the directory for its command in a queue, or finds it full, which that command will report
(R309, R322): name and staging are those that its bundle found (R153). -/
def State.reserveSash (s : State) (q : Nat) (name : Word) (sg : List Word) : State :=
  let st := s.iss.st
  let x := s.stream st
  match s.sashRoom st.die with
  | some key =>
    let w := (sg[9]?).getD 0
    s.modSash key fun e =>
      { e with name := name, st := .restoring, cls := bits w 16 2, space := bits w 0 2, pages := bits w 8 8,
               core := BitVec.ofNat 6 st.tileOf, toCore := BitVec.ofNat 6 st.tileOf, backing := bits ((sg[11]?).getD 0) 0 48,
               asid := x.csr.asid, gen := bits ((sg[10]?).getD 0) 0 32, creator := s.launchId x.job, lastrel := s.ltime,
               creating := true, maker := x.job, client := some (st, q), request := x.seq }
  | none => s

/-- Whether an entry is the one that a `sopen` command has reserved. -/
def SashEntry.reservedBy (e : SashEntry) (c : Command) (st : StreamId) (q : Nat) : Bool :=
  e.creating && e.client = some (st, q) && e.request = c.seq

/-- The precise conditions of `sopen` (R301, R309). -/
def State.openRaise (s : State) : Option Raise :=
  let x := s.stream s.iss.st
  if fld (Table.get 0 x.staging 89) 16 2 = 2 ∧ x.csr.priv = 0 then some (.service cPRIV 6)
  else if (s.sashHeld s.sashNameNow).isSome then some (attMiss 6) else none

/-- Create a sash on the issuing core, attached RW, and return its base (R309). -/
def planSopen (o : COp) (s : State) : Plan :=
  s.planSash (.sopen o) o (fitsOpen false) s.openRaise
    (State.reserveSash · o.queue.toNat s.sashNameNow ((s.stream s.iss.st).stagingOf 5)) []

/-- A bundle of `SOPEN` alone. -/
def execSopen (o : COp) (s : State) : Out := s.single (planSopen o s)

/-- Create a sash EVICTED, its contents in its backing region (R301, R309). -/
def planSopenEvicted (o : COp) (s : State) : Plan :=
  s.planSash (.sopenEvicted o) o (fitsOpen true) s.openRaise
    (State.reserveSash · o.queue.toNat s.sashNameNow ((s.stream s.iss.st).stagingOf 5)) []

/-- A bundle of `SOPEN_EVICTED` alone. -/
def execSopenEvicted (o : COp) (s : State) : Out := s.single (planSopenEvicted o s)

/-- The reason for which `satt` is refused at issue (R311). -/
def State.attRefused (s : State) (o : COp) : Option Raise :=
  let st := s.iss.st
  let x := s.stream st
  let name := s.sashNameNow
  match s.sashLive name with
  | none => some (attMiss 0)
  | some k =>
    let e := s.sash k
    let away := (if e.st = .restoring then e.dest else e.tile) ≠ st.tileOf
    if (e.st = .resident || e.st = .restoring) && away && !bit o.flags 1 then some (attMiss 1)
    else if (e.st = .evicted || e.st = .evicting) && !bit o.flags 2 then some (attMiss 2)
    else if away && e.rwh then some (attMiss 3)
    else if (x.attached.any fun a => a.name = name) || decide (16 ≤ x.attached.length) then some (attMiss 4)
    else if name.extractLsb' 48 16 ≠ x.csr.asid then some (attMiss 5)
    else none

/-- Attach a sash, moving or restoring it where a flag allows it, and return its base (R310 to R313). -/
def planSatt (o : COp) (s : State) : Plan :=
  s.planSash (.satt o) o (fitsSash [(10, 32)]) (s.attRefused o) id []

/-- A bundle of `SATT` alone. -/
def execSatt (o : COp) (s : State) : Out := s.single (planSatt o s)

/-- The attachment that a stream holds of a name. -/
def Stream.holding (x : Stream) (name : Word) : Option Attach := x.attached.find? fun a => a.name = name

/-- Release a sash: out of reach from the next bundle, released once earlier writes to it are done (R314). -/
def planSrel (o : COp) (s : State) : Plan :=
  let name := s.sashNameNow
  let p := s.planSash (.srel o) o (fitsSash []) (if ((s.stream s.iss.st).holding name).isSome then none else some (attMiss 0)) id []
  { p with
    eff := fun t => (p.eff t).modStream s.iss.st fun x => { x with attached := x.attached.filter fun a => decide (a.name ≠ name) } }

/-- A bundle of `SREL` alone. -/
def execSrel (o : COp) (s : State) : Out := s.single (planSrel o s)

/-- The precise conditions of `sevict` and `sdrop` (R315). -/
def State.endRaise (s : State) : Option Raise :=
  match s.sashLive s.sashNameNow with
  | none => some (attMiss 0)
  | some k => if (s.sash k).cls = 2 ∧ (s.stream s.iss.st).csr.priv = 0 then some (.service cPRIV 6) else none

/-- Write a sash back to its backing region and free its pages (R315). -/
def planSevict (o : COp) (s : State) : Plan :=
  s.planSash (.sevict o) o (fitsSash []) s.endRaise id []

/-- A bundle of `SEVICT` alone. -/
def execSevict (o : COp) (s : State) : Out := s.single (planSevict o s)

/-- End a sash's life (R315). -/
def planSdrop (o : COp) (s : State) : Plan :=
  s.planSash (.sdrop o) o (fitsSash []) s.endRaise id []

/-- A bundle of `SDROP` alone. -/
def execSdrop (o : COp) (s : State) : Out := s.single (planSdrop o s)

/-! ## Backing (R306, R315) -/

/-- The translations of an entry's backing region, under its ASID: R, W and the copy engine's bit. -/
def State.backPages (s : State) (key : Nat) (e : SashEntry) (wr : Bool) : List (Nat × Nat) → Eng (List Elem)
  | [] => (.ok [], s)
  | (p, va) :: t =>
    if s.walking (.tile e.tile false) e.asid va then
      (.error .wait, s.joinWalk (.tile e.tile false) e.asid va (.sash key va (if wr then 5 else 4))) else
    match s.xlate (.tile e.tile false) 1 e.asid va ⟨true, true, false, none, if wr then 5 else 4⟩ with
    | (.error code, s) => (.error (.fault code va (if wr then 5 else 4)), s)
    | (.ok x, s) =>
      if !x.em.testBit 1 then (.error (.error cPERM (BitVec.ofNat 64 va)), s)
      else (s.backPages key e wr t).andThen fun l s => (.ok (⟨p, va, x⟩ :: l), s)

/-- The address and size of an entry's backing region. -/
def SashEntry.region (e : SashEntry) : Nat × Nat := (e.backing.toNat, 65536 * e.pages.toNat)

/-- A command of a stream's own making, for accesses that the sequencer makes for an entry. -/
def Command.plain (cls : Nat) : Command :=
  { op := .cnop, o := ⟨0, 0, 0, false, false, 0, 0⟩, token := 0, cls := cls, ulic := false, rel := false, staging := [], regs := [],
    lanes := 0, priv := 1, asid := 0, seq := 0, attached := [], started := true, shown := true, due := 0, moved := none, fail := none, info := [], members := [] }

/-- The class of an entry's accesses: of the command that it serves, else of tier movement (R393). -/
def State.sashCommand (s : State) (e : SashEntry) : Command :=
  match e.client with
  | some (st, q) => match (s.stream st).commands q with | c :: _ => c | [] => Command.plain 4
  | none => Command.plain 4

/-- The state after a recoverable fault of an access for an entry: of a command's, its queue stalls; of the sequencer's own eviction
it is taken at once as ended (R318); of the sequencer's own restore the launch fails. -/
def State.sashFault (s : State) (key : Nat) (code : BitVec 8) (va access : Nat) : State :=
  match (s.sash key).client with
  | some (st, q) => s.engineFault st q code va access
  | none => s.row .evictionWritebackFault (.num2 key va)

/-- The state after an eviction ends with its pages kept (R304). -/
def State.keepSash (s : State) (key : Nat) : State :=
  (s.modSash key fun e => { e with st := .resident, client := none, own := false, wrote := false }).settleSash key

/-- The state after a move or restore of an entry is given up: the new pages are free, the sash is where it was (R304). -/
def State.bringFails (s : State) (key : Nat) : State :=
  let e := s.sash key
  let s := s.own_ e.dest e.space.toNat e.toBase.toNat e.pages.toNat .free
  (s.modSash key fun e => { e with st := if e.moving then .resident else .evicted, client := none, own := false }).settleSash key

/-- A write-back fault of an eviction, or a fault of a restore, that the sequencer started is noted with its address and taken as ended with
FAIL: the sash keeps its pages and is not chosen again for the request, or stays in its backing (R304, R318). -/
def execEvictionWritebackFault (s : State) : Out :=
  match s.subject with
  | .num2 key va =>
    let e := s.sash key
    let s := s.note .sequencer (e.tile / 32) (e.tile % 32) 7 e.asid e.name (BitVec.ofNat 64 va)
    if e.st = .evicting then .next ((s.modSched fun d => { d with faulted := (e.request, key) :: d.faulted }).keepSash key)
    else if e.st = .restoring then .next ((s.modSched fun d => { d with faulted := (e.request, key) :: d.faulted }).bringFails key)
    else .next s
  | _ => .next s

/-- The state with lines that its die L2 has written passed on to their homes. -/
def State.passHome (s : State) (die : Nat) (pages : List Elem) : State :=
  ((pages.map fun e => e.x.pa / 128 / 32 * 32).eraseDups).foldl (fun s l => (List.range 32).foldl (fun s k => s.agentClean die (l + k)) s) s

/-- The state after the write-back of the `sevict` at the head of a queue is acknowledged: its status is OK, whatever is done with the
entry next (R315, R322). -/
def State.evictDone (s : State) (st : StreamId) (q : Nat) : State :=
  match (s.stream st).commands q with
  | c :: _ =>
    match s.reachStatus st c 1 (c.addr 12) with
    | (.ok x, s) =>
      (s.putStatus st c x 0).modCommand st q fun d => { d with moved := some (widen 7 x) }
    | (.error _, s) => s.modCommand st q fun d => { d with moved := some 7 }
  | [] => s

/-- The pages of an eviction are written to their backing region, and once the writes are acknowledged at the home the
pages are free and the sash EVICTED (R304, R315). A fault is recoverable, or ends an eviction of the sequencer's own. -/
def execSashWritebackAck (s : State) : Out :=
  match s.subject with
  | .sash key =>
    let e := s.sash key
    if e.st ≠ .evicting then .next s
    else if e.wrote then
      if Table.get 0 s.mm.owed (e.tile / 32) ≠ 0 then .next (s.row .sashWritebackAck (.sash key))
      else
        let s := s.own_ e.tile e.space.toNat e.base.toNat e.pages.toNat .free
        let s := (s.modSash key fun e => { e with st := .evicted, own := false, client := none }).settleSash key
        .next (match e.client with
          | some (st, q) => s.evictDone st q
          | none => s)
    else
      let (va, n) := e.region
      match s.backPages key e true (rowPages [va] n) with
      | (.error (.fault code a access), s) => .next (s.sashFault key code a access)
      | (.error (.error code v), s) =>
        .next (match e.client with
          | some (st, q) => (s.keepSash key).endCommand st q (.error code v)
          | none => s.row .evictionWritebackFault (.num2 key v.toNat))
      | (.error .wait, s) => .next s
      | (.ok ps, s) =>
        let data := s.pageBytes e.tile e.space.toNat e.base.toNat e.pages.toNat
        let s := (s.engineWrite (.tile e.tile false) (s.sashCommand e) 0 ps [(va, data)]).passHome (e.tile / 32) ps
        .next ((s.modSash key fun e => { e with wrote := true }).row .sashWritebackAck (.sash key))
  | _ => .next s

/-! ## Moves, restores and attaches (R304, R313, R322) -/

/-- What a waiting attach may do now. -/
inductive AttStep where
  | attach
  | bring
  | wait (real : Bool)
  | refuse (reason : Nat)
  deriving DecidableEq, Repr

/-- The next step of an attach of an entry on a core (R313): of a sash that is resident elsewhere, without MOVE, it waits (R304). -/
def SashEntry.step (e : SashEntry) (core : Nat) (rw move restore : Bool) (gen : BitVec 32) (mine : Bool) : AttStep :=
  match e.st with
  | .free | .dead => .refuse 0
  | .restoring => .wait (!mine)
  | .evicting => .wait true
  | .evicted => if restore then .bring else .refuse 2
  | .resident =>
    if e.tile ≠ core then
      if e.rwh && move then .refuse 3 else if e.attach ≠ 0 || !move then .wait true else .bring
    else if !atLeast e.gen gen || (e.attach ≠ 0 && (rw || e.rwh)) then .wait true
    else .attach

/-- A `satt` command's next step. -/
def Command.attStep (c : Command) (st : StreamId) (q : Nat) (o : COp) (e : SashEntry) : AttStep :=
  e.step st.tileOf (bit o.flags 0) (bit o.flags 1) (bit o.flags 2) (bits (c.sg 10) 0 32) (e.client = some (st, q))

/-- The turn that a command took when it reached the directory. -/
def Command.turn (c : Command) : Nat := (c.info.head?).getD 0

/-- Whether another `satt` that waits at an entry came before this one and may act now (R322). -/
def State.precedes (s : State) (name : Word) (e : SashEntry) (turn : Nat) : Bool :=
  s.streams.any fun x => x.2.queues.any fun q => match q.2 with
    | d :: _ => match d.op with
      | .satt o =>
        d.started && d.fail.isNone && !d.info.isEmpty && decide (d.turn < turn) && d.sash = name
          && (match d.attStep x.1 q.1 o e with | .attach | .bring => true | _ => false)
      | _ => false
    | [] => false

/-- The state after a `satt` attaches and ends (R313). -/
def State.attachDone (s : State) (st : StreamId) (q : Nat) (c : Command) (o : COp) (key : Nat) : State :=
  let e := s.sash key
  let s := s.attach st key (bit o.flags 0) false
  let s := s.landLater st ⟨c.seq, .s (BitVec.ofNat 6 (o.sub 0 6)), BitVec.ofNat 64 (65536 * e.base.toNat), e.name⟩
  let s := if bit o.flags 3 then s else s.landFail st c false
  match s.reachStatus st c 1 (c.addr 12) with
  | (.ok x, s) => (s.putStatus st c x 0).modCommand st q fun d => { d with moved := some (widen 3 x) }
  | (.error _, s) => s.modCommand st q fun d => { d with moved := some 3 }

/-- The attach of the `satt` at the head of a queue is performed, if its three conditions hold (R313). -/
def execSattAttach (s : State) : Out :=
  match s.subject with
  | .streamNum st q =>
    match (s.stream st).commands q with
    | c :: _ =>
      match c.op, s.sashLive (c.sash) with
      | .satt o, some key =>
        if c.moved.isNone && c.attStep st q o (s.sash key) = .attach then .next (s.attachDone st q c o key) else .next s
      | _, _ => .next s
    | [] => .next s
  | _ => .next s

/-- The state after a move or restore of an entry to a core starts, into pages allocated there (R304). -/
def State.startBring (s : State) (key core base : Nat) (client : Option (StreamId × Nat)) (req : Nat) : State :=
  let e := s.sash key
  let s := s.own_ core e.space.toNat base e.pages.toNat (.sash (key / 1024 = 1) (key % 1024))
  State.picked (s.modSash key fun e =>
    { e with moving := e.st = .resident, st := .restoring, toCore := BitVec.ofNat 6 core, toBase := BitVec.ofNat 8 base, client := client,
             own := client.isNone, request := req, due := s.clocks + 1 + s.pick key })

/-- The state after a move or restore of an entry meets an error: the attach that waits for it ends with ERROR (R304). -/
def State.bringError (s : State) (key : Nat) (code : BitVec 8) (v : Word) : State :=
  let e := s.sash key
  let s := s.bringFails key
  match e.client with
  | some (st, q) => match (s.stream st).commands q with
    | c :: _ => (s.landFail st c true).endCommand st q (.error code v)
    | [] => s
  | none => s.modSched fun d => { d with faulted := (e.request, key) :: d.faulted }

/-- The state after an uncorrectable error in a page that a write-back or a move of an entry reads (R304, R315): the sash stays where it was,
and the command that caused it ends with ERROR #ECC. The TVAL is free (log entry 6). -/
def State.pageError (s : State) (key : Nat) : State :=
  let e := s.sash key
  let v := BitVec.ofNat 64 (s.pick 0)
  let s := s.picked.note .ecc (e.tile / 32) (e.tile % 32) 15 e.asid v e.name
  if e.st = .evicting && !e.wrote then
    match e.client with
    | some (st, q) => (s.keepSash key).endCommand st q (.error cECC v)
    | none => (s.modSched fun d => { d with faulted := (e.request, key) :: d.faulted }).keepSash key
  else if e.st = .restoring && e.moving && !e.creating then s.bringError key cECC v
  else s

/-- A move or restore completes: the pages hold the sash's contents, the old ones are free, the sash is RESIDENT on
its new core, and the attach that waits is performed (R304, R313). -/
def execSashRestoreComplete (s : State) : Out :=
  match s.subject with
  | .sash key =>
    let e := s.sash key
    if e.st ≠ .restoring || e.creating then .next s
    else
      let (va, n) := e.region
      let got : Eng (List Byte) :=
        if e.moving then (.ok (s.pageBytes e.tile e.space.toNat e.base.toNat e.pages.toNat), s)
        else (s.backPages key { e with core := e.toCore } false (rowPages [va] n)).andThen fun ps s =>
          s.engineRead (.tile e.dest false) (s.sashCommand e) 0 ps va n
      match got with
      | (.error (.fault code a access), s) => .next (s.sashFault key code a access)
      | (.error (.error code v), s) => .next (s.bringError key code v)
      | (.error .wait, s) => .next s
      | (.ok data, s) =>
        let s := s.fillPages e.dest e.space.toNat e.toBase.toNat e.asid data
        let s := if e.moving then s.own_ e.tile e.space.toNat e.base.toNat e.pages.toNat .free else s
        let s := (s.modSash key fun e => { e with st := .resident, core := e.toCore, base := e.toBase, client := none, own := false }).settleSash key
        match e.client with
        | some (st, q) => .next (s.next [.row .sattAttach (.streamNum st q)])
        | none => .next s
  | _ => .next s

/-! ## What the commands do (R309 to R315) -/

/-- The checks of a sash command before it acts: its status word and, for `sopen`, BACKING (R268, R306, R307). -/
def State.sashReach (s : State) (st : StreamId) (c : Command) (backing : Bool) : Eng (Option Xl) :=
  (s.require (firstHalt [alignHalt (c.addr 12) 8, if backing then alignHalt (c.addr 11) 65536 else none])).andThen fun _ s =>
    s.reachStatus st c 1 (c.addr 12)

/-- The state with a command's turn at the directory taken. -/
def State.takeTurn (s : State) (st : StreamId) (q : Nat) (c : Command) : Command × State :=
  if c.info = [] then
    let n := s.sched.order + 1
    ({ c with info := [n] }, (s.modSched fun d => { d with order := n }).modCommand st q fun d => { d with info := [n] })
  else (c, s)

/-- What `sopen` does once it has started. -/
def State.openWork (s : State) (st : StreamId) (q : Nat) (c : Command) (o : COp) (evicted : Bool) : Eng Nat :=
  let name := c.sash
  let full := Halt.error cBOUNDS (BitVec.ofNat 64 (2 ^ 62))
  (s.sashReach st c true).andThen fun x s =>
    match s.sashHeld name with
    | none => (.error full, s)
    | some key =>
      let e := s.sash key
      if !e.reservedBy c st q then (.error full, s)
      else if evicted then
        let s := s.modSash key fun e => { e with st := .evicted, creating := false, client := none }
        (.ok (widen 3 x), (s.putStatus st c x 0).settleSash key)
      else
        let (c, s) := s.takeTurn st q c
        match s.makeRoom st.tileOf e.space.toNat e.pages.toNat c.turn with
        | (.none, s) => (.error (.error cBOUNDS (BitVec.ofNat 64 (2 ^ 63 + e.pages.toNat))), s)
        | (.wait, s) => (.error .wait, s)
        | (.run base, s) =>
          let s := s.own_ st.tileOf e.space.toNat base e.pages.toNat (.sash (key / 1024 = 1) (key % 1024))
          let s := s.freshPages st.tileOf e.space.toNat base e.pages.toNat e.asid
          let s := s.modSash key fun e => { e with st := .resident, base := BitVec.ofNat 8 base, creating := false, client := none }
          let s := (s.attach st key true false).landLater st
            ⟨c.seq, .s (BitVec.ofNat 6 (o.sub 0 6)), BitVec.ofNat 64 (65536 * base), name⟩
          (.ok (widen 3 x), (s.putStatus st c x 0).settleSash key)

/-- What `satt` does once it has started. -/
def State.attWork (s : State) (st : StreamId) (q : Nat) (c : Command) (o : COp) : Eng Nat :=
  let name := c.sash
  (s.sashReach st c false).andThen fun x s =>
    let (c, s) := s.takeTurn st q c
    match s.sashLive name with
    | none => (.error (.error cATTMISS 0), s)
    | some key =>
      let e := s.sash key
      let failWait := (Except.ok (widen 3 x), (s.putStatus st c x 4).landFail st c true)
      match c.attStep st q o e with
      | .refuse r => (.error (.error cATTMISS (BitVec.ofNat 64 r)), s)
      | .wait true => if bit o.flags 3 then failWait else (.error .wait, s)
      | .wait false =>
        if e.due ≤ s.clocks then (.error .wait, s.row .sashRestoreComplete (.sash key)) else (.error .wait, s)
      | .attach =>
        if s.precedes name e c.turn then (.error .wait, s) else (.error .wait, s.row .sattAttach (.streamNum st q))
      | .bring =>
        if s.precedes name e c.turn then (.error .wait, s)
        else match s.makeRoom st.tileOf e.space.toNat e.pages.toNat c.turn with
          | (.none, s) => (.error (.error cBOUNDS (BitVec.ofNat 64 (2 ^ 63 + e.pages.toNat))), s)
          | (.wait, s) => (.error .wait, s)
          | (.run base, s) => (.error .wait, s.startBring key st.tileOf base (some (st, q)) c.turn)

/-- Rows of a destination in a space. -/
def destRows (o space : Nat) (rows : List Nat) (len : Nat) : List (Nat × Nat) := if o = space + 1 then rows.map fun a => (a, len) else []

/-- The region of a space that a command may write, as its staging describes it (R314). -/
def Command.writes (c : Command) (space : Nat) : List (Nat × Nat) :=
  match c.op with
  | .copy o | .qbcast o => let b := c.target o; destRows b.space space b.rows b.len
  | .gath o => destRows (o.sub 4 4) space (strided (c.addr 2) (fld (c.sg 4) 32 32) (fld (c.sg 3) 32 32)) (fld (c.sg 3) 0 32)
  | .scat o => destRows (o.sub 0 4) space (strided (c.addr 0) (fld (c.sg 4) 0 32) (fld (c.sg 5) 0 32)) (fld (c.sg 3) 0 32)
  | _ => []

/-- Whether a write of a context to a sash's pages, issued before a bundle, is under way (R314). -/
def State.writesTo (s : State) (st : StreamId) (a : Attach) (seq : Nat) : Bool :=
  let lo := 65536 * a.base
  let hi := 65536 * (a.base + a.pages)
  let meets := fun (p n : Nat) => decide (n ≠ 0 ∧ p < hi ∧ lo < p + n)
  ((s.stream st).queues.any fun q => q.2.any fun d => decide (d.seq < seq) && (d.writes a.space).any fun w => meets w.1 w.2)
    || ((s.tile st.tileOf).commits.any fun d => d.st = st && d.space = a.space && d.writes.any fun w => meets w.1 d.size)
    || ((s.tile st.tileOf).commits.any fun d => d.st = st && a.space = 2 && match d.tags with
        | some n => meets (0x280000 * n) 0x280000
        | none => false)

/-- The attachment that an `srel` command releases: the one that it had when it issued. -/
def Command.released (c : Command) : Option Attach :=
  c.attached.find? fun a => a.name = c.sash

/-- The release of the `srel` at the head of a queue is performed once earlier writes to the sash are (R314). -/
def execSrelComplete (s : State) : Out :=
  match s.subject with
  | .streamNum st q =>
    match (s.stream st).commands q with
    | c :: _ =>
      match c.op, c.moved, c.released with
      | .srel _, none, some a =>
        if c.info = [] || s.writesTo st a c.seq then .next s
        else
          let s := s.releaseSash a.key a.rw true
          match s.reachStatus st c 1 (c.addr 12) with
          | (.ok x, s) => .next ((s.putStatus st c x 0).modCommand st q fun d => { d with moved := some (widen 3 x) })
          | (.error _, s) => .next (s.modCommand st q fun d => { d with moved := some 3 })
      | _, _, _ => .next s
    | [] => .next s
  | _ => .next s

/-- What `srel` does once it has started. -/
def State.relWork (s : State) (st : StreamId) (q : Nat) (c : Command) : Eng Nat :=
  (s.sashReach st c false).andThen fun _ s =>
    let (c, s) := s.takeTurn st q c
    match c.released with
    | some a => if s.writesTo st a c.seq then (.error .wait, s) else (.error .wait, s.row .srelComplete (.streamNum st q))
    | none => (.error (.error cATTMISS 0), s)

/-- What `sevict` does once it has started (R315). -/
def State.evictWork (s : State) (st : StreamId) (q : Nat) (c : Command) : Eng Nat :=
  let name := c.sash
  (s.sashReach st c false).andThen fun x s =>
    let done := fun (s : State) (v : Nat) => (Except.ok (widen 7 x), s.putStatus st c x v)
    match s.sashLive name with
    | none => (.error (.error cATTMISS 0), s)
    | some key =>
      let e := s.sash key
      match e.st with
      | .evicted => done s 0
      | .resident =>
        if e.attach ≠ 0 then done s 1 else if e.cls = 2 then done s 3 else if e.backing = 0 then done s 2
        else (.error .wait, s.startEvict key (some (st, q)) 0)
      | .evicting =>
        if e.client = some (st, q) && e.due ≤ s.clocks then (.error .wait, s.row .sashWritebackAck (.sash key)) else (.error .wait, s)
      | _ => (.error .wait, s)

/-- What `sdrop` does once it has started (R315). -/
def State.dropWork2 (s : State) (st : StreamId) (c : Command) : Eng Nat :=
  let name := c.sash
  (s.sashReach st c false).andThen fun x s =>
    match s.sashLive name with
    | none => (.ok (widen 3 x), s.putStatus st c x 0)
    | some key =>
      match (s.sash key).st with
      | .evicting | .restoring => (.error .wait, s)
      | _ => (.ok (widen 3 x), (s.dropSash key).putStatus st c x 0)

/-- The state after the sash command at the head of a queue ends with ERROR: what it had under way is undone (R304, R309, R313). -/
def State.undoSash (s : State) (st : StreamId) (q : Nat) (c : Command) : State :=
  let name := c.sash
  match c.op with
  | .sopen _ | .sopenEvicted _ =>
    match s.sashHeld name with
    | some key => if (s.sash key).reservedBy c st q then s.modSched fun d => { d with sashes := Table.drop d.sashes key } else s
    | none => s
  | .satt _ =>
    let s := s.landFail st c true
    match s.sashLive name with
    | some key =>
      let e := s.sash key
      if e.st = .restoring && e.client = some (st, q) then
        s.bringFails key
      else s
    | none => s
  | .srel _ =>
    match c.released with
    | some a => s.modStream st fun x => { x with attached := x.attached ++ [a] }
    | none => s
  | .sevict _ =>
    match s.sashLive name with
    | some key => if (s.sash key).st = .evicting && (s.sash key).client = some (st, q) then s.keepSash key else s
    | none => s
  | _ => s

end Sys2Proof.Machine
end

