-- ==== Sys2Proof/Machine/Commands.lean ====
section
/-! DEFINITION. The commands at the heads of the engine queues: their start, and their completion (R260, R263, R264). -/

namespace Sys2Proof.Machine

/-- What the command at the head of a queue does once it has started, with its completion scope (R265); what never enters a queue does
nothing. -/
def State.workOf (s : State) (st : StreamId) (q : Nat) (c : Command) : Eng Nat :=
  match c.op with
  | .copy o => s.copyWork st q c o
  | .qbcast o => s.castWork st c o
  | .gath o => s.gatherWork st c o false
  | .scat o => s.gatherWork st c o true
  | .pfb o => s.pfbWork st c o
  | .drop o => s.dropWork st c o
  | .coll o => s.collWork st q c o
  | .xsort o => s.sortWork st c o
  | .tmoveMove _ => s.tmoveWork st q c false
  | .tmoveEvict _ => s.tmoveWork st q c true
  | .tqpush _ => s.pushWork st c
  | .rlaunch _ => s.launchWork st q c
  | .rtrace o => s.rayWork st c o
  | .qfence _ => s.joinWork st q c
  | .sopen o => s.openWork st q c o false
  | .sopenEvicted o => s.openWork st q c o true
  | .satt o => s.attWork st q c o
  | .srel _ => s.relWork st q c
  | .sevict _ => s.evictWork st q c
  | .sdrop _ => s.dropWork2 st c
  | _ => (.ok 3, s)

/-- The state after the command at the head of a queue ends with ERROR (R269). -/
def State.failCommand (s : State) (st : StreamId) (q : Nat) (c : Command) (code : BitVec 8) (tval : Word) : State :=
  (s.undoSash st q c).endCommand st q (.error code tval)

/-- Whether the queue of a stream stands still: its engine waits for a fault's resume (R270), its launch is saved (R366). -/
def Stream.stalled (x : Stream) (q : Nat) : Bool := (Table.find x.faultQ q).isSome

/-- The state after the command at the head of a queue starts (R260), its release at device scope performed first (R259, R337). It
completes no sooner than a time that the manual leaves open (log entry 20). -/
def State.startCommand (s : State) (st : StreamId) (q : Nat) : State :=
  let x := s.stream st
  match x.commands q with
  | [] => s
  | c :: _ =>
    if x.stalled q then s
    else match c.fail with
    | some (code, tval) => s.failCommand st q c code tval
    | none =>
      if c.started then s
      else
        let t := if c.rel then (s.settle st).release st 6 else s
        if c.rel && t.owes st 6 then t.row .engineCommandStart (.streamNum st q)
        else (t.modCommand st q fun d => { d with started := true, due := t.clocks + t.pick 0 }).picked

/-- The state after the work of the command at the head of a queue is done, or fails, faults or waits for something. -/
def State.workCommand (s : State) (st : StreamId) (q : Nat) (c : Command) : State :=
  match s.workOf st q c with
  | (.ok scope, s) =>
    (s.modCommand st q fun d => { d with moved := some scope }).picked.row .engineCommandComplete (.streamNum st q)
  | (.error (.error code tval), s) => s.picked.failCommand st q c code tval
  | (.error (.fault code va access), s) => s.picked.engineFault st q code va access
  | (.error .wait, s) => (s.modCommand st q fun d => { d with due := max d.due (s.clocks + 1) }).picked

/-- The state after the command at the head of a queue completes, once it may: its work is done whole (log entry 20), then its writes
are performed at its completion scope, then its token is DONE (R264). -/
def State.completeCommand (s : State) (st : StreamId) (q : Nat) : State :=
  let x := s.stream st
  match x.commands q with
  | [] => s
  | c :: _ =>
    if !c.started || x.stalled q || c.fail.isSome || decide (s.clocks < c.due) then s
    else match c.moved with
    | some scope =>
      if Table.get 0 s.mm.owed st.die = 0 then s.endCommand st q (.done scope)
      else s.row .engineCommandComplete (.streamNum st q)
    | none => s.workCommand st q c

/-- The queues of a stream whose head may complete by now. -/
def Stream.dueQueues (x : Stream) (now : Nat) : List Nat :=
  x.queues.filterMap fun e =>
    match e.2 with
    | c :: _ => if c.started && !x.stalled e.1 && c.fail.isNone && decide (c.due ≤ now) then some e.1 else none
    | [] => none

/-- The command at the head of a stream's queue starts, or takes up what stopped it (R260, R361). -/
def execEngineCommandStart (s : State) : Out :=
    match s.subject with
    | .streamNum st q => .next (s.startCommand st q)
    | _ => .next s

/-- The command at the head of a stream's queue completes (R264). -/
def execEngineCommandComplete (s : State) : Out :=
    match s.subject with
    | .streamNum st q => .next (s.completeCommand st q)
    | _ => .next s

end Sys2Proof.Machine
end

