-- ==== Sys2Proof/Machine/MemEvents.lean ====
section
/-! DEFINITION. What happens in the memory system by itself, as events: write-backs, leases, sweeps and retention, the messages of the
directory, regulators, the scrub (R336 to R338, R378 to R381, R385 to R392, R395, R461). -/

namespace Sys2Proof.Machine

/-! ## The end of a walk (R410) -/

/-- The state after a requester of a walk is told that it has ended: a held bundle asks again; an engine or the sequencer does so by
itself. -/
def State.walkOver (s : State) (r : WalkWaiter) : State :=
  match r with
  | .stream st => s.missOver st
  | .engine _ _ _ _ => s
  | .sash _ _ _ => s

/-- The state after a requester of a walk takes the walk's fault (R361, R410): an engine's, if its command is still at work; an access for
a sash's region, if the entry is still at it. -/
def State.walkFault (s : State) (r : WalkWaiter) : State :=
  match r with
  | .stream st => s.missFaults st
  | .engine st q va access =>
    match (s.stream st).commands q with
    | c :: _ =>
      if c.started && c.moved.isNone && c.fail.isNone && !(s.stream st).stalled q then s.engineFault st q cPFAULT va access else s
    | [] => s
  | .sash key va access =>
    if (s.sash key).st = .evicting || (s.sash key).st = .restoring then s.sashFault key cPFAULT va access else s

/-- A walk ends: it installs its translation, or everyone who waited for it faults, in order of arrival (R410). One that a
`tlbi` covered installs nothing, and its requesters walk again (R151, R410). -/
def execTableWalkComplete (s : State) : Out :=
  match s.subject with
  | .walkEnd tlb asid page =>
    match s.mm.walks.find? fun w => w.tlb = tlb && w.asid = asid && w.page = page with
    | none => .next s
    | some w =>
      let s := s.modMem fun m => { m with walks := m.walks.filter fun x => !(x.tlb = tlb && x.asid = asid && x.page = page) }
      match w.waiters with
      | .stream st :: _ =>
        let va := 4096 * page.toNat
        let base := (s.common st.core).ptbase
        let t := s.walked tlb base asid va
        if w.killed then .next (w.waiters.foldl State.walkOver t)
        else match s.walk tlb base asid va with
          | none => .next (w.waiters.foldl State.walkFault t)
          | some f => .next (w.waiters.foldl State.walkOver (t.installFound st.core asid w.write w.fetch f))
      | _ => .next s
  | _ => .next s

/-! ## Cluster caches, leases, retention (R378 to R381) -/

/-- A cluster cache's dirty bytes of a line arrive at the die L2 (R378). -/
def execClusterCacheWriteback (s : State) : Out :=
    match s.subject with
    | .num2 c ln => .next (s.clWriteback c ln)
    | _ => .next s

/-- The die of a cache. -/
def placeDie : CachePlace → Nat
  | .l1 c => c.die
  | .cluster n => n / 16

/-- The state after a line whose lease has run out has its clean bytes dropped (R380). -/
def State.expire (s : State) (p : CachePlace) (ln : Nat) : State :=
  let d := placeDie p
  match p with
  | .l1 (.super _) => s
  | .l1 c => s.l1Keep c fun l => l.pline ≠ ln || s.inLease d l.stamp
  | .cluster n => s.clClean n fun l => l.line = ln && !s.inLease d l.stamp

/-- A line's lease runs out, and its clean bytes are as absent (R380). -/
def execLeaseExpiry (s : State) : Out :=
    match s.subject with
    | .lease p ln => .next (s.expire p ln)
    | _ => .next s

/-- The state after the epoch bit of a die inverts and its caches drop the clean bytes of lines that were filled two epochs ago
(R381). -/
def State.sweep (s : State) (d : Nat) : State :=
  let e := !s.epoch d
  let s := s.modMem fun m => if d = 1 then { m with epoch1 := e } else { m with epoch0 := e }
  let s := (List.range 16).foldl (fun (s : State) (k : Nat) =>
    if (s.cluster (16 * d + k)).isEmpty then s else s.clClean (16 * d + k) fun l => l.epoch = e) s
  let drop := fun (k : Common) => { k with l1 := k.l1.filter fun l => decide (l.epoch ≠ e) }
  { s with tiles := s.tiles.map fun x => (x.1, if x.1 / 32 = d then { x.2 with com := drop x.2.com } else x.2),
           shaders := s.shaders.map fun x => (x.1, if x.1 / 64 = d then { x.2 with com := drop x.2.com } else x.2) }

/-- The lease clock of a die wraps: the epoch bit inverts, and clean bytes two epochs old are dropped (R379, R381). -/
def execEpochSweep (s : State) : Out :=
    match s.subject with
    | .die d => .next (s.sweep (b2n d))
    | _ => .next s

/-- The state after every partial of a cluster is joined into its home (R343, R344). -/
def State.joinCluster (s : State) (k : Nat) : State :=
  let j := 32 * (k / 16) + k % 16
  ((s.mm.partials.filter fun p => decide (p.1.1 = j)).map fun p => p.1.2).foldl (fun (s : State) (ln : Nat) =>
    match s.rangeOf ln with
    | some (t, op) => (s.recall ln).joinOne ln t op j
    | none => s) s

/-- The cores of a cluster. -/
def coresOf (k : Nat) : List CoreId :=
  if k % 16 < 8 then (List.range 4).map fun p => .tile (32 * (k / 16) + 4 * (k % 16) + p)
  else (List.range 8).map fun p => .shader (64 * (k / 16) + 8 * (k % 16 - 8) + p)

/-- A cluster writes back its dirty bytes, joins its partials and enters retention: its clocks stop (R381). -/
def execRetentionEntry (s : State) : Out :=
    match s.subject with
    | .num k =>
      if s.mm.retained.contains k then .next s
      else
        let s := s.streams.foldl (fun (s : State) (e : StreamId × Stream) =>
          if !e.1.isSuper && clusterOf e.1.core = k then (s.settle e.1).wbDrain e.1 fun _ => true else s) s
        let s := (coresOf k).foldl (fun (s : State) (c : CoreId) => s.modCommon c id) s
        .next (((s.clPush k 5).joinCluster k).modMem fun m => { m with retained := k :: m.retained })
    | _ => .next s

/-- A cluster wakes: its L1s and its cluster cache invalidate all their lines, and reservations are cleared by their age (R215,
R381). -/
def execRetentionWake (s : State) : Out :=
    match s.subject with
    | .num k =>
      if s.mm.retained.contains k then
        let s := (coresOf k).foldl (fun (s : State) (c : CoreId) =>
          let old := s.common c
          if old.l1.isEmpty && old.reservations.isEmpty then s
          else s.modCommon c fun x =>
            { x with l1 := [], reservations := x.reservations.filter fun r => decide (x.cycle.toNat ≤ r.made + 4096) }) s
        .next ((s.setCluster k []).modMem fun m => { m with retained := m.retained.filter fun j => decide (j ≠ k) })
      else .next s
    | _ => .next s

/-! ## Messages of the directory (R336, R387 to R392) -/

/-- A read request of an agent for a line reaches the home directory (R388); a port in reset, and one whose decoder does not cover the
line, takes none of its host's (R449, R454). -/
def execDirectoryReadRequest (s : State) : Out :=
    match s.subject with
    | .num2 a ln => .next (if s.admitsAgent a ln then s.agentRead a ln else s)
    | _ => .next s

/-- An ownership request of an agent reaches the directory, the flag saying that the line is of a SYNCV page
(R387, R388, R392); of a host's agent, where its port's decoder covers the line (R449, R454). -/
def execDirectoryOwnershipRequest (s : State) : Out :=
    match s.subject with
    | .numFlag a ln f => .next (if s.admitsAgent a ln then s.agentOwn a ln f else s)
    | _ => .next s

/-- An eviction notice of an agent reaches the directory, with its data where the line is dirty (R388); from one that the
entry does not record it is discarded (R389). -/
def execEvictionNotice (s : State) : Out :=
    match s.subject with
    | .num2 a ln => .next (match s.mm.agentLine a ln with | some _ => s.evictLine a ln | none => s.notice a ln none)
    | _ => .next s

/-- The state after a forwarded request reaches the owner, which supplies the data (R388); no remote agent shares an O line, so for one, or
beside one, an owner that keeps the line writes it back first (R392). -/
def State.forwarded (s : State) (owner requester ln : Nat) (own : Bool) : State :=
  match s.mm.agentLine owner ln with
  | none => s
  | some l =>
    if own then
      ((s.loseLine owner ln).modMem fun m => m.setLine requester ln (if l.st.dirty then .m else .e) l.data).row .invalidationAck (.num2 requester ln)
    else
      let s := if remoteAgent requester || !(s.remoteSharers ln).isEmpty then s.cleanOwner owner ln else s.forwardRead owner ln
      s.modMem fun m => m.setLine requester ln .s l.data

/-- A forwarded request reaches the owner: for a read it keeps the line as S or O, for ownership it sends the data and
invalidates itself (R388). -/
def execForward (s : State) : Out :=
    match s.subject with
    | .forward o r ln own => .next (s.forwarded o r ln own)
    | _ => .next s

/-- An invalidation or a recall reaches an agent, which drops the line and acknowledges to the requester, whether or not
it holds the line; dirty data of a recall returns to the system cache (R387, R388, R390). -/
def execInvalidation (s : State) : Out :=
    match s.subject with
    | .num3 b ln a =>
      let s := match s.mm.agentLine b ln with
        | some l => if l.st.dirty then (s.putHome ln allBytes l.data).killAt placeHome ln else s
        | none => s
      .next ((s.loseLine b ln).row .invalidationAck (.num2 a ln))
    | _ => .next s

/-- The state in which the streams go on whose fence waits for no acknowledgement any more (R223, R333, R336). -/
def State.unfence (s : State) : State :=
  { s with streams := s.streams.map fun e =>
      (e.1, match e.2.fenced with | some sc => if s.owes e.1 sc then e.2 else { e.2 with fenced := none } | none => e.2) }

/-- An acknowledgement reaches the writer, which counts it (R336). -/
def execInvalidationAck (s : State) : Out :=
    match s.subject with
    | .num2 a _ =>
      .next ((s.modMem fun m => { m with owed := Table.put m.owed a (Table.get 0 m.owed a - 1) }).unfence)
    | _ => .next s

/-- A grant reaches the requester with the line's data and an acknowledgement count: it may perform its write (R336,
R387). -/
def execOwnershipGrant (s : State) : Out :=
    match s.subject with
    | .grant a ln n =>
      let (s, v, d) := match s.mm.agentLine a ln with
        | some l => (s, l.data, l.st.dirty)
        | none => let (s, v) := (s.agentRoom a ln).fromHome ln; (s, v, false)
      .next (s.modMem fun m => { (m.setLine a ln (if d then .m else .e) v) with owed := Table.put m.owed a (Table.get 0 m.owed a + n) })
    | _ => .next s

/-- The state after the home pushes a line's bytes to its remote sharers, whose acknowledgements are owed to the writer (R392). -/
def State.pushUpdate (s : State) (ln writer : Nat) : State :=
  let targets := ((s.mm.entry ln).sharerList s.mm.present).filter fun b => remoteAgent b && decide (b ≠ writer)
  let v := s.mm.atHome ln
  let s := targets.foldl (fun (s : State) (b : Nat) => s.modMem fun m => m.setLine b ln .s v) s
  let s := s.modMem fun m => { m with owed := Table.put m.owed writer (Table.get 0 m.owed writer + targets.length) }
  s.post (targets.map fun _ => .row .invalidationAck (.num2 writer ln))

/-- The home pushes an owner's dirty bytes of a SYNCV line to the remote sharers, which merge and acknowledge (R392). -/
def execWriteUpdatePush (s : State) : Out :=
    match s.subject with
    | .update ln w => .next (s.pushUpdate ln w)
    | _ => .next s

/-! ## Regulators (R395) -/

/-- A class's bucket of a die after a refill. -/
def State.refill (s : State) (d : Bool) (c : Nat) : State :=
  let w := s.ctl (0x808 + 0x20 * c)
  if fld w 0 16 = 0 then s
  else s.modMem fun m => { m with buckets := Table.put m.buckets (d, c) (min (fld w 16 16) (Table.get 0 m.buckets (d, c) + fld w 0 16)) }

/-- Every 1024 tile clocks each regulated class's bucket gains RATE lines, up to BURST, on both base dies (R395). -/
def execTokenBucketRefill (s : State) : Out :=
    .next ((List.range 8).foldl (fun (s : State) (c : Nat) => (s.refill false c).refill true c) s)

/-! ## Hosts and peers (R338), the scrub (R461) -/

/-- Whether a port takes a host's write of bytes: not in reset (R454), in the lines of LPDDR-6 that its decoder covers, its own host's memory,
or beyond (R449). -/
def State.hostWrites (s : State) (d : Bool) (pa n : Nat) : Bool :=
  !(s.port d).resetting && match region pa with
    | .lpddr => (linesIn pa n).all (s.port d).covers
    | .host e => e = b2n d
    | _ => true

/-- The state after bytes are written at their home, in a class (R338, R393, R395). -/
def State.writeFrom (s : State) (cls pa : Nat) (l : List Byte) : State :=
  let s := s.modMem fun m => { m with cls := cls }
  (if (region pa).isMemory then s.homeUses (linesIn pa l.length) true else s).putPhysBytes pa l

/-- A write of a host, which its port takes, or of a peer takes effect at the home of its bytes (R338), in the class of its source (R393). -/
def execHostWrite (s : State) : Out :=
    match s.subject with
    | .bytes d pa l => .next (if s.hostWrites d pa l.length then s.writeFrom 5 pa l else s)
    | .peerBytes pa l => .next (s.writeFrom 6 pa l)
    | _ => .next s

/-- The patrol scrub passes over a line of LPDDR-6: a corrected error is counted in the recorder, and a line that cannot be
corrected is poisoned at its home, which of them a free choice says (R461; log entry 22). A corrected error of an SRAM is counted too: its
place, as the event names it, is the entry's unit. -/
def execPatrolScrub (s : State) : Out :=
    match s.subject with
    | .num ln =>
      if 768 * 2 ^ 30 ≤ 128 * ln then .next s
      else if s.pickBit 0 then
        .next (s.note .ecc (lineDie ln) 0 14 0 (BitVec.ofNat 64 ln) 0).picked
      else if s.pickBit 1 then .next ((s.modMem fun m => { m with poison := if m.poison.contains ln then m.poison else ln :: m.poison }).picked)
      else .next s.picked
    | .hostWord d place v => .next (s.note .ecc (b2n d) place 14 0 v 0)
    | _ => .next s

/-- The lines of LPDDR-6 in a window of addresses (R449): first line and number. -/
def hdmWindow (base size : Nat) : Nat × Nat := (base / 128, (min (base + size) (768 * 2 ^ 30) - base) / 128)

/-- The state in which a host holds device memory over CXL.mem with back-invalidation on the port of a die (R384), with the window of its
decoder (R449). -/
def State.attachHost (s : State) (d : Bool) (w : Nat × Nat) : State :=
  let a := 2 + b2n d
  (s.modPort d fun p => { p with attached := true, window := w }).modMem fun m =>
    { m with present := if m.present.contains a then m.present else m.present ++ [a] }

/-- A host begins to hold device memory over CXL.mem with back-invalidation, all of LPDDR-6 or a window of it, and its caching agent is
present (R384, R449); a port in reset refuses it (R454). -/
def execHostAttach (s : State) : Out :=
    match s.subject with
    | .die d => .next (if (s.port d).resetting then s else s.attachHost d (hdmWindow 0 (768 * 2 ^ 30)))
    | .host d base size _ _ => .next (if (s.port d).resetting then s else s.attachHost d (hdmWindow base size))
    | _ => .next s

end Sys2Proof.Machine
end

