-- ==== Sys2Proof/Machine/Records.lean ====
section
/-! DEFINITION. Launch records, program images, raster descriptors and queue descriptors as the sequencer reads them, and their
validation (R35 to R38, R296 to R299, R319, R422 to R428, R433, R437, R439, R440, R443). -/

namespace Sys2Proof.Machine

/-! ## The fields of a record (R422) -/

/-- The record that 256 bytes hold. -/
def Rec.ofBytes (b : List Byte) : Rec :=
  Vector.ofFn fun (k : Fin (2 ^ 5)) => BitVec.ofNat 64 (leNat ((b.drop (8 * k.val)).take 8))

/-- A word of a record, and n bits of one. -/
def Rec.w (c : Rec) (k : Nat) : Word := File.get c (BitVec.ofNat 5 k)
def Rec.f (c : Rec) (k lo n : Nat) : Nat := fld (c.w k) lo n

def Rec.kind (c : Rec) : Nat := c.f 0 0 4
def Rec.split (c : Rec) : Nat := c.f 0 4 2
def Rec.prio (c : Rec) : Nat := c.f 0 6 7
def Rec.qos (c : Rec) : Nat := c.f 0 13 3
def Rec.rerun (c : Rec) : Bool := bit (c.w 0) 16
def Rec.reruns (c : Rec) : Nat := c.f 0 17 2
def Rec.queues (c : Rec) : Bool := bit (c.w 0) 19
def Rec.ctx1 (c : Rec) : Bool := bit (c.w 0) 20
def Rec.nopre (c : Rec) : Bool := bit (c.w 0) 21
def Rec.image (c : Rec) : Nat := c.f 1 0 48
def Rec.width (c : Rec) (i : Nat) : Nat := c.f 2 (6 * i) 6
def Rec.glevel (c : Rec) : Nat := c.f 2 36 3
def Rec.clevel (c : Rec) : Nat := c.f 2 39 3
def Rec.dlevel (c : Rec) : Nat := c.f 2 42 3
def Rec.gang (c : Rec) : Nat := c.f 2 45 3
def Rec.extent (c : Rec) (i : Nat) : Nat := c.f (3 + i / 2) (32 * (i % 2)) 32
def Rec.vregs (c : Rec) : Nat := c.f 6 0 8
def Rec.gsbytes (c : Rec) : Nat := c.f 6 8 24
def Rec.ctx (c : Rec) : Nat := c.f 6 32 2
def Rec.depctr (c : Rec) : Nat := c.f 7 0 12
def Rec.depthr (c : Rec) : Nat := c.f 7 12 52
def Rec.grpctr (c : Rec) : Nat := c.f 8 0 12
def Rec.grpinc (c : Rec) : Nat := c.f 8 12 20
def Rec.endctr (c : Rec) : Nat := c.f 8 32 12
def Rec.endinc (c : Rec) : Nat := c.f 8 44 20
def Rec.budget (c : Rec) : Nat := c.f 9 0 48
def Rec.args (c : Rec) : Nat := c.f 28 0 48
def Rec.flags (c : Rec) : BitVec 32 := bits (c.w 29) 0 32
def Rec.cores (c : Rec) : Nat := c.f 29 32 32

/-- The window pages of a typed-buffer space (0 W, 1 A, 2 K). -/
def Rec.pages (c : Rec) (space : Nat) : Nat := if space = 0 then c.f 6 34 8 else if space = 1 then c.f 6 42 6 else c.f 6 48 8

/-- Whether a record is of a shader or pixel kind. -/
def Rec.shader (c : Rec) : Bool := c.kind = 1 || c.kind = 3

/-- A group's store in KiB (R33). -/
def Rec.gsKib (c : Rec) : Nat := (c.gsbytes + 1023) / 1024

/-- A sash-list entry (R319). -/
structure SashItem where
  name : Word
  gen : BitVec 32
  flags : BitVec 8
  space : BitVec 8
  reg : Nat
  task : Nat
  deriving DecidableEq, Repr

/-- Entry e of the sash list, and the valid entries in order. -/
def Rec.sashItem (c : Rec) (e : Nat) : SashItem :=
  let w := c.w (13 + 2 * e)
  ⟨c.w (12 + 2 * e), bits w 0 32, bits w 32 8, bits w 40 8, fld w 48 8, fld w 56 8⟩
def Rec.sashList (c : Rec) : List SashItem := ((List.range 8).map c.sashItem).filter fun e => bit e.flags 0

/-- The name of an entry, its namespace forced from the launch's ASID (R300). -/
def SashItem.fullName (e : SashItem) (asid : BitVec 16) : Word := sashName 0 asid e.name

/-! ## Units (R35 to R38, R437) -/

/-- The product of a list. -/
def product (l : List Nat) : Nat := l.foldl (· * ·) 1

/-- The extents of fields lo to hi - 1. -/
def Rec.exts (c : Rec) (lo hi : Nat) : List Nat := (List.range (min hi 6 - lo)).map fun i => c.extent (lo + i)

/-- The digits of a mixed-radix number, the lowest field first (R37). -/
def mixed : List Nat → Nat → List Nat
  | [], _ => []
  | e :: t, n => n % e :: mixed t (n / e)

/-- The level that makes units: the gang level of kind 2, the group level of kinds 1 and 3. -/
def Rec.level (c : Rec) : Nat := if c.kind = 2 then c.gang else c.glevel

/-- The number of units: gangs, groups, one copy. -/
def Rec.units (c : Rec) : Nat :=
  if c.kind = 4 then 1 else if (c.exts 0 6).contains 0 then 0 else product (c.exts c.level 6)

/-- The members of a unit: the core-tasks of a gang, the waves of a group. -/
def Rec.size (c : Rec) : Nat :=
  if c.kind = 4 then 0 else if c.kind = 2 then product (c.exts 0 c.level) else product (c.exts 1 c.level)

/-- The fields f0 to f5 of a member of a unit; f0 of a wave is 0. -/
def Rec.fields (c : Rec) (unit member : Nat) : List Nat :=
  (if c.kind = 2 then mixed (c.exts 0 c.level) member else 0 :: mixed (c.exts 1 c.level) member) ++ mixed (c.exts c.level 6) unit

/-- The work identifier that fields make (R35). -/
def Rec.wid (c : Rec) (fs : List Nat) : Word :=
  BitVec.ofNat 64 ((fs.zipIdx.foldl (fun (r : Nat × Nat) e => (r.1 + e.1 * 2 ^ r.2, r.2 + c.width e.2)) (0, 0)).1)

/-- WIDF of a launch (R44). -/
def Rec.widf (c : Rec) : BitVec 48 := bits (c.w 2) 0 48

/-- The groups that a cluster unit and a die unit hold (R36); 1 where there is no such level. -/
def Rec.clusterGroups (c : Rec) : Nat := if c.clevel = 0 then 1 else product (c.exts c.glevel c.clevel)
def Rec.dieGroups (c : Rec) : Nat := if c.dlevel = 0 then c.clusterGroups else product (c.exts c.glevel c.dlevel)

/-- The groups that are placed in one step (R435). -/
def Rec.block (c : Rec) : Nat := c.dieGroups

/-- The highest field of a work identifier: the last of nonzero width (R35). -/
def Rec.lastField (c : Rec) : Nat := (((List.range 6).filter fun i => decide (c.width i ≠ 0)).getLast?).getD 0

/-- The dies that a group or a gang may go to (R443). The members of a gang go together: where the highest field is one of theirs, field 5
of the gang index, which is 0, decides (DEDUCED, log entry 27). -/
def Rec.dies (c : Rec) (unit member : Nat) : List Nat :=
  let fs := c.fields unit member
  let v := fun i => (fs[i]?).getD 0
  match c.split with
  | 1 => [if v 3 < (c.extent 3 + 1) / 2 then 0 else 1]
  | 2 => let i := if c.kind ≠ 2 then c.dlevel else if c.lastField < c.gang then 5 else c.lastField
         [if c.extent i ≤ 2 * v i then 1 else 0]
  | _ => [0, 1]

/-- The tile cores and the shader clusters that CORES admits. -/
def Rec.admitsTile (c : Rec) (core : Nat) : Bool := c.cores = 0 || c.cores.testBit (core % 32)
def Rec.admitsCluster (c : Rec) (die k : Nat) : Bool := c.cores = 0 || c.cores.testBit (8 * die + k)

/-! ## Queues (R427 to R429) -/

/-- The state with a read-only word of a descriptor written. -/
def State.putQ (s : State) (q i v : Nat) : State := s.putPhys (fld (s.ctl 0xA00) 0 52 + 64 * q + 8 * i) 8 v

/-- HEAD, DISP and the TAIL that the last doorbell brought; a queue that no doorbell has named is at DISP. -/
def State.headOf (s : State) (q : Nat) : Nat := s.qword q 2 % 2 ^ 32
def State.dispOf (s : State) (q : Nat) : Nat := s.qword q 3 % 2 ^ 32
def State.tailOf (s : State) (q : Nat) : Nat := (Table.get (BitVec.ofNat 32 (s.dispOf q)) s.sched.tails q).toNat

/-- Whether a queue has a record at DISP that has not begun. -/
def State.atDisp (s : State) (q : Nat) : Bool := (s.qOwner q).isSome && s.tailOf q ≠ s.dispOf q

/-- The tasks requeued at the head of a queue (R431). -/
def State.requeuedOf (s : State) (q : Nat) : List (Job × Requeued) := s.sched.requeued.filter fun e => e.1.queue = q

/-- The launch of a queue that is still dispatching, if one is. -/
def State.dispatching (s : State) (q : Nat) : Option Launch :=
  s.sched.launches.find? fun l => l.queue = q && l.code.isNone && decide (l.next < l.units)

/-- Whether a queue has a record at DISP: one to begin or to dispatch further, or a requeued task (R431, R434). -/
def State.hasWork (s : State) (q : Nat) : Bool := s.atDisp q || !(s.requeuedOf q).isEmpty || (s.dispatching q).isSome

/-- The slot that a queue holds. -/
def State.qslot (s : State) (q : Nat) : Option (Nat × QSlot) := s.sched.slots.find? fun e => e.2.queue = q

/-- A record in its ring, as it stands. -/
def State.ringRecord (s : State) (q n : Nat) : Rec := Rec.ofBytes (s.physBytes (s.recordAddr q n) 256)

/-- The state after a queue's descriptor and its record n have been read (R344, R447). -/
def State.lookRecord (s : State) (q n : Nat) : State := (s.lookQueue q).looked [s.recordAddr q n, s.recordAddr q n + 128]

/-- A launch, and the state with a launch changed. -/
def State.launch (s : State) (q n : Nat) : Option Launch := s.sched.launches.find? fun l => l.queue = q && l.record.toNat = n
def State.modLaunch (s : State) (q n : Nat) (f : Launch → Launch) : State :=
  s.modSched fun d => { d with launches := d.launches.map fun l => if l.queue = q && l.record.toNat = n then f l else l }

/-- The launch of a job. -/
def State.launchOf (s : State) (j : Job) : Option Launch := s.launch j.queue j.record

/-- PRIO of a queue's record at DISP (R431): of a requeued task's, which counts as one, of the one that would begin; where there is
none, of the record that still dispatches, else of the last. -/
def State.prioOf (s : State) (q : Nat) : Nat :=
  match s.requeuedOf q with
  | e :: _ => match s.launchOf e.1 with | some l => l.copy.prio | none => 0
  | [] =>
    if s.atDisp q then (s.ringRecord q (s.dispOf q)).prio
    else match s.dispatching q with
      | some l => l.copy.prio
      | none => match s.qslot q with | some e => e.2.prio | none => 0

/-- The priority of a queue, raised by waiting within its class (R432). -/
def effPrio (prio w : Nat) : Nat := min (prio + w / 1600000) (16 * (prio / 16) + 15)

/-- The effective priority of a waiting queue (R432). -/
def State.waitPrio (s : State) (q : Nat) : Nat :=
  effPrio (s.prioOf q) (match Table.find s.sched.waits q with | some t => (s.ltime - t).toNat | none => 0)

/-- The effective priority of a mapped queue: its w counts the tile clocks since it last placed a group (R434, R435). -/
def State.slotPrio (s : State) (q : Nat) : Nat :=
  effPrio (s.prioOf q) (match s.qslot q with | some e => (s.ltime - e.2.placedAt).toNat | none => 0)

/-- Whether an area of a queue's save areas is free, and its number (R428, R434). -/
def State.freeArea (s : State) (q : Nat) : Option Nat :=
  (List.range (s.qword q 5 / 2 ^ 48)).find? fun a => !s.sched.saves.any fun e => e.queue = q && e.area = a

/-! ## Status (R423, R424) -/

/-- Launch status codes. -/
def cBADREC : BitVec 8 := 0x20
def cBADWID : BitVec 8 := 0x21
def cNOFIT : BitVec 8 := 0x22
def cBADRAST : BitVec 8 := 0x23
def cBADSASH : BitVec 8 := 0x24
def cSASHFAIL : BitVec 8 := 0x25
def cCANCEL : BitVec 8 := 0x26

/-- The state with NEXT, STATE, CODE and DONE of a record written into its ring slot. -/
def State.putStatus_ (s : State) (q n st : Nat) (code : BitVec 8) (done next : Nat) : State :=
  (s.putPhys (s.recordAddr q n + 0x50) 8 next).putPhys (s.recordAddr q n + 0x58) 8
    (st + 256 * code.toNat + 65536 * (done % 2 ^ 48))

/-- The state with the read-only words of a launch in its ring slot. -/
def State.showLaunch (s : State) (q n : Nat) : State :=
  match s.launch q n with
  | some l => s.putStatus_ q n l.st (l.code.getD 0) l.done l.next
  | none => s

/-- The address of the queue's copy of a record, as s1 holds it (R426). -/
def State.recordWord (s : State) (l : Launch) : Word := BitVec.ofNat 64 (s.recordAddr l.queue l.record.toNat)

/-! ## What the sequencer reads by virtual address (R402, R425) -/

/-- A read of the sequencer's. -/
def askSequencer : Ask := ⟨true, false, false, none, 4⟩

/-- The bytes of a range read through translations at their homes, lines of a commutative range joined first (R344), for a request class
(R393); what reaches no memory reads zero and is noted (R447). -/
def State.readThrough (s : State) (cls : Nat) (pages : List Elem) (va n : Nat) : List Byte × State :=
  (linePieces va n).foldl (fun (r : List Byte × State) (p : Nat × Nat) =>
    match xlAt pages p.1 with
    | some x =>
      if (region x.pa).isMemory then
        let s := ((r.2.classed cls x).homeUse (x.pa / 128) false).joinBytes x.pa p.2
        (r.1 ++ s.physBytes x.pa p.2, s)
      else (r.1 ++ List.replicate p.2 0, r.2.noteHole x.pa)
    | none => (r.1 ++ List.replicate p.2 0, r.2)) ([], s)

/-- The bytes of a range of an address space for a launch of a class, or the cause for which the sequencer cannot read them. -/
def State.seqRead (s : State) (cls : Nat) (asid : BitVec 16) (va n : Nat) : (Except (BitVec 8) (List Byte)) × State :=
  match s.seqPages asid askSequencer (if n = 0 then [] else rowPages [va] n) with
  | (.ok ps, s) => let (l, s) := s.readThrough cls ps va n; (.ok l, s)
  | (.error e, s) => (.error e, s)

/-- The sections of a program image, or the status for which its launch fails (R425). -/
def State.readImage (s : State) (c : Rec) (asid : BitVec 16) : (Except (BitVec 8) (List (Nat × Nat))) × State :=
  match s.seqRead c.qos asid c.image 64 with
  | (.error e, s) => (.error e, s)
  | (.ok h, s) =>
    let n := leNat ((h.drop 4).take 2)
    let fits := decide (leNat (h.take 4) = 1 ∧ 1 ≤ n ∧ n ≤ 64) && leNat (h.drop 6) = 0
      && (n = 1 || (c.kind = 2 && n = c.size))
    if !fits then (.error cBADREC, s)
    else match s.seqRead c.qos asid (c.image + 64) (16 * n) with
      | (.error e, s) => (.error e, s)
      | (.ok b, s) =>
        let l := (List.range n).map fun k => (leNat ((b.drop (16 * k)).take 8), leNat ((b.drop (16 * k + 8)).take 8))
        if l.all fun e => e.1 % 2 ^ 48 % 64 = 0 && decide (1 ≤ e.2 ∧ e.2 ≤ 3840) then (.ok (l.map fun e => (e.1 % 2 ^ 48, e.2)), s)
        else (.error cBADREC, s)

/-- The raster descriptor of a launch, or the status for which it fails (R296). -/
def State.readRaster (s : State) (c : Rec) (asid : BitVec 16) : (Except (BitVec 8) Raster) × State :=
  match s.seqRead c.qos asid c.args 64 with
  | (.error e, s) => (.error e, s)
  | (.ok b, s) =>
    let n := fun (o k : Nat) => leNat ((b.drop o).take k)
    let r : Raster := ⟨n 0 4, n 4 4, n 8 4, n 16 8 % 2 ^ 48⟩
    let ok := decide (1 ≤ r.width ∧ r.width ≤ 32768 ∧ 1 ≤ r.height ∧ r.height ≤ 32768) && n 12 4 = 0 && n 16 8 % 8 = 0 && leNat (b.drop 24) = 0
    (if ok then .ok r else .error cBADRAST, s)

/-! ## Validation (R422 to R443) -/

/-- Whether a reserved bit is set or a field is out of its range (R422), whether KIND and SPLIT or QUEUES contradict (R437, R443). -/
def Rec.badRec (c : Rec) : Bool :=
  let z := fun (k lo n : Nat) => c.f k lo n ≠ 0
  z 0 22 42 || z 1 48 16 || z 2 48 16 || z 6 56 8 || z 9 48 16 || z 28 48 16 || c.w 30 ≠ 0 || c.w 31 ≠ 0
    || !decide (1 ≤ c.kind ∧ c.kind ≤ 4) || c.split = 3 || (c.kind ≠ 4 && c.image % 64 ≠ 0) || decide (262144 < c.gsbytes)
    || (c.shader && (!decide (1 ≤ c.vregs ∧ c.vregs ≤ 64) || decide (65536 ≤ c.cores)))
    || (!c.shader && c.glevel ≠ 0)
    || (c.kind = 2 && (!decide (1 ≤ c.gang ∧ c.gang ≤ 6) || c.ctx = 0 || c.ctx = 3 || decide (96 < c.pages 0 ∨ 48 < c.pages 1 ∨ 160 < c.pages 2)
        || (c.queues && c.size ≠ 4)))
    || (c.kind ≠ 2 && c.gang ≠ 0)
    || (c.split = 1 && c.kind ≠ 3) || (c.split = 2 && !((c.kind = 1 && c.dlevel ≠ 0) || (c.kind = 2 && decide (c.gang < 6))))

/-- Whether the widths, extents or levels break their rules (R35, R36, R433, R437, R440). -/
def Rec.badWid (c : Rec) : Bool :=
  let ws := (List.range 6).map c.width
  if c.kind = 4 then c.widf ≠ 0 || c.exts 0 6 ≠ [0, 0, 0, 0, 0, 0]
  else
    ws.any (fun w => decide (32 < w)) || decide (64 < ws.foldl (· + ·) 0)
      || (List.range 6).any (fun i => decide (2 ^ c.width i < c.extent i))
      || (List.range 5).any (fun i => c.width i = 0 && c.width (i + 1) ≠ 0)
      || (c.shader && (c.width 0 ≠ 5 || !decide (1 ≤ c.glevel ∧ c.glevel ≤ 5)
          || (c.clevel ≠ 0 && decide (c.clevel ≤ c.glevel)) || (c.dlevel ≠ 0 && decide (c.dlevel ≤ c.glevel ∨ c.dlevel ≤ c.clevel))))
      || (c.kind = 2 && !decide (1 ≤ c.size ∧ c.size ≤ 64))

/-- Whether a kind 3 record has another layout than its descriptor gives (R297). -/
def Rec.badLayout (c : Rec) (r : Raster) : Bool :=
  c.glevel ≠ 2 || c.width 1 ≠ 3 || c.width 5 ≠ 0
    || c.exts 0 6 ≠ [32, 8, (r.width + 15) / 16, (r.height + 15) / 16, max 1 r.prims, 1]

/-- Whether a sash list breaks its table, or stands in a record without core-tasks (R319). -/
def Rec.badSash (c : Rec) : Bool :=
  c.sashList.any fun e => decide (c.kind ≠ 2) || fld e.flags 4 4 ≠ 0 || fld e.space 2 6 ≠ 0 || fld e.space 0 2 = 3
    || decide (64 ≤ e.reg ∧ e.reg ≤ 254) || decide (c.size ≤ e.task)

/-- The groups that an empty core holds (R20, R33). -/
def Rec.perCore (c : Rec) : Nat :=
  let n := min 64 (4096 / max 1 c.vregs) / max 1 c.size
  if c.gsKib = 0 then n else min n (256 / c.gsKib)

/-- The core-tasks of a gang that an empty core holds. -/
def Rec.perTile (c : Rec) : Nat :=
  (List.range 3).foldl (fun m p => if c.pages p = 0 then m else min m (spacePages p / c.pages p))
    (if c.ctx = 2 || c.queues || c.ctx1 then 1 else 2)

/-- Whether a group, its cluster or die unit, or a gang cannot fit on empty dies (R36, R299, R434). -/
def Rec.noFit (c : Rec) : Bool :=
  if c.shader then
    let per := c.perCore
    let clusters := fun (d : Nat) => ((List.range 8).filter fun k => c.admitsCluster d k).length
    let most := max (clusters 0) (clusters 1)
    decide (1024 < c.extent 0 * c.size) || per = 0 || most = 0 || decide (8 * per < c.clusterGroups)
      || (c.dlevel ≠ 0 && decide (most * (8 * per / max 1 c.clusterGroups) < c.dieGroups / max 1 c.clusterGroups))
      || (c.kind = 3 && decide (c.vregs < 4))
  else if c.kind = 2 then
    let cores := ((List.range 32).filter fun k => c.admitsTile k).length
    let whole := (List.range 8).any fun k => (List.range 4).all fun p => c.admitsTile (4 * k + p)
    let room := c.perTile * cores
    (c.queues && !whole) || decide ((if c.split = 0 then 2 * room else room) < c.size)
  else false

/-- Whether an event counter that a record uses belongs to another ASID (R439). -/
def State.foreign (s : State) (asid : BitVec 16) (ctr n : Nat) : Bool := n ≠ 0 && s.ctrOwner ctr ≠ asid

/-- The statuses for which a record fails at validation, with its image's sections and its raster descriptor. Where several
hold, which of them the record shows is open (log entry 6). -/
def State.judgeRecord (s : State) (c : Rec) (asid : BitVec 16) : List (BitVec 8) × List (Nat × Nat) × Option Raster × State :=
  let plain := (if c.badRec then [cBADREC] else []) ++ (if c.badWid then [cBADWID] else []) ++ (if c.badSash then [cBADSASH] else [])
    ++ (if c.kind = 3 && decide (c.vregs < 4) then [cNOFIT] else [])
    ++ (if s.foreign asid c.depctr c.depthr || s.foreign asid c.grpctr c.grpinc || s.foreign asid c.endctr c.endinc then [cPERM] else [])
  if c.badRec || c.badWid || c.kind = 4 then (plain, [], none, s)
  else
    let plain := plain ++ if c.noFit then [cNOFIT] else []
    let (img, s) := s.readImage c asid
    let (l, plain) := match img with | .ok l => (l, plain) | .error e => ([], plain ++ [e])
    if c.kind = 3 then
      match s.readRaster c asid with
      | (.ok r, s) => (plain ++ (if c.badLayout r then [cBADWID] else []), l, some r, s)
      | (.error e, s) => (plain ++ [e], l, none, s)
    else (plain, l, none, s)

end Sys2Proof.Machine
end

