-- ==== Sys2Proof/Machine/Queues.lean ====
section
/-! DEFINITION. Work queues and launches: doorbells, slots and their reclaim, the beginning, the cancelling and the end of records, the
ends of groups and gangs (R317, R423, R428 to R434, R438 to R440). -/

namespace Sys2Proof.Machine

/-! ## Queues and slots (R429, R431 to R434) -/

/-- The state in which a queue waits if it has work and no slot, since it last came to that; else it does not wait (R432). -/
def State.noteWaiting (s : State) (q : Nat) : State :=
  let waits := (s.qslot q).isNone && s.hasWork q
  s.modSched fun d =>
    { d with waits := if !waits then Table.drop d.waits q
                      else if (Table.find d.waits q).isSome then d.waits else Table.put d.waits q s.ltime }

/-- The state after a doorbell for a queue (R428, R429): one whose TAIL is unchanged has no effect; a descriptor that breaks its table
is noted. -/
def State.ring (s : State) (q : Nat) : State :=
  if (s.qOwner q).isNone then
    (if decide (q < (s.ctl 0xA08).toNat) && !s.qFits q then s.note .sequencer 0 0 16 0 (BitVec.ofNat 64 q) 0 else s)
  else
    let t := BitVec.ofNat 32 (s.qword q 4)
    if t.toNat = s.tailOf q then s
    else (s.modSched fun d => { d with tails := Table.put d.tails q t }).noteWaiting q

/-- A doorbell tells the sequencer that the TAIL of a queue has changed (R429). -/
def execDoorbell (s : State) : Out :=
    match s.subject with
    | .num q => .next ((s.lookQueue q).ring q)
    | _ => .next s

/-- A slot that is free. -/
def State.freeSlot (s : State) : Option Nat := (List.range 64).find? fun k => (Table.find s.sched.slots k).isNone

/-- The waiting queues that have work. -/
def State.waitingQueues (s : State) : List Nat := (s.sched.waits.map (·.1)).filter fun q => s.hasWork q

/-- The place of a queue in round-robin order after another. -/
def after (last q : Nat) : Nat := (q + 65536 - (last + 1) % 65536) % 65536

/-- The first of a list by a rank: the highest rank, then the lowest key. -/
def bestBy (l : List Nat) (rank key : Nat → Nat) : Option Nat :=
  l.foldl (fun (m : Option Nat) (q : Nat) => match m with
    | none => some q
    | some p => if rank p < rank q ∨ (rank p = rank q ∧ key q < key p) then some q else m) none

/-- The state after a queue is given a slot (R431, R433). -/
def State.mapQueue (s : State) (q slot : Nat) : State :=
  (s.modSched fun d =>
    { d with slots := Table.put d.slots slot ⟨q, d.mapCount, s.ltime, s.prioOf q⟩, waits := Table.drop d.waits q,
             mapCount := d.mapCount + 1, lastMapped := q }).note .sequencer 0 slot 17 0 (BitVec.ofNat 64 q) 0

/-- The state after the best of a list of waiting queues is mapped: highest effective priority, then round-robin from the last
queue mapped (R433). -/
def State.mapBest (s : State) (l : List Nat) : State :=
  match s.freeSlot, bestBy l s.waitPrio (after s.sched.lastMapped) with
  | some k, some q => s.mapQueue q k
  | _, _ => s

/-- A free slot is given to the waiting queue of highest effective priority (R433). -/
def execQueueMap (s : State) : Out :=
    .next (s.mapBest s.waitingQueues)

/-- Whether a queue is being unmapped (R434). -/
def State.isDraining (s : State) (q : Nat) : Bool := s.sched.draining.any fun e => e.1 = q

/-- The state after a mapped queue with nothing left to begin or dispatch gives up its slot (R431). -/
def State.yieldSlot (s : State) (q : Nat) : State :=
  if s.hasWork q || s.isDraining q || (s.sched.launches.any fun l => l.queue = q && decide (l.next < l.units)) then s
  else match s.qslot q with
    | some e => s.modSched fun d => { d with slots := Table.drop d.slots e.1 }
    | none => s

/-! ## Parked tasks leave (R442) -/

/-- The state after every page that a job's windows hold on a core is free. -/
def State.freeWindow (s : State) (core : Nat) (j : Job) : State :=
  s.modTile core fun t => { t with owners := t.owners.filter fun e => e.2 ≠ .window j }

/-- The state after a parked task is discarded, its pages free, and stands again at the head of its queue. -/
def State.unpark (s : State) (p : Parked) : State :=
  let s := (s.freeWindow p.core p.job).modSched fun d =>
    { d with parked := d.parked.filter fun e => decide (e ≠ p), requeued := (p.job, .discarded) :: d.requeued }
  (s.note .sequencer (p.core / 32) (p.core % 32) 18 0 (BitVec.ofNat 64 p.job.queue) 0).noteWaiting p.job.queue

/-! ## The end of a launch (R317, R423, R430, R438, R439) -/

/-- The state after HEAD of a queue passes the records that have ended, at most n (R430). -/
def State.passHead (s : State) (q : Nat) : Nat → State
  | 0 => s
  | n + 1 =>
    let h := s.headOf q
    if s.sched.finals.contains (q, BitVec.ofNat 32 h) then
      ((s.modSched fun d => { d with finals := d.finals.filter fun e => decide (e ≠ (q, BitVec.ofNat 32 h)) }).putQ q 2 ((h + 1) % 2 ^ 32)).passHead q n
    else s

/-- The state after a launch ends, done or failed (R317, R438): what its contexts still hold is released, its KERNEL sashes are
dropped, its final STATE is written, and then ENDCTR is added to where R439 allows. A peer that sent the record is told. -/
def State.endLaunch (s : State) (q n : Nat) : State :=
  match s.launch q n with
  | none => s
  | some l =>
    let s := l.held.foldl (fun (s : State) (a : Attach) => s.releaseSash a.key a.rw true) s
    let mine := s.sched.sashes.filter fun e => e.2.cls = 0 && e.2.creator = BitVec.ofNat 32 l.order
    let s := mine.foldl (fun (s : State) (e : Nat × SashEntry) => s.dropSash e.1) s
    let s := (s.modLaunch q n fun l => { l with st := if l.code.isSome then 6 else 5 }).showLaunch q n
    let s := s.note .sequencer 0 0 19 l.asid (BitVec.ofNat 64 q) (BitVec.ofNat 64 n)
    let s := s.modSched fun d =>
      { d with launches := d.launches.filter fun m => !(m.queue = q && m.record.toNat = n), finals := (q, l.record) :: d.finals,
               faulted := d.faulted.filter fun e => decide (e.1 ≠ l.order),
               received := d.received.filter fun r => !(r.queue = q && r.record = l.record) }
    let s := if l.endOk && l.copy.endinc ≠ 0 then s.ctrAdd l.copy.endctr (BitVec.ofNat 64 l.copy.endinc) else s
    ((s.passHead q s.sched.finals.length).yieldSlot q).noteWaiting q

/-- The state after a launch that has nothing left, dispatched whole or failed, ends (R438). -/
def State.closeLaunch (s : State) (q n : Nat) : State :=
  match s.launch q n with
  | none => s
  | some l =>
    let mine := fun (j : Job) => j.queue = q && j.record = n
    if (l.code.isSome || decide (l.units ≤ l.next)) && l.placed.isEmpty && !(s.sched.requeued.any fun e => mine e.1)
        && !(s.sched.parked.any fun p => mine p.job) then s.endLaunch q n
    else s

/-- The state after the failure of a launch is noted (R445). -/
def State.noteFailure (s : State) (q : Nat) (code : BitVec 8) : State :=
  s.note .sequencer 0 0 20 0 (BitVec.ofNat 64 q) (code.setWidth 64)

/-- The state after a launch fails (R438): nothing of it is dispatched or relaunched any more; CODE is that of the first failure. A queue that
had only such work left does not wait any more (R432). -/
def State.failLaunch (s : State) (q n : Nat) (code : BitVec 8) (unit : Option Nat) : State :=
  let mine := fun (j : Job) => j.queue = q && j.record = n
  let gone := (s.sched.parked.filter fun p => mine p.job)
  let s := gone.foldl (fun (s : State) (p : Parked) => s.unpark p) s
  let again := s.sched.requeued.filter fun e => mine e.1 && (match e.2 with | .saved _ => false | _ => true)
  let s := s.modSched fun d => { d with requeued := d.requeued.filter fun e => !again.contains e }
  let s := s.modLaunch q n fun l =>
    { l with code := l.code.orElse fun _ => some code,
             placed := l.placed.map fun p =>
               if some p.unit = unit || (again.any fun e => e.1.unit = p.unit) then { p with failed := true } else p }
  (s.noteFailure q code).noteWaiting q

/-! ## The beginning of a record (R430, R432, R439) -/

/-- Whether a queue's record at DISP may begin but for its trigger credit and its dependence (R430). -/
def State.mayBegin (s : State) (q : Nat) : Bool :=
  (s.qslot q).isSome && !s.isDraining q && s.atDisp q && (s.requeuedOf q).isEmpty
    && !(s.sched.launches.any fun l => l.queue = q && decide (l.next < l.units))

/-- Whether its trigger credit and its dependence allow it (R430). -/
def State.depends (s : State) (q : Nat) : Bool :=
  let c := s.ringRecord q (s.dispOf q)
  (!(s.qword q 1).testBit 17 || decide (0 < s.qword q 6 % 65536)) && (c.depthr = 0 || decide (c.depthr ≤ (s.ctr c.depctr).toNat))

/-- A launch as it begins. -/
def Launch.start (q n : Nat) (c : Rec) (asid : BitVec 16) (order : Nat) : Launch :=
  { queue := q, record := BitVec.ofNat 32 n, copy := c, asid := asid, st := 2, code := none, next := 0, done := 0, units := c.units,
    placed := [], reruns := [], endOk := true, order := order, sections := [], raster := none, held := [], since := none,
    paused := false }

/-- The state after the record at DISP is taken from its ring into the slot (R430, R431). -/
def State.takeRecord (s : State) (q : Nat) (l : Launch) : State :=
  (s.putQ q 3 ((s.dispOf q + 1) % 2 ^ 32)).modSched fun d =>
    { d with launches := d.launches ++ [l], order := l.order,
             slots := d.slots.map fun e => if e.2.queue = q then (e.1, { e.2 with prio := l.copy.prio }) else e }

/-- The state after the record at DISP begins: it is copied, validated there, and runs or fails (R430, R431, R438, R440). -/
def State.beginRecord (s : State) (q : Nat) : State :=
  let n := s.dispOf q
  let asid := (s.qOwner q).getD 0
  let c := s.ringRecord q n
  let s := if (s.qword q 1).testBit 17 then s.putQ q 6 (s.qword q 6 % 65536 - 1) else s
  let (bad, secs, ras, s) := s.judgeRecord c asid
  let code := if bad = [] then none else bad[s.pick 0 % bad.length]?
  let copy : List Placed := if c.kind = 4 && code.isNone then [⟨0, [], [], false, false, false, 0, none⟩] else []
  let l := { Launch.start q n c asid (s.sched.order + 1) with
             code := code, sections := secs, raster := ras, placed := copy, next := copy.length,
             st := if c.kind = 4 then 3 else 2, endOk := !s.foreign asid c.endctr c.endinc }
  let s := ((s.picked.takeRecord q l).showLaunch q n).note .sequencer 0 0 21 asid (BitVec.ofNat 64 q) (BitVec.ofNat 64 n)
  match code with
  | some e => (s.noteFailure q e).endLaunch q n
  | none => s

/-- Whether a mapped queue has a record at DISP that is not shown as WAITDEP yet (R430). -/
def State.unshown (s : State) (q : Nat) : Bool :=
  (s.qslot q).isSome && s.atDisp q && (s.ringRecord q (s.dispOf q)).f 11 0 4 ≠ 1

/-- The record at DISP of a mapped queue begins and is validated, once its order, trigger and dependence allow; until then
it is WAITDEP (R430). The dependence is read with an acquire at device scope, which the sequencer's reads at the homes leave nothing to
do. -/
def execRecordBegin (s : State) : Out :=
    match s.subject with
    | .num q =>
      if s.mayBegin q && s.depends q then .next ((s.lookRecord q (s.dispOf q)).beginRecord q)
      else .next (if s.unshown q then s.putStatus_ q (s.dispOf q) 1 0 0 0 else s)
    | _ => .next s

/-- The state after a record at DISP ends with CODE CANCEL without running (R432). -/
def State.cancelNow (s : State) (q : Nat) : State :=
  let n := s.dispOf q
  let asid := (s.qOwner q).getD 0
  let c := s.ringRecord q n
  let l := { Launch.start q n c asid (s.sched.order + 1) with
             code := some cCANCEL, units := 0, endOk := !s.foreign asid c.endctr c.endinc }
  let s := (s.modSched fun d => { d with cancels := d.cancels.filter fun e => decide (e ≠ (q, BitVec.ofNat 32 n)) }).takeRecord q l
  ((s.noteFailure q cCANCEL).endLaunch q n).noteWaiting q

/-- The state with a unit of a launch changed. -/
def State.modPlaced (s : State) (q n unit : Nat) (f : Placed → Placed) : State :=
  s.modLaunch q n fun l => { l with placed := l.placed.map fun p => if p.unit = unit then f p else p }

/-- The state after a saved task is given up, and its launch fails with a code (R369, R432): its pages and save area are free. One whose
engine commands have not ended is still on its core, and ends there. -/
def State.dropSaved (s : State) (a : SaveArea) (code : BitVec 8) : State :=
  let j := a.job
  let s := s.modSched fun d =>
    { d with saves := d.saves.filter fun b => decide (b ≠ a), requeued := d.requeued.filter fun r => decide (r.1 ≠ j) }
  let s := match s.streams.find? fun e => e.2.stop = .saved && e.2.job = some j with
    | some e =>
      (s.modStream e.1 fun x => { x with stop := .halted, pend := [] }).modPlaced j.queue j.record j.unit fun p =>
        { p with members := p.members ++ [(j.member, e.1)] }
    | none => (s.freeWindow a.core j).modLaunch j.queue j.record fun l => { l with held := l.held ++ a.stream.attached }
  (s.failLaunch j.queue j.record code (some j.unit)).row .groupEnd (.unit ⟨j.queue, j.record, j.unit⟩)

/-- The state after a record that has begun is cancelled (R369, R432, R442): parked tasks return to the head of its queue, and the tasks
that stand there, which count as a record at DISP, do not run any more. -/
def State.cancelBegun (s : State) (q n : Nat) : State :=
  let mine := fun (j : Job) => j.queue = q && j.record = n
  let s := (s.sched.parked.filter fun p => mine p.job).foldl (fun (s : State) (p : Parked) => s.unpark p) s
  if s.sched.requeued.any fun e => mine e.1 then
    let s := (s.sched.saves.filter fun a => mine a.job).foldl (fun (s : State) (a : SaveArea) => s.dropSaved a cCANCEL) s
    ((s.failLaunch q n cCANCEL none).closeLaunch q n).noteWaiting q
  else s

/-- The operating system cancels a queued record, which ends once it is at DISP (R432); of a record that has begun, the tasks that stand
at the head of its queue end (R369, R442). -/
def execRecordCancel (s : State) : Out :=
    match s.subject with
    | .num2 q n =>
      let ahead := (n + 2 ^ 32 - s.dispOf q) % 2 ^ 32
      let n32 := BitVec.ofNat 32 n
      if (s.launch q n).isSome then .next (s.cancelBegun q n)
      else if !s.atDisp q || decide ((s.tailOf q + 2 ^ 32 - s.dispOf q) % 2 ^ 32 ≤ ahead) then .next s
      else if ahead = 0 then .next ((s.lookRecord q n).cancelNow q)
      else .next (s.modSched fun d => { d with cancels := if d.cancels.contains (q, n32) then d.cancels else (q, n32) :: d.cancels })
    | _ => .next s

/-! ## Reclaim (R434) -/

/-- The slots of a class that are not being unmapped, its MIN, its borrowed slots. -/
def State.slotsOf (s : State) (c : Nat) : List QSlot :=
  (s.sched.slots.map (·.2)).filter fun e => s.prioOf e.queue / 16 = c && !s.isDraining e.queue
def State.minOf (s : State) (c : Nat) : Nat := fld (s.ctl (0xA80 + 8 * c)) 0 7
def State.borrowed (s : State) (c : Nat) : Nat := (s.slotsOf c).length - s.minOf c

/-- The waiting queues of a class. -/
def State.waitingIn (s : State) (c : Nat) : List Nat := s.waitingQueues.filter fun q => s.prioOf q / 16 = c

/-- Whether a class reclaims: below MIN, with a waiting queue, no slot free, counting the slots that it is reclaiming. -/
def State.reclaims (s : State) (c : Nat) : Bool :=
  let under := (s.sched.draining.filter fun e => e.2 = c).length
  decide (c < 8) && s.freeSlot.isNone && decide ((s.slotsOf c).length + under < s.minOf c) && decide (under < (s.waitingIn c).length)

/-- The victim of a reclaim: of the class with the most borrowed slots, any where several have as many, the queue of lowest
effective priority, of several the one mapped most recently. -/
def State.victim (s : State) : Option Nat :=
  let most := (List.range 8).foldl (fun m c => max m (s.borrowed c)) 0
  let cs := (List.range 8).filter fun c => s.borrowed c = most
  if most = 0 then none
  else
    let c := (cs[s.pick 0 % cs.length]?).getD 0
    let key := fun (q : Nat) => match s.qslot q with | some e => 2 ^ 64 - e.2.mapped | none => 0
    bestBy ((s.slotsOf c).map (·.queue)) (fun q => 256 - s.slotPrio q) key

/-- The tile contexts and waves of a queue that are on cores. -/
def State.residents (s : State) (q : Nat) : List (StreamId × Stream) :=
  s.streams.filter fun e => e.2.job.any fun j => j.queue = q

/-- The state after a tile context is asked to be preempted; one that is asked already keeps its first requester (R365, R367). -/
def Stream.ask (x : Stream) (r : Requester) : Stream := { x with preempt := x.preempt.orElse fun _ => some r }

/-- The state after the unmapping of a queue starts: its dispatch stops, its core-tasks are asked to be preempted, its parked
tasks return to it. -/
def State.unmapStart (s : State) (q c : Nat) : State :=
  let s := (s.sched.parked.filter fun p => p.job.queue = q).foldl (fun (s : State) (p : Parked) => s.unpark p) s
  let s := (s.residents q).foldl (fun (s : State) (e : StreamId × Stream) =>
    if e.1.isTile && e.2.stop ≠ .halted && e.2.stop ≠ .saved then s.modStream e.1 fun x => x.ask .reclaim else s) s
  (s.modSched fun d => { d with draining := d.draining ++ [(q, c)] }).note .sequencer 0 0 22 0 (BitVec.ofNat 64 q) (BitVec.ofNat 64 c)

/-- Whether nothing of a queue that is being unmapped is on cores any more. -/
def State.drained (s : State) (q : Nat) : Bool :=
  (s.residents q).isEmpty && !(s.sched.launches.any fun l => l.queue = q && l.copy.kind = 4)

/-- The state after a queue that has drained is unmapped and waits again, and its slot goes to the class that reclaims. -/
def State.unmapEnd (s : State) (q c : Nat) : State :=
  let mine := s.sched.launches.filter fun l => l.queue = q
  let s := mine.foldl (fun (s : State) (l : Launch) =>
    let saved := s.sched.requeued.any fun e => e.1.queue = q && e.1.record = l.record.toNat && (match e.2 with | .saved _ => true | _ => false)
    (s.modLaunch q l.record.toNat fun l => if saved then { l with st := 4 } else l).showLaunch q l.record.toNat) s
  let s := s.modSched fun d =>
    { d with slots := d.slots.filter fun e => decide (e.2.queue ≠ q), draining := d.draining.filter fun e => decide (e.1 ≠ q),
             waits := Table.drop d.waits q }
  (s.noteWaiting q).mapBest ((s.waitingIn c).filter fun p => decide (p ≠ q))

/-- A class below MIN with a waiting queue and no free slot has a borrowed slot reclaimed; a queue whose unmapping has
drained gives its slot up (R434). -/
def execSlotReclaim (s : State) : Out :=
    match s.subject with
    | .num c =>
      match s.sched.draining.find? fun e => e.2 = c && s.drained e.1 with
      | some e => .next (s.unmapEnd e.1 c)
      | none =>
        if s.reclaims c then .next (match s.victim with | some q => s.picked.unmapStart q c | none => s) else .next s
    | _ => .next s

/-! ## The ends of groups and gangs (R150, R438) -/

/-- Whether a core's commits of an earlier `mdrain` or `mlacc` of a context are outstanding (R366). -/
def State.drains (s : State) (st : StreamId) : Bool := (s.tile st.tileOf).commits.any fun d => d.st = st

/-- Whether a stream's commands have all ended (R438, R441). -/
def Stream.settled (x : Stream) : Bool :=
  (x.queues.all fun e => e.2.isEmpty) && x.tokens.all fun e => e.2 ≠ .pending

/-- Whether a stream has ended: its threads are inactive or it has halted, and nothing of it is under way (R150, R438); what becomes of a
task that a cause has ended is decided first (R441). -/
def State.taskOver (s : State) (st : StreamId) : Bool :=
  let x := s.stream st
  let unit := fun (x : Stream) => x.job.map fun j => (j.queue, j.record, j.unit)
  !(s.sched.ending.any fun e => e.1 = st || (st.isWave && unit (s.stream e.1) = unit x)) && (if st.isWave then x.thr.active = 0 else x.stop = .halted) && x.pend.isEmpty && x.loads.isEmpty && x.returns.isEmpty && x.settled
    && !(st.isTile && (s.drains st || (s.tile st.tileOf).array.any fun a => a.st = st))

/-- The state after a tile context leaves its core: its windows are free, and the queues that it owned are emptied (R26, R369). -/
def State.leaveTile (s : State) (st : StreamId) (x : Stream) : State :=
  let s := match x.job with | some j => s.freeWindow st.tileOf j | none => s
  if x.csr.qown then s.modTile st.tileOf fun t => { t with inq := File.fill 3 [], outq := File.fill 2 [] } else s

/-- The state after a stream leaves its core. -/
def State.leave (s : State) (st : StreamId) : State :=
  let s := if st.isTile then s.leaveTile st (s.stream st) else s
  let s := s.clearReservations st (BitVec.allOnes 32)
  { s with streams := Table.drop s.streams st }

/-- The state after a member of a unit that has ended leaves, once its accesses are performed at device scope (R438, R157); what it
still holds is the launch's to release (R317). -/
def State.retire (s : State) (q n unit : Nat) (m : Nat × StreamId) : State :=
  if !s.taskOver m.2 then s
  else
    let s := (s.settle m.2).release m.2 6
    if s.owes m.2 6 then s.row .groupEnd (.unit ⟨q, n, unit⟩)
    else
      let a := (s.stream m.2).attached
      let s := s.modLaunch q n fun l => { l with held := l.held ++ a }
      (s.leave m.2).modPlaced q n unit fun p => { p with ended := m.1 :: p.ended }

/-- The state after a group's store and its barriers are given up (R33). -/
def State.leaveGroup (s : State) (q n unit : Nat) : State :=
  let mine := fun (j : Job) => j.queue = q && j.record = n && j.unit = unit
  { s with
    shaders := s.shaders.map fun e => (e.1, { e.2 with gsOwners := e.2.gsOwners.filter fun o => !mine o.2.2 }),
    barriers := s.barriers.filter fun e => match e.1 with
      | .shader _ q' n' u' _ => !(q' = q && n' = n && u' = unit)
      | _ => true }

/-- The state after an add of GRPINC to GRPCTR (R438). -/
def State.groupAdd (s : State) (c : Rec) : State := if c.grpinc = 0 then s else s.ctrAdd c.grpctr (BitVec.ofNat 64 c.grpinc)

/-- The state after a unit whose members have all ended is counted, and adds to GRPCTR unless it failed (R438). With the last one on
cores a residence ends, and a launch that had stopped dispatching may go on with a fresh budget (R365, R372). -/
def State.unitDone (s : State) (q n : Nat) (p : Placed) (c : Rec) : State :=
  let s := (s.leaveGroup q n p.unit).modLaunch q n fun l =>
    let rest := l.placed.filter fun r => decide (r.unit ≠ p.unit)
    { l with done := l.done + 1, placed := rest, since := if rest.isEmpty then none else l.since, paused := l.paused && !rest.isEmpty }
  let s := (if p.failed then s else s.groupAdd c).showLaunch q n
  (s.note .sequencer 0 0 23 0 (BitVec.ofNat 64 q) (BitVec.ofNat 64 p.unit)).closeLaunch q n

/-! ## Engine-only records (R440) -/

/-- Accesses of the sequencer's copy engine. -/
def askCopy (wr : Bool) : Ask := ⟨!wr, wr, false, some 1, if wr then 5 else 4⟩

/-- The pages of a copy's rows, or the cause for which it may not reach them; its accesses are at U (log entry 23). -/
def State.copyPages (s : State) (asid : BitVec 16) (wr : Bool) (rows : List Nat) (n : Nat) : (Except (BitVec 8) (List Elem)) × State :=
  match s.seqPages asid (askCopy wr) (if n = 0 then [] else rowPages rows n) with
  | (.ok l, s) =>
    if l.any fun e => !e.x.u then (.error cPERM, s)
    else if !wr && (rows.any fun a => (linePieces a n).any fun p => match xlAt l p.1 with
        | some x => s.lost x.pa | none => false) then (.error cECC, s)
    else (.ok l, s)
  | r => r

/-- The copy of a kind 4 record, with the cause of its error. -/
def State.copyRecord (s : State) (c : Rec) (asid : BitVec 16) : Option (BitVec 8) × State :=
  match s.copyPages asid false [c.args] 32 with
  | (.error e, s) => (some e, s)
  | (.ok ps, s) =>
    let (b, s) := s.readThrough c.qos ps c.args 32
    let w := fun (k n : Nat) => leNat ((b.drop k).take n)
    let len := w 16 4
    let rows := w 20 4
    let src := strided (w 0 8) (w 24 4) rows
    let dst := strided (w 8 8) (w 28 4) rows
    if decide (2 ^ 48 ≤ w 0 8 ∨ 2 ^ 48 ≤ w 8 8) then (some cILLOP, s)
    else if rows = 0 ∨ len = 0 then (none, s)
    else match s.copyPages asid false src len with
      | (.error e, s) => (some e, s)
      | (.ok from_, s) => match s.copyPages asid true dst len with
        | (.error e, s) => (some e, s)
        | (.ok into, s) =>
          let (data, s) := (src.zip dst).foldl (fun (r : List (Nat × List Byte) × State) (e : Nat × Nat) =>
            let (b, s) := r.2.readThrough c.qos from_ e.1 len
            (r.1 ++ [(e.2, b)], s)) ([], s)
          (none, ((s.lay data).foldl (fun (s : State) (e : Nat × Byte) => s.putThrough c.qos into e.1 [e.2]) s).picked)

/-- The state after the one group of a kind 4 launch ends with its copy (R440). -/
def State.copyEnd (s : State) (q n : Nat) (l : Launch) : State :=
  match s.copyRecord l.copy l.asid with
  | (some e, s) => ((s.modLaunch q n fun l => { l with placed := [], done := 1 }).failLaunch q n e none).closeLaunch q n
  | (none, s) => (((s.modLaunch q n fun l => { l with placed := [], done := 1 }).groupAdd l.copy).showLaunch q n).closeLaunch q n

/-- The state after a unit of a launch is looked at for its end. -/
def State.unitEnd (s : State) (u : UnitId) : State :=
  let q := u.queue
  let n := u.record
  match s.launch q n with
  | none => s
  | some l =>
    if l.copy.kind = 4 && !l.placed.isEmpty then s.copyEnd q n l
    else match l.placed.find? fun p => p.unit = u.unit with
      | none => s.closeLaunch q n
      | some p =>
        let s := (p.members.filter fun m => !p.ended.contains m.1).foldl (fun (s : State) (m : Nat × StreamId) => s.retire q n u.unit m) s
        let mine := fun (j : Job) => j.queue = q && j.record = n && j.unit = u.unit
        match (s.launch q n).bind fun l => l.placed.find? fun p => p.unit = u.unit with
        | some p =>
          if (p.members.all fun m => p.ended.contains m.1) && !(s.sched.requeued.any fun e => mine e.1)
              && !(s.sched.parked.any fun e => mine e.job) then s.unitDone q n p l.copy
          else s
        | none => s

/-- A group or gang ends: its GRPCTR add is made; with the last one the launch ends (R438). A kind 4 record's copy is
performed, and it ends (R440). -/
def execGroupEnd (s : State) : Out :=
    match s.subject with
    | .unit u => .next (s.unitEnd u)
    | _ => .next s

end Sys2Proof.Machine
end

