-- ==== Sys2Proof/Machine/Groups.lean ====
section
/-! DEFINITION. Shader and pixel dispatch: groups on cores, the front end's coverage and barycentrics, cluster and die units, the decay
of the lost-locality scores (R20, R33, R36, R296 to R299, R426, R435, R436, R443, R488). -/

namespace Sys2Proof.Machine

/-! ## Pixels (R296 to R299) -/

/-- A finite `f32` in units of 2^-149. -/
def f32Units (b : Nat) : Option Int :=
  let e := b / 2 ^ 23 % 256
  let m := b % 2 ^ 23
  if e = 255 then none
  else
    let v : Int := ((if e = 0 then m else (m + 2 ^ 23) * 2 ^ (e - 1) : Nat) : Int)
    some (if b.testBit 31 then -v else v)

/-- A point, and a triangle by its three corners, in units of 2^-149 pixels. -/
abbrev Point := Int × Int
structure Tri where
  a : Point
  b : Point
  c : Point
  deriving DecidableEq, Repr

/-- What a group shades: every pixel, a triangle, or a primitive with a corner that is no number. -/
inductive Prim where
  | all
  | tri (t : Tri)
  | odd
  deriving DecidableEq, Repr

/-- The primitive that 24 bytes hold. -/
def Prim.ofBytes (l : List Byte) : Prim :=
  let f := fun (k : Nat) => f32Units (leNat ((l.drop (4 * k)).take 4))
  match f 0, f 1, f 2, f 3, f 4, f 5 with
  | some a, some b, some c, some d, some e, some g => .tri ⟨(a, b), (c, d), (e, g)⟩
  | _, _, _, _, _, _ => .odd

/-- The centre of a pixel. -/
def centre (x y : Nat) : Point := ((2 * x + 1 : Int) * 2 ^ 148, (2 * y + 1 : Int) * 2 ^ 148)

/-- The edge function of an edge from p to q at a point; y grows downward. -/
def edge (p q r : Point) : Int := (q.1 - p.1) * (r.2 - p.2) - (q.2 - p.2) * (r.1 - p.1)

/-- Whether a point is inside an edge of a triangle of positive area, or on one that is a top or left edge. -/
def inEdge (p q r : Point) : Bool := decide (0 < edge p q r) || (edge p q r = 0 && decide (q.2 < p.2 ∨ (q.2 = p.2 ∧ p.1 < q.1)))

/-- Whether a triangle covers a pixel (R298); either winding is accepted. -/
def Tri.covers (t : Tri) (x y : Nat) : Bool :=
  let r := centre x y
  let area := edge t.a t.b t.c
  if area = 0 then false
  else if 0 < area then inEdge t.a t.b r && inEdge t.b t.c r && inEdge t.c t.a r
  else inEdge t.b t.a r && inEdge t.c t.b r && inEdge t.a t.c r

/-- A quotient of integers rounded RNE to `f32`. -/
def ratio32 (m n : Int) : Nat :=
  if m = 0 then 0
  else (fmt32.div effRne 0 (.fin (decide (m < 0)) m.natAbs 0) (.fin (decide (n < 0)) n.natAbs 0)).bits

/-- The barycentric weights of vertices 1 and 2 at a pixel's centre (R299). -/
def Tri.weights (t : Tri) (x y : Nat) : Nat × Nat :=
  let r := centre x y
  let area := edge t.a t.b t.c
  (ratio32 (edge t.c t.a r) area, ratio32 (edge t.a t.b r) area)

/-- The pixel that a lane of a wave of a tile shades (R297). -/
def pixelOf (f2 f3 f1 k : Nat) : Nat × Nat := (16 * f2 + 8 * (f1 % 2) + k % 8, 16 * f3 + 4 * (f1 / 2) + k / 8)

/-- Whether a primitive covers a pixel; of one with a corner that is no number the manual does not say (log entry 6). -/
def State.covers (s : State) (p : Prim) (x y : Nat) : Bool :=
  match p with
  | .all => true
  | .tri t => t.covers x y
  | .odd => s.pickBit (65536 * x + y)

/-- The weights that the front end writes. -/
def State.weightsAt (s : State) (p : Prim) (x y : Nat) : Nat × Nat :=
  match p with
  | .all => (0, 0)
  | .tri t => t.weights x y
  | .odd => (s.pick (2 ^ 33 + 65536 * x + y) % 2 ^ 32, s.pick (2 ^ 34 + 65536 * x + y) % 2 ^ 32)

/-- The lanes of a wave of a pixel group that are active: in the frame and covered (R297, R298). -/
def State.pixelLanes (s : State) (r : Raster) (p : Prim) (f2 f3 f1 : Nat) : Lanes :=
  ofLanes ((List.range 32).filter fun k =>
    let (x, y) := pixelOf f2 f3 f1 k
    decide (x < r.width ∧ y < r.height) && s.covers p x y)

/-- The primitive of a unit of a launch, or the cause for which its corners cannot be read (log entry 24). -/
def State.primOf (s : State) (l : Launch) (unit : Nat) : (Except (BitVec 8) Prim) × State :=
  match l.raster with
  | some r =>
    if r.prims = 0 then (.ok .all, s)
    else match s.seqRead l.copy.qos l.asid ((r.verts + 24 * ((l.copy.fields unit 0)[4]?).getD 0) % 2 ^ 48) 24 with
      | (.ok b, s) => (.ok (Prim.ofBytes b), s)
      | (.error e, s) => (.error e, s)
  | none => (.ok .all, s)

/-- Whether a unit is a group: of kind 3, a pixel of its tile is covered (R298). -/
def State.isGroup (s : State) (l : Launch) (unit : Nat) (p : Prim) : Bool :=
  match l.raster with
  | some r =>
    let f := fun (i : Nat) => ((l.copy.fields unit 0)[i]?).getD 0
    p = .all || (List.range 8).any fun m => s.pixelLanes r p (f 2) (f 3) m ≠ 0
  | none => true

/-- Whether some groups of kind 3 wait for groups of their tiles and lower primitives (R298): resident or requeued ones, or others among
them. -/
def State.tilesBusy (s : State) (l : Launch) (units : List Nat) : Bool :=
  let n := l.copy.extent 2 * l.copy.extent 3
  let tiles := units.map (· % n)
  l.copy.kind = 3 && (tiles.eraseDups.length ≠ tiles.length || (l.placed.any fun p => tiles.contains (p.unit % n))
    || s.sched.requeued.any fun e => e.1.queue = l.queue && e.1.record = l.record.toNat && tiles.contains (e.1.unit % n))

/-! ## Groups on cores (R20, R33, R426, R435) -/

/-- The wave slots of a core that are free, and the V registers that its waves hold. -/
def State.freeWaves (s : State) (n : Nat) : List Nat := (List.range 64).filter fun w => (Table.find s.streams (.wave n w)).isNone
def State.vregsHeld (s : State) (n : Nat) : Nat :=
  (s.streams.filterMap fun e => match e.1 with | .wave c _ => if c = n then some e.2.thr.regs else none | _ => none).foldl (· + ·) 0

/-- The first KiB of the free runs of n KiB of a group store. -/
def ShaderCore.storeRuns (t : ShaderCore) (n : Nat) : List Nat :=
  (List.range (257 - n)).filter fun b => t.gsOwners.all fun o => decide (b + n ≤ o.1 ∨ o.1 + o.2.1 ≤ b)

/-- Whether a group of a record fits on a core now (R435). -/
def State.fitsCore (s : State) (c : Rec) (n : Nat) : Bool :=
  decide (c.size ≤ (s.freeWaves n).length ∧ s.vregsHeld n + c.size * c.vregs ≤ 4096) && (c.gsKib = 0 || (s.shader n).storeRuns c.gsKib ≠ [])

/-- The state after part of a group store is newly allocated to an address space (R488): what another wrote last reads as zero; any
other byte holds zero or what was left, a free choice for each (log entry 6). -/
def State.freshStore (s : State) (n base kib : Nat) (asid : BitVec 16) : State :=
  State.picked (s.modShader n fun t =>
    { t with gs := t.gs.filter fun e =>
        !decide (1024 * base ≤ e.1 ∧ e.1 < 1024 * (base + kib))
          || (Table.find t.gsWriters (e.1 / 1024) = some asid && s.pickBit e.1) })

/-- A wave as it starts (R36, R299, R426). -/
def State.waveOf (s : State) (l : Launch) (unit member base : Nat) (p : Prim) : Stream :=
  let c := l.copy
  let fs := c.fields unit member
  let f := fun (i : Nat) => (fs[i]?).getD 0
  let lanes := match l.raster with
    | some r => s.pixelLanes r p (f 2) (f 3) (f 1)
    | none => ofLanes ((List.range 32).filter fun k => decide (k < c.extent 0))
  let px := pixelOf (f 2) (f 3) (f 1)
  let v := fun (g : Nat → Nat) => fillElems 4 g
  let vs : File 6 VWord := File.fill 6 0
  let args := BitVec.ofNat 64 (c.args + if c.kind = 3 then 64 else 0)
  let x := Stream.launch
  { x with
    s := File.set (File.set x.s 0 args) 1 (s.recordWord l),
    v := if c.kind = 3 then
        File.set (File.set (File.set (File.set vs 0 (v fun k => (px k).1)) 1 (v fun k => (px k).2))
          2 (v fun k => (s.weightsAt p (px k).1 (px k).2).1)) 3 (v fun k => (s.weightsAt p (px k).1 (px k).2).2)
      else vs,
    csr := { x.csr with wid := c.wid fs, widf := c.widf, asid := l.asid, gswin := BitVec.ofNat 17 (base + 256 * c.gsKib) },
    thr := { x.thr with exist := lanes, active := lanes, regs := c.vregs },
    job := some ⟨l.queue, l.record.toNat, unit, member⟩, cls := c.qos,
    image := BitVec.ofNat 48 (c.image + (match l.sections.head? with | some e => e.1 | none => 0)) }

/-- The state after a group of a launch is placed on a core that has room for it; its start is an acquire at device scope (R330). -/
def State.placeGroup (s : State) (l : Launch) (unit : Nat) (p : Prim) (n : Nat) : State :=
  let c := l.copy
  let runs := (s.shader n).storeRuns c.gsKib
  let base := if c.gsKib = 0 then 0 else (runs[s.pick 0 % runs.length]?).getD 0
  let j : Job := ⟨l.queue, l.record.toNat, unit, 0⟩
  let ws := (s.freeWaves n).take c.size
  let s := if c.gsKib = 0 then s
    else (s.modShader n fun t => { t with gsOwners := (base, c.gsKib, j) :: t.gsOwners }).freshStore n base c.gsKib l.asid
  let ms := ws.zipIdx
  let s := ms.foldl (fun (s : State) (e : Nat × Nat) => s.setStream (.wave n e.1) (s.waveOf l unit e.2 base p)) s
  let s := s.modShader n fun t =>
    { t with victims := t.victims.filter fun e => !ws.contains e.1, scores := t.scores.filter fun e => !ws.contains e.1 }
  let placed : Placed := ⟨unit, ms.map fun e => (e.2, .wave n e.1), [], false, true, true, 0, none⟩
  let s := s.modLaunch l.queue l.record.toNat fun m => { m with placed := m.placed ++ [placed], since := m.since.orElse fun _ => some s.clocks }
  ((s.acquire (.wave n 0) 6).note .sequencer (n / 64) (n % 64) 24 l.asid (BitVec.ofNat 64 l.queue) (BitVec.ofNat 64 unit)).picked

/-- The state after a group is placed on one of some cores: the most free waves, then the lowest number (R435). -/
def State.tryGroup (s : State) (l : Launch) (cores : List Nat) (u : Nat × Prim) : Option State :=
  (bestBy (cores.filter fun n => s.fitsCore l.copy n) (fun n => (s.freeWaves n).length) id).map fun n => s.placeGroup l u.1 u.2 n

/-- The state after all of a list of groups are placed on some cores, or none. -/
def State.tryGroups (s : State) (l : Launch) (cores : List Nat) (us : List (Nat × Prim)) : Option State :=
  us.foldl (fun (r : Option State) (u : Nat × Prim) => r.bind fun s => s.tryGroup l cores u) (some s)

/-- The admitted clusters of some dies, each by its cores. -/
def Rec.clusters (c : Rec) (dies : List Nat) : List (List Nat) :=
  dies.flatMap fun d => ((List.range 8).filter fun k => c.admitsCluster d k).map fun k => (List.range 8).map fun i => 64 * d + 8 * k + i

/-- The state after a list of groups is placed in one of some clusters. -/
def State.tryClusters (s : State) (l : Launch) (cs : List (List Nat)) (us : List (Nat × Prim)) : Option State :=
  cs.findSome? fun cores => s.tryGroups l cores us

/-- The state after the units of one cluster unit each are placed in clusters of a die. -/
def State.tryDie (s : State) (l : Launch) (die : Nat) (us : List (Nat × Prim)) : Option State :=
  let cs := l.copy.clusters [die]
  if l.copy.clevel = 0 then s.tryGroups l (cs.flatMap id) us
  else
    let z := max 1 l.copy.clusterGroups
    ((us.map fun u => u.1 / z).eraseDups).foldl (fun (r : Option State) (k : Nat) =>
      r.bind fun s => s.tryClusters l cs (us.filter fun u => decide (u.1 / z = k))) (some s)

/-- The state after the groups that are placed in one step are placed, if all of them fit at once (R435, R443). -/
def State.tryBlock (s : State) (l : Launch) (us : List (Nat × Prim)) : Option State :=
  let c := l.copy
  let dies := match us with | u :: _ => c.dies u.1 0 | [] => []
  if c.dlevel ≠ 0 then dies.findSome? fun d => s.tryDie l d us
  else if c.clevel ≠ 0 then s.tryClusters l (c.clusters dies) us
  else s.tryGroups l ((c.clusters dies).flatMap id) us

/-- The primitives of a list of units. -/
def State.primsOf (s : State) (l : Launch) : List Nat → (Except (BitVec 8) (List (Nat × Prim))) × State
  | [] => (.ok [], s)
  | u :: t =>
    match s.primOf l u with
    | (.error e, s) => (.error e, s)
    | (.ok p, s) => match s.primsOf l t with
      | (.ok r, s) => (.ok ((u, p) :: r), s)
      | (.error e, s) => (.error e, s)

/-- The state after NEXT of a launch has passed the units of a step; with the last one it is DISPATCHED (R423, R437). -/
def State.passed (s : State) (q n count : Nat) : State :=
  let s := s.modLaunch q n fun l =>
    let next := l.next + count
    { l with next := next, st := if l.units ≤ next then 3 else 2 }
  (s.showLaunch q n).yieldSlot q

/-- Whether a launch of a queue may place anything now. -/
def State.mayPlace (s : State) (l : Launch) : Bool :=
  (s.qslot l.queue).isSome && !s.isDraining l.queue && l.code.isNone && !l.paused && decide (l.next < l.units)
    && (s.requeuedOf l.queue).isEmpty

/-- The state after a queue has had its turn to place: the queues behind it compete afresh in the next clock (R435). -/
def State.turnTaken (s : State) : State :=
  { s with agenda := s.agenda.filter fun i => match i with | .row .groupDispatch _ => false | .row .rerun (.num _) => false | _ => true }

/-- The state after a queue has placed a group: its waiting counts afresh (R435). -/
def State.hasPlaced (s : State) (q : Nat) : State :=
  s.modSched fun d =>
    { d with lastPlaced := q, slots := d.slots.map fun e => if e.2.queue = q then (e.1, { e.2 with placedAt := s.ltime }) else e }

/-- The state after the next groups of a launch are placed, if they fit; groups without a covered pixel are passed over (R298). -/
def State.dispatchNext (s : State) (l : Launch) : State :=
  let q := l.queue
  let n := l.record.toNat
  let k := min (max 1 l.copy.block) (l.units - l.next)
  let us := (List.range k).map fun i => l.next + i
  match s.primsOf l us with
  | (.error e, s) => (s.failLaunch q n e none).closeLaunch q n
  | (.ok ps, t) =>
    let live := ps.filter fun u => t.isGroup l u.1 u.2
    if live = [] then (t.picked.passed q n k).turnTaken
    else if s.tilesBusy l (live.map (·.1)) then s
    else match t.tryBlock l live with
      | some t => (((t.hasPlaced q).picked).passed q n k).turnTaken
      | none => s

/-- The next group of a launch, or its next whole cluster or die unit, is placed when it fits (R435). -/
def execGroupDispatch (s : State) : Out :=
    match s.subject with
    | .num2 q n =>
      match s.launch q n with
      | some l => .next (if l.copy.shader && s.mayPlace l then s.dispatchNext l else s)
      | none => .next s
    | _ => .next s

/-- Each wave's lost-locality score is halved (R436). -/
def execLocalityScoreDecay (s : State) : Out :=
    .next { s with shaders := s.shaders.map fun e => (e.1, { e.2 with scores := e.2.scores.map fun w => (w.1, w.2 / 2) }) }

end Sys2Proof.Machine
end

