-- ==== Sys2Proof/Machine/Gangs.lean ====
section
/-! DEFINITION. Tile gangs: placement, loading, release; reruns; preloaded tasks (R26, R34, R320, R426, R437, R441, R442). -/

namespace Sys2Proof.Machine

/-! ## Placement (R26, R320, R437) -/

/-- Whether a context of a tile core is free. -/
def State.ctxFree (s : State) (core : Nat) (b : Bool) : Bool := (Table.find s.streams (.tile core b)).isNone

/-- The jobs that are on a tile core: running, parked, preempted with their pages held there (R26). -/
def State.jobsOn (s : State) (core : Nat) : List Job :=
  ([false, true].filterMap fun b => (Table.find s.streams (.tile core b)).bind (·.job))
    ++ (s.sched.parked.filter fun p => p.core = core).map (·.job) ++ (s.sched.saves.filter fun a => a.core = core).map (·.job)

/-- Whether a job's record has a property. -/
def State.jobHas (s : State) (j : Job) (f : Rec → Bool) : Bool := (s.launchOf j).any fun l => f l.copy

/-- Whether a task with both contexts runs on a core. -/
def State.solo (s : State) (core : Nat) : Bool :=
  [false, true].any fun b => ((Table.find s.streams (.tile core b)).bind (·.job)).any fun j => s.jobHas j fun c => c.ctx = 2

/-- The contexts of a core that a core-task of a record may take, those named in a list apart (R437). -/
def State.ctxsFor (s : State) (c : Rec) (core : Nat) (taken : List (Nat × Bool)) : List Bool :=
  let free := fun (b : Bool) => s.ctxFree core b && !taken.contains (core, b)
  if s.solo core then []
  else if c.ctx = 2 then (if free false && free true then [false] else [])
  else if c.ctx1 then (if free true then [true] else [])
  else [false, true].filter free

/-- How many runs of n pages of a space, apart from one another, a test frees. -/
def runCount (space n : Nat) (free : Nat → Bool) : Nat :=
  ((List.range (spacePages space)).foldl (fun (r : Nat × Nat) p =>
    if !free p then (r.1, 0) else if r.2 + 1 = n then (r.1 + 1, 0) else (r.1, r.2 + 1)) (0, 0)).1

/-- Whether several runs of n contiguous pages of a space of a core are free, or can be made free (R318). -/
def State.roomFor (s : State) (core space n count req : Nat) : Bool :=
  let cs := s.candidates core req
  n = 0 || decide (count ≤ runCount space n fun p => s.owner core space p = .free
    || cs.any fun e => e.2.space.toNat = space && decide (e.2.base.toNat ≤ p ∧ p < e.2.base.toNat + e.2.pages.toNat))

/-- The context of a core that a core-task of a unit may take now (R26, R437). -/
def State.seat (s : State) (l : Launch) (unit k core : Nat) (taken : List (Nat × Bool)) : Option Bool :=
  let c := l.copy
  let n := 1 + (taken.filter fun t => t.1 = core).length
  if c.admitsTile core && (c.dies unit k).contains (core / 32) && !(s.sched.parked.any fun p => p.core = core)
      && !(c.queues && (s.jobsOn core).any fun j => s.jobHas j Rec.queues)
      && (List.range 3).all fun p => s.roomFor core p (c.pages p) n l.order
  then (s.ctxsFor c core taken).head? else none

/-- The contexts that a core-task takes. -/
def seats (c : Rec) (core : Nat) (b : Bool) : List (Nat × Bool) := if c.ctx = 2 then [(core, false), (core, true)] else [(core, b)]

/-- The core where the first listed resident sash of a core-task resides (R320). -/
def State.homeOf (s : State) (l : Launch) (k : Nat) : Option Nat :=
  (l.copy.sashList.filter fun e => e.task = k).findSome? fun e =>
    (s.sashLive (e.fullName l.asid)).bind fun key => if (s.sash key).st = .resident then some (s.sash key).tile else none

/-- Core-tasks with their cores and contexts. -/
abbrev Seats := List (Nat × Nat × Bool)

/-- Seats for a list of core-tasks of a unit, each at its home or on the first core that has room, cores without another of the gang
first. -/
def State.seatAll (s : State) (l : Launch) (unit : Nat) : List Nat → List (Nat × Bool) → Option Seats
  | [], _ => some []
  | k :: t, taken =>
    let all := List.range 64
    let cores := match s.homeOf l k with
      | some h => [h]
      | none => (all.filter fun n => !taken.any fun e => e.1 = n) ++ all.filter fun n => taken.any fun e => e.1 = n
    match cores.findSome? fun n => (s.seat l unit k n taken).map fun b => (n, b) with
    | some (n, b) => (s.seatAll l unit t (seats l.copy n b ++ taken)).map fun r => (k, n, b) :: r
    | none => none

/-- The casements that a gang with QUEUES may take: the one where each core-task with a home has it (R320), which it waits for; any where none
has one; of homes that no one casement fits, theirs first (log entry 19). -/
def State.casementsFor (s : State) (l : Launch) : List Nat :=
  let homes := (List.range 4).filterMap fun k => (s.homeOf l k).map fun h => (k, h)
  match (homes.map fun e => e.2 / 4).eraseDups with
  | [] => List.range 16
  | [j] => if homes.all fun e => e.2 % 4 = e.1 then [j] else j :: List.range 16
  | js => js ++ List.range 16

/-- Seats of a gang with QUEUES: the four cores of a casement, core-task k at position k. -/
def State.seatCasement (s : State) (l : Launch) (unit : Nat) : Option Seats :=
  (s.casementsFor l).findSome? fun j =>
    (List.range 4).foldr (fun (k : Nat) (r : Option Seats) =>
      r.bind fun l' => (s.seat l unit k (4 * j + k) []).map fun b => (k, 4 * j + k, b) :: l') (some [])

/-- Seats for a gang: the core-tasks with a home first, since the others take any core; in the order of the core-tasks. -/
def State.seatGang (s : State) (l : Launch) (unit : Nat) : Option Seats :=
  let ks := List.range l.copy.size
  let home := fun (k : Nat) => (s.homeOf l k).isSome
  if l.copy.queues then s.seatCasement l unit
  else (s.seatAll l unit (ks.filter home ++ ks.filter fun k => !home k) []).map fun r => ks.filterMap fun k => r.find? fun e => e.1 = k

/-! ## Loading (R34, R425, R437) -/

/-- The first pages of windows in the W, A and K spaces. -/
abbrev Bases := Nat × Nat × Nat

/-- The state after contiguous pages of one space are taken for a job's window, if they are there (R318). -/
def State.takePages (s : State) (core space n req : Nat) (j : Job) : Option Nat × State :=
  if n = 0 then (some 0, s)
  else match s.makeRoom core space n req with
    | (.run b, s) => (some b, s.own_ core space b n (.window j))
    | (_, s) => (none, s)

/-- The state after the windows of a core-task are taken. -/
def State.takeWindows (s : State) (c : Rec) (core req : Nat) (j : Job) : Option Bases × State :=
  match s.takePages core 0 (c.pages 0) req j with
  | (some w, s) => match s.takePages core 1 (c.pages 1) req j with
    | (some a, s) => match s.takePages core 2 (c.pages 2) req j with
      | (some k, s) => (some (w, a, k), s)
      | (none, s) => (none, s.freeWindow core j)
    | (none, s) => (none, s.freeWindow core j)
  | (none, s) => (none, s)

/-- The job of a core-task. -/
def Launch.job (l : Launch) (unit k : Nat) : Job := ⟨l.queue, l.record.toNat, unit, k⟩

/-- The state after the windows of all core-tasks of a gang are taken, or none of them. -/
def State.takeAll (s : State) (l : Launch) (unit : Nat) : Seats → Option (List Bases) × State
  | [] => (some [], s)
  | (k, core, _) :: t =>
    match s.takeWindows l.copy core l.order (l.job unit k) with
    | (none, s) => (none, s)
    | (some b, s) => match s.takeAll l unit t with
      | (some r, s) => (some (b :: r), s)
      | (none, s) => (none, s.freeWindow core (l.job unit k))

/-- The section of a core-task, as its offset and length. -/
def Launch.section_ (l : Launch) (k : Nat) : Nat × Nat :=
  if l.sections.length = 1 then (l.sections[0]?).getD (0, 0) else (l.sections[k]?).getD (0, 0)

/-- The code of a core-task, or the cause for which the sequencer cannot read it. -/
def State.readCode (s : State) (l : Launch) (k : Nat) : (Except (BitVec 8) (List Byte)) × State :=
  s.seqRead l.copy.qos l.asid (l.copy.image + (l.section_ k).1) (64 * (l.section_ k).2)

/-- The code of a list of core-tasks. -/
def State.readCodes (s : State) (l : Launch) : List Nat → (Except (BitVec 8) (List (List Byte))) × State
  | [] => (.ok [], s)
  | k :: t =>
    match s.readCode l k with
    | (.error e, s) => (.error e, s)
    | (.ok b, s) => match s.readCodes l t with
      | (.ok r, s) => (.ok (b :: r), s)
      | (.error e, s) => (.error e, s)

/-- The bank that a tile context executes from, and the standby bank (R34). -/
def TileCore.bankOf (t : TileCore) (c1 : Bool) : Nat := if c1 then t.bank1.toNat else t.bank0.toNat
def TileCore.standby (t : TileCore) : BitVec 2 := 3 - t.bank0 - t.bank1

/-- A core with a bank loaded; what is not loaded is empty (R88, R425). -/
def TileCore.load (t : TileCore) (bank : Nat) (b : List Byte) : TileCore :=
  { t with banks := (t.banks.filter fun e => decide (e.1.1 ≠ bank)) ++ (List.range (b.length / 64)).map fun i =>
      ((bank, i), BitVec.ofNat 512 (leNat ((b.drop (64 * i)).take 64))) }

/-- The state after the code of a task is loaded for a context of a core: into the standby bank, which becomes the context's, or, where
that holds a parked task, into the context's own, which is free. -/
def State.loadCode (s : State) (core : Nat) (b : Bool) (code : List Byte) : State :=
  let parked := s.sched.parked.any fun p => p.core = core
  s.modTile core fun t =>
    let k := if parked then t.bankOf b else t.standby.toNat
    let t := t.load k code
    if b then { t with bank1 := BitVec.ofNat 2 k } else { t with bank0 := BitVec.ofNat 2 k }

/-- A window CSR (R45). -/
def windowCsr (base n : Nat) : BitVec 16 := if n = 0 then 0 else BitVec.ofNat 16 (base + 256 * n)

/-- A core-task as it is loaded: not released yet (R426, R437). -/
def State.taskOf (s : State) (l : Launch) (unit k core : Nat) (b : Bases) : Stream :=
  let c := l.copy
  let x := Stream.launch
  { x with
    s := File.set (File.set x.s 0 (BitVec.ofNat 64 c.args)) 1 (s.recordWord l),
    csr := { x.csr with wid := c.wid (c.fields unit k), widf := c.widf, asid := l.asid, wbwin := windowCsr b.1 (c.pages 0),
                        abwin := windowCsr b.2.1 (c.pages 1), kbwin := windowCsr b.2.2 (c.pages 2) },
    job := some (l.job unit k), cls := c.qos, stop := .staged, since := (s.common (.tile core)).cycle.toNat }

/-- The state after a task takes a context, and with it the core's queues where they fall to it (R26); queues that pass are empty. -/
def State.seatTask (s : State) (core : Nat) (b : Bool) (x : Stream) (queues : Bool) : State :=
  let other : StreamId := .tile core !b
  let held := (s.stream other).csr.qown && (Table.find s.streams other).isSome
  let own := queues || (!b && !held)
  let s := if own && held then s.modStream other fun y => { y with csr := { y.csr with qown := false } } else s
  let s := if own then s.modTile core fun t => { t with inq := File.fill 3 [], outq := File.fill 2 [] } else s
  s.setStream (.tile core b) { x with csr := { x.csr with qown := own } }

/-- The state after one core-task of a gang is loaded on its core (R437 steps 2 to 4, R488). -/
def State.loadTask (s : State) (l : Launch) (unit k core : Nat) (b : Bool) (w : Bases) (code : List Byte) : State :=
  let c := l.copy
  let s := s.loadCode core b code
  let fresh := fun (s : State) (space base : Nat) => if c.pages space = 0 then s else s.freshPages core space base (c.pages space) l.asid
  let s := fresh (fresh (fresh s 0 w.1) 1 w.2.1) 2 w.2.2
  (s.modTile core fun t => { t with flags := c.flags }).seatTask core b (s.taskOf l unit k core w) c.queues

/-- The state after a list of core-tasks is loaded. -/
def State.loadTasks (s : State) (l : Launch) (unit : Nat) (ps : Seats) (ws : List Bases) (codes : List (List Byte)) : State :=
  ((ps.zip ws).zip codes).foldl (fun (s : State) (e : ((Nat × Nat × Bool) × Bases) × List Byte) =>
    s.loadTask l unit e.1.1.1 e.1.1.2.1 e.1.1.2.2 e.1.2 e.2) s

/-- The dies of a list of seats. -/
def diesOf (ps : Seats) : List Nat := (ps.map fun p => p.2.1 / 32).eraseDups

/-- The state after the dies of a unit are asked for their ready reports (R437). -/
def State.askReady (s : State) (q n unit : Nat) (ds : List Nat) : State :=
  s.post (ds.map fun d => .row .gangReadyReport (.unitDie ⟨q, n, unit⟩ (d = 1)))

/-- The state after the next gang of a launch is placed and loaded, if there is room for it; pages that must be freed first are
(R318), and code that cannot be read fails the launch (R425). -/
def State.launchGang (s : State) (l : Launch) : State :=
  let q := l.queue
  let n := l.record.toNat
  let unit := l.next
  match s.seatGang l unit with
  | none => s
  | some ps =>
    match s.takeAll l unit ps with
    | (none, s) => s
    | (some ws, s) =>
      match s.readCodes l (ps.map (·.1)) with
      | (.error e, s) =>
        let s := ps.foldl (fun (s : State) (p : Nat × Nat × Bool) => s.freeWindow p.2.1 (l.job unit p.1)) s
        (s.failLaunch q n e none).closeLaunch q n
      | (.ok codes, s) =>
        let s := s.loadTasks l unit ps ws codes
        let ds := diesOf ps
        let placed : Placed :=
          ⟨unit, ps.map fun p => (p.1, .tile p.2.1 p.2.2), [], false, !ds.contains 0, !ds.contains 1, 0, none⟩
        let s := s.modLaunch q n fun m => { m with placed := m.placed ++ [placed] }
        let s := (s.hasPlaced q).note .sequencer 0 0 25 l.asid (BitVec.ofNat 64 q) (BitVec.ofNat 64 unit)
        (s.passed q n 1).askReady q n unit ds

/-- The next gang of a launch is placed, its code loaded, its windows allocated and its flags preset (R437). -/
def execGangLaunch (s : State) : Out :=
    match s.subject with
    | .num2 q n =>
      match s.launch q n with
      | some l => .next (if l.copy.kind = 2 && s.mayPlace l then s.launchGang l else s)
      | none => .next s
    | _ => .next s

/-! ## Ready and release (R320, R437) -/

/-- The state after the listed sashes of a core-task are brought to its core, one after another (R320): whether all are there and
may be attached; none where the launch fails. -/
def State.bringItems (s : State) (l : Launch) (core : Nat) : List SashItem → Option Bool × State
  | [] => (some true, s)
  | e :: t =>
    match s.sashLive (e.fullName l.asid) with
    | none => (none, s)
    | some key =>
      let x := s.sash key
      if x.space.toNat ≠ fld e.space 0 2 || (x.st = .resident && x.tile ≠ core && !bit e.flags 2) then (none, s)
      else match x.step core (bit e.flags 1) (bit e.flags 2) (bit e.flags 3) e.gen (x.own && x.request = l.order) with
        | .refuse _ => (none, s)
        | .wait _ => (some false, s)
        | .attach => s.bringItems l core t
        | .bring =>
          if s.sched.faulted.contains (l.order, key) then (none, s)
          else match s.makeRoom core x.space.toNat x.pages.toNat l.order with
            | (.none, s) => (none, s)
            | (.wait, s) => (some false, s)
            | (.run b, s) => (some false, s.startBring key core b none l.order)

/-- The state after the listed sashes of a core-task are attached in order, their bases in their registers (R320). -/
def State.attachItems (s : State) (l : Launch) (st : StreamId) (es : List SashItem) : State :=
  es.foldl (fun (s : State) (e : SashItem) =>
    match s.sashLive (e.fullName l.asid) with
    | some key =>
      let base := BitVec.ofNat 64 (65536 * (s.sash key).base.toNat)
      let s := s.attach st key (bit e.flags 1) true
      if e.reg < 64 then s.modStream st fun x => { x with s := File.set x.s (BitVec.ofNat 6 e.reg) base } else s
    | none => s) s

/-- The core-tasks of a unit on a die that are not released. -/
def State.stagedOn (s : State) (p : Placed) (d : Nat) : List (Nat × StreamId) :=
  p.members.filter fun m => m.2.die = d && (s.stream m.2).stop = .staged

/-- The state after a unit whose sash list cannot be met is given up, no attachment left behind (R320). -/
def State.sashFail (s : State) (l : Launch) (p : Placed) : State :=
  let s := p.members.foldl (fun (s : State) (m : Nat × StreamId) =>
    if (s.stream m.2).stop ≠ .staged then s
    else
      let s := (s.stream m.2).attached.foldl (fun (s : State) (a : Attach) => s.releaseSash a.key a.rw false) s
      s.modStream m.2 fun x => { x with stop := .halted, attached := [] }) s
  s.failLaunch l.queue l.record.toNat cSASHFAIL (some p.unit)

/-- The state after a die has gone through the sash lists of its core-tasks, and reports if all are attached. -/
def State.dieReady (s : State) (l : Launch) (p : Placed) (d : Nat) : State :=
  let ms := s.stagedOn p d
  let items := fun (m : Nat × StreamId) => l.copy.sashList.filter fun e => e.task = m.1
  let (r, s) := ms.foldl (fun (r : Option Bool × State) (m : Nat × StreamId) =>
    match r with
    | (none, s) => (none, s)
    | (some ok, s) =>
      if !(s.stream m.2).attached.isEmpty then (some ok, s)
      else match s.bringItems l m.2.tileOf (items m) with
        | (some true, s) => (some ok, s.attachItems l m.2 (items m))
        | (some false, s) => (some false, s)
        | (none, s) => (none, s)) (some true, s)
  match r with
  | none => s.sashFail l p
  | some false => s
  | some true =>
    let both := !(s.stagedOn p 0).isEmpty && !(s.stagedOn p 1).isEmpty
    s.modPlaced l.queue l.record.toNat p.unit fun p =>
      let p := if d = 1 then { p with ready1 := true, lastReady := s.ltime } else { p with ready0 := true, lastReady := s.ltime }
      { p with release := if p.ready0 && p.ready1 then some (p.lastReady + if both then 128 else 8) else none }

/-- A die has loaded its part of a gang and attached the listed sashes, and reports; the last report fixes the release
time T (R437). -/
def execGangReadyReport (s : State) : Out :=
    match s.subject with
    | .unitDie u d =>
      match s.launch u.queue u.record with
      | some l =>
        match l.placed.find? fun p => p.unit = u.unit with
        | some p => .next (if (if d then p.ready1 else p.ready0) || p.failed then s else s.dieReady l p (b2n d))
        | none => .next s
      | none => .next s
    | _ => .next s

/-- The entry that the queue owner of a task with QUEUES finds in Q3 (R426). -/
def queueStart (args wid record : Word) : VWord := (record ++ wid ++ args).setWidth 1024

/-- The state after a core-task is released; its start is an acquire at device scope (R330). -/
def State.releaseTask (s : State) (l : Launch) (st : StreamId) : State :=
  let x := s.stream st
  if x.stop ≠ .staged then s
  else
    let s := (s.setStream st { x with stop := .running }).acquire st 6
    if l.copy.queues then
      s.modTile st.tileOf fun t =>
        { t with inq := File.set t.inq 3 [queueStart (BitVec.ofNat 64 l.copy.args) x.csr.wid (s.recordWord l)] }
    else s

/-- Whether a time has come (R463). -/
def State.reached (s : State) (t : BitVec 48) : Bool := decide ((s.ltime - t).toNat < 2 ^ 47)

/-- At logical time T every core-task of a gang is released, and issues its first bundle (R437). -/
def execGangRelease (s : State) : Out :=
    match s.subject with
    | .unit u =>
      match s.launch u.queue u.record with
      | some l =>
        match l.placed.find? fun p => p.unit = u.unit with
        | some p =>
          if (match p.release with | some t => s.reached t | none => false) then
            let s := s.modPlaced u.queue u.record u.unit fun p => { p with release := none }
            .next (p.members.foldl (fun (s : State) (m : Nat × StreamId) => s.releaseTask l m.2) s)
          else .next s
        | none => .next s
      | none => .next s
    | _ => .next s

/-! ## Reruns (R441) -/

/-- The waves of a stream's group, the stream itself on a tile core. -/
def State.unitStreams (s : State) (st : StreamId) : List StreamId :=
  let u := fun (x : Stream) => x.job.map fun j => (j.queue, j.record, j.unit)
  if st.isWave then (s.streams.filter fun e => e.1.isWave && u e.2 = u (s.stream st)).map (·.1) else [st]

/-- The names of the sashes whose generation a task has not advanced yet: those that it holds RW, and those that it created. -/
def State.unadvanced (s : State) (st : StreamId) : List Word :=
  let x := s.stream st
  ((x.attached.filter (·.rw)).map (·.name))
    ++ (s.sched.sashes.filter fun e => x.job.isSome && e.2.maker = x.job && !e.2.advanced).map fun e => e.2.name

/-- The state after the preloaded task of a core that depends on a task that is rerun is discarded: by a completion counter of that
task's record, or by a sash whose generation that task had not advanced yet (R442). -/
def State.dropDependent (s : State) (core : Nat) (c : Rec) (names : List Word) : State :=
  let bad := fun (l : Launch) =>
    let b := l.copy
    (b.depthr ≠ 0 && ((c.grpinc ≠ 0 && b.depctr = c.grpctr) || (c.endinc ≠ 0 && b.depctr = c.endctr)))
      || b.sashList.any fun e => names.contains (e.fullName l.asid)
  (s.sched.parked.filter fun p => p.core = core && (s.launchOf p.job).any bad).foldl (fun (s : State) (p : Parked) => s.unpark p) s

/-- The state after a task leaves its core to be rerun: it stands at the head of its queue (R441). The stores that its write buffers hold
are passed on, as those that it has performed: they are no results in flight (R47; DEDUCED, log entry 54). -/
def State.requeue (s : State) (st : StreamId) (j : Job) (l : Launch) : State :=
  let c := l.copy
  let q := j.queue
  let n := j.record
  let key := (j.unit, if st.isWave then 0 else j.member)
  let s := s.modLaunch q n fun l => { l with reruns := Table.put l.reruns key (Table.get 0 l.reruns key + 1) }
  let s :=
    if st.isWave then
      let s := (s.unitStreams st).foldl (fun (s : State) (w : StreamId) => (s.wbDrain w fun _ => true).leave w) s
      let s := (s.leaveGroup q n j.unit).modLaunch q n fun l =>
        let rest := l.placed.filter fun p => decide (p.unit ≠ j.unit)
        { l with placed := rest, since := if rest.isEmpty then none else l.since, paused := l.paused && !rest.isEmpty }
      s.modSched fun d => { d with requeued := (⟨q, n, j.unit, 0⟩, .rerun none) :: d.requeued }
    else
      let names := s.unadvanced st
      let s := (((s.releaseAll st false).wbDrain st fun _ => true).leave st).modPlaced q n j.unit fun p =>
        { p with members := p.members.filter fun m => decide (m.1 ≠ j.member) }
      let s := s.dropDependent st.tileOf c names
      s.modSched fun d => { d with requeued := (j, .rerun (if c.queues then some st.tileOf else none)) :: d.requeued }
  (s.note .sequencer st.die 0 27 l.asid (BitVec.ofNat 64 q) (BitVec.ofNat 64 j.unit)).noteWaiting q

/-- The state after a task that a cause has ended is stopped: a group as a whole. -/
def State.haltUnit (s : State) (st : StreamId) : State :=
  (s.unitStreams st).foldl (fun (s : State) (w : StreamId) => s.halt w) s

/-- The state after a task that a cause has ended is rerun, once its engine commands have ended, or fails its launch
(R349, R351, R361, R441). -/
def State.taskEnds (s : State) (st : StreamId) (again : Bool) (code : BitVec 8) : State :=
  let clear := fun (s : State) => s.modSched fun d => { d with ending := d.ending.filter fun e => decide (e.1 ≠ st) }
  match (s.stream st).job.bind fun j => (s.launchOf j).map fun l => (j, l) with
  | none => clear s
  | some (j, l) =>
    let s := s.haltUnit st
    let key := (j.unit, if st.isWave then 0 else j.member)
    if again && l.copy.rerun && decide (Table.get 0 l.reruns key < l.copy.reruns) && l.code.isNone then
      if (s.unitStreams st).all fun w => (s.stream w).settled then (clear s).requeue st j l else s
    else (clear s).failLaunch j.queue j.record code (some j.unit)

/-- The state after one core-task that stands at the head of its queue is loaded again, if there is room for it (R430, R441). -/
def State.relaunchTask (s : State) (l : Launch) (j : Job) (core : Option Nat) : State :=
  let k := j.member
  let c := l.copy
  let seat := match core with
    | some n => (s.seat l j.unit k n []).map fun b => [(k, n, b)]
    | none => s.seatAll l j.unit [k] []
  match seat with
  | none => s
  | some ps =>
    match s.takeAll l j.unit ps with
    | (none, s) => s
    | (some ws, s) =>
      match s.readCodes l [k] with
      | (.error e, s) =>
        let s := ps.foldl (fun (s : State) (p : Nat × Nat × Bool) => s.freeWindow p.2.1 j) s
        (s.failLaunch j.queue j.record e (some j.unit)).closeLaunch j.queue j.record
      | (.ok codes, s) =>
        let s := (s.loadTasks l j.unit ps ws codes).modSched fun d => { d with requeued := d.requeued.filter fun r => decide (r.1 ≠ j) }
        let ds := diesOf ps
        let s := s.modPlaced j.queue j.record j.unit fun p =>
          { p with members := p.members ++ ps.map fun p => (p.1, .tile p.2.1 p.2.2),
                   ready0 := p.ready0 && !ds.contains 0, ready1 := p.ready1 && !ds.contains 1 }
        let s := s.note .sequencer 0 0 28 l.asid (BitVec.ofNat 64 c.prio) (BitVec.ofNat 64 j.unit)
        (s.askReady j.queue j.record j.unit ds).yieldSlot j.queue

/-- The cores on which the other groups of a level's unit are resident, the level by the number of groups of its unit. -/
def Launch.fellows (l : Launch) (unit z : Nat) : List Nat :=
  l.placed.flatMap fun p =>
    if p.unit / z = unit / z ∧ p.unit ≠ unit then p.members.filterMap fun m => match m.2 with | .wave n _ => some n | _ => none else []

/-- The shader cores on which a group that is rerun may be placed: with CLEVEL in the cluster, with DLEVEL on the die, of the groups of its
unit that are resident (R36, R435). -/
def Launch.rerunCores (l : Launch) (unit : Nat) : List Nat :=
  let c := l.copy
  let near := fun (level z k : Nat) (n : Nat) => level = 0 || (l.fellows unit (max 1 z)).all fun m => m / k = n / k
  ((c.clusters (c.dies unit 0)).flatMap id).filter fun n => near c.clevel c.clusterGroups 8 n && near c.dlevel c.dieGroups 64 n

/-- The state after one group that stands at the head of its queue is placed again, if there is room for it (R441). -/
def State.relaunchGroup (s : State) (l : Launch) (j : Job) : State :=
  match s.primOf l j.unit with
  | (.error e, s) => (s.failLaunch j.queue j.record e (some j.unit)).closeLaunch j.queue j.record
  | (.ok p, s) =>
    match s.tryGroup l (l.rerunCores j.unit) (j.unit, p) with
    | some t =>
      (((t.modSched fun d => { d with requeued := d.requeued.filter fun r => decide (r.1 ≠ j) }).hasPlaced j.queue).yieldSlot j.queue).turnTaken
    | none => s

/-- The state after the first task of a queue that is to run again from its record is relaunched, if it can be. -/
def State.relaunch (s : State) (q : Nat) : State :=
  if (s.qslot q).isNone || s.isDraining q then s
  else
    let next := (s.requeuedOf q).find? fun e => match e.2 with | .saved _ => false | _ => true
    match next.bind fun e => (s.launchOf e.1).map fun l => (e, l) with
    | some ((j, r), l) =>
      if l.copy.shader then s.relaunchGroup l j
      else match r with
        | .rerun core => s.relaunchTask l j core
        | _ => if l.copy.depthr = 0 || decide (l.copy.depthr ≤ (s.ctr l.copy.depctr).toNat) then s.relaunchTask l j none else s
    | none => s

/-- A task that an error or a double trap has ended is requeued, or fails its launch; a requeued task is relaunched from the
record (R441). -/
def execRerun (s : State) : Out :=
    match s.subject with
    | .streamFlagWord st again code => .next (s.taskEnds st again (code.setWidth 8))
    | .num q => .next (s.relaunch q)
    | _ => .next s

/-! ## Preloaded tasks (R442) -/

/-- Whether the next gang of a launch is one core-task that may be preloaded; the sequencer does not choose others (log entry 47). -/
def Launch.preloads (l : Launch) : Bool := l.copy.kind = 2 && l.copy.size = 1 && !l.copy.nopre

/-- A core on which a launch's next core-task may be preloaded: its home, if it has one (R320); a task runs there, no context is free for it, no
task is parked, and the pages are free. -/
def State.parkCore (s : State) (l : Launch) : Option Nat :=
  let c := l.copy
  (List.range 64).find? fun n =>
    c.admitsTile n && (s.homeOf l 0).all (n = ·) && (c.dies l.next 0).contains (n / 32) && !(s.sched.parked.any fun p => p.core = n)
      && (!(s.ctxFree n false) || !(s.ctxFree n true)) && (s.ctxsFor c n []).isEmpty
      && !(c.queues && (s.jobsOn n).any fun j => s.jobHas j Rec.queues)
      && (List.range 3).all fun p => c.pages p = 0 || runsOf p (c.pages p) (fun g => s.owner n p g = .free) ≠ []

/-- The state after the next core-task of a launch is parked on a core. -/
def State.park (s : State) (l : Launch) (core : Nat) : State :=
  let q := l.queue
  let n := l.record.toNat
  let j := l.job l.next 0
  let c := l.copy
  match s.takeWindows c core l.order j with
  | (none, s) => s
  | (some w, s) =>
    match s.readCode l 0 with
    | (.error e, s) => ((s.freeWindow core j).failLaunch q n e none).closeLaunch q n
    | (.ok code, s) =>
      let s := s.modTile core fun t => t.load t.standby.toNat code
      let s := s.modSched fun d => { d with parked := d.parked ++ [⟨core, j, (w.1, c.pages 0), (w.2.1, c.pages 1), (w.2.2, c.pages 2)⟩] }
      let s := s.modLaunch q n fun m => { m with placed := m.placed ++ [⟨j.unit, [], [], false, true, true, 0, none⟩] }
      (s.note .sequencer (core / 32) (core % 32) 29 l.asid (BitVec.ofNat 64 q) (BitVec.ofNat 64 j.unit)).passed q n 1

/-- Whether a listed sash of a parked task may be moved or restored to its core now (R313, R442). -/
def State.stages (s : State) (l : Launch) (core : Nat) (e : SashItem) : Bool :=
  match s.sashLive (e.fullName l.asid) with
  | some key =>
    let x := s.sash key
    x.space.toNat = fld e.space 0 2 && !s.sched.faulted.contains (l.order, key)
      && x.step core (bit e.flags 1) (bit e.flags 2) (bit e.flags 3) e.gen false = .bring
  | none => false

/-- The state after the first listed sash of the parked task of a core that may be moved or restored there starts to be (R442). What the
list cannot be met for is judged when the task is launched (R320). -/
def State.stageParked (s : State) (core : Nat) : State :=
  match (s.sched.parked.find? fun p => p.core = core).bind fun p => s.launchOf p.job with
  | some l =>
    match (l.copy.sashList.filter fun e => e.task = 0).filter (s.stages l core) with
    | e :: _ => (s.bringItems l core [e]).2
    | [] => s
  | none => s

/-- The next core-task of a launch is loaded into a standby bank with its window pages, and parked; its listed sashes are brought to the
core (R442). -/
def execPreload (s : State) : Out :=
    match s.subject with
    | .num core => .next (s.stageParked core)
    | .num2 q n =>
      match s.launch q n with
      | some l =>
        if l.preloads && s.mayPlace l then .next (match s.parkCore l with | some core => s.park l core | none => s) else .next s
      | none => .next s
    | _ => .next s

/-- The state after the parked task of a core takes a context that is free: its bank becomes the context's, and its die is asked for its
ready report, which attaches its sashes and fixes its release time (R320, R437, R442). -/
def State.startParked (s : State) (p : Parked) (l : Launch) (b : Bool) : State :=
  let c := l.copy
  let j := p.job
  let core := p.core
  let s := s.modSched fun d => { d with parked := d.parked.filter fun e => decide (e ≠ p) }
  let s := s.modTile core fun t => let k := t.standby; if b then { t with bank1 := k } else { t with bank0 := k }
  let fresh := fun (s : State) (space : Nat) (w : Nat × Nat) => if w.2 = 0 then s else s.freshPages core space w.1 w.2 l.asid
  let s := fresh (fresh (fresh s 0 p.w) 1 p.a) 2 p.k
  let s := (s.modTile core fun t => { t with flags := c.flags }).seatTask core b
    (s.taskOf l j.unit j.member core (p.w.1, p.a.1, p.k.1)) c.queues
  let d := core / 32
  (s.modPlaced j.queue j.record j.unit fun r =>
    { r with members := [(j.member, .tile core b)], ready0 := d ≠ 0, ready1 := d ≠ 1 }).askReady j.queue j.record j.unit [d]

/-- The parked task of a core starts in a context that has become free (R442). -/
def execParkedTaskStart (s : State) : Out :=
    match s.subject with
    | .num core =>
      match s.sched.parked.find? fun p => p.core = core with
      | some p =>
        match s.launchOf p.job with
        | some l => .next (match (s.ctxsFor l.copy core []).head? with | some b => s.startParked p l b | none => s)
        | none => .next s
      | none => .next s
    | _ => .next s

end Sys2Proof.Machine
end

