-- ==== Sys2Proof/Machine/Preempt.lean ====
section
/-! DEFINITION. Preemption and budgets: requests, saves and save areas, restores, the expiry of budgets (R47, R365 to R372). -/

namespace Sys2Proof.Machine

/-! ## Requests (R365, R367) -/

/-- The unit of a stream's task, as it is placed. -/
def State.placedOf (s : State) (j : Job) : Option Placed := (s.launchOf j).bind fun l => l.placed.find? fun p => p.unit = j.unit

/-- The tile contexts that are preempted with a context: of one that owns its core's queues, the queue owners of its gang (R367). -/
def State.together (s : State) (st : StreamId) : List StreamId :=
  let x := s.stream st
  match x.job.bind s.placedOf with
  | some p => if x.csr.qown then (p.members.map (·.2)).filter fun m => m = st || (s.stream m).csr.qown else [st]
  | none => [st]

/-- The state after a preemption of a stream is requested: a tile context is saved at its next eligible SB bundle; a shader launch stops
dispatching (R365). -/
def State.askPreempt (s : State) (st : StreamId) (r : Requester) : State :=
  match (s.stream st).job with
  | none => s
  | some j =>
    if st.isWave then s.modLaunch j.queue j.record fun l => { l with paused := true }
    else if !st.isTile then s
    else (s.together st).foldl (fun (s : State) (m : StreamId) =>
      s.modStream m fun x => if x.stop = .halted || x.stop = .saved then x else x.ask r) s

/-- The operating system, a budget, a slot reclaim or a debugger requests a preemption (R365). -/
def execPreemptionRequest (s : State) : Out :=
    match s.subject with
    | .request st r => .next (s.askPreempt st r)
    | _ => .next s

/-! ## The save area (R370) -/

/-- The code of a requester. -/
def requesterCode : Requester → Nat
  | .os => 0 | .budget => 1 | .reclaim => 2 | .debugger => 3

/-- A shutter entry, as 160 bytes, of a result that lands at its offset from a context time; one that is not written to its register
is for the latch only. -/
def Result.image (r : Result) (t order : Nat) : List Byte :=
  let (file, reg, qo, oq) : Nat × Nat × Nat × Nat := match if r.nw then .none else r.dest with
    | .s k => (0, k.toNat, 0, 0)
    | .v k => (1, k.toNat, 0, 0)
    | .p k => (2, k.toNat, 0, 0)
    | .push o => (3, 0, 1, o.toNat)
    | .none => (3, 0, 0, 0)
  leBytes 8 ((r.due - t) % 2 ^ 8 + file * 2 ^ 8 + reg * 2 ^ 10 + r.slot.code * 2 ^ 16 + b2n r.nw * 2 ^ 19 + qo * 2 ^ 20 + oq * 2 ^ 21
      + 2 ^ 23 + r.ff.toNat * 2 ^ 24 + r.mf.toNat * 2 ^ 29)
    ++ leBytes 8 order ++ leBytes 16 r.mask.toNat ++ leBytes 128 r.val.toNat

/-- The results in flight of a stream in issue order. -/
def Stream.inFlight (x : Stream) : List Result :=
  x.pend.foldr (fun r l =>
    let early := l.takeWhile fun t => decide (t.seq < r.seq ∨ (t.seq = r.seq ∧ t.slot.code < r.slot.code))
    early ++ r :: l.drop early.length) []

/-- Bytes with zeros after them up to a length. -/
def padded (n : Nat) (l : List Byte) : List Byte := (l ++ List.replicate n 0).take n

/-- A file of registers as bytes. -/
def fileBytes {n w : Nat} (f : File n (BitVec w)) : List Byte := f.toList.flatMap fun v => leBytes (w / 8) v.toNat

/-- The token states, and the pending bits of completion ULIs, as bytes. -/
def Stream.tokenBytes (x : Stream) : List Byte := (List.range 256).map fun t => BitVec.ofNat 8 (x.token t).code
def Stream.uliBits (x : Stream) : List Byte := leBytes 32 ((x.tokenUlis.map fun t => 2 ^ (t.1 % 256)).foldl (· + ·) 0)
def Stream.uliBytes (x : Stream) : List Byte :=
  padded 256 (x.ulis.flatMap fun u => leBytes 8 u.ctr ++ leBytes 8 u.arg) ++ padded 224 (leBytes 8 x.ulis.length)

/-- The barrier word of a context: whose latest `barph.arrive` is incomplete, in whose `bar` it waits (R222, R229). -/
def State.barrierWord (s : State) (st : StreamId) : Nat :=
  let x := s.stream st
  ((List.range 16).map fun b =>
    b2n ((Table.find x.arrived b).any fun t => (s.barrier (s.barKey st b)).open_ t) * 2 ^ b
      + b2n (x.waiting.any fun w => w.id = b && w.ticket.isSome) * 2 ^ (16 + b)).foldl (· + ·) 0

/-- The queue contents of a core in the save area's form: Q0 to Q7, then O0 to O2. -/
def queueLists (inq : File 3 (List VWord)) (outq : File 2 (List (VWord × BitVec 48))) : List (List VWord) :=
  inq.toList ++ (outq.toList.take 3).map fun l => l.map (·.1)

/-- The bytes of a save area (R370). -/
def State.saveImage (s : State) (st : StreamId) (r : Requester) (a : SaveArea) : List Byte :=
  let x := s.stream st
  let csr := fun (n : Nat) => leBytes 8 (s.csr st 0 n).toNat
  let qs := queueLists a.inq a.outq
  leBytes 8 (1 + 0xA400 * 2 ^ 32) ++ leBytes 8 x.pc.toNat ++ leBytes 8 ((if r = .budget then 0x10 else 0) + 256 * requesterCode r)
    ++ [0x000, 0x001, 0x002, 0x003, 0x00B, 0x008, 0x009, 0x005, 0x006, 0x004, 0x014, 0x030, 0x010].flatMap csr
    ++ padded 128 (leBytes 8 (a.flags.toNat + b2n x.csr.qown * 2 ^ 32))
    ++ fileBytes x.s ++ fileBytes (File.set x.p 0 (BitVec.allOnes 128))
    ++ (List.range 128).flatMap (fun k => leBytes 8 (Table.get 0 x.staging k).toNat)
    ++ x.tokenBytes ++ x.uliBits
    ++ x.uliBytes
    ++ padded 256 (leBytes 8 (s.barrierWord st))
    ++ padded 7680 (x.inFlight.zipIdx.flatMap fun e => e.1.image x.time e.2)
    ++ fileBytes x.v
    ++ qs.flatMap (fun l => padded 2048 (l.flatMap fun v => leBytes 128 v.toNat))
    ++ padded 512 (qs.flatMap fun l => leBytes 8 l.length)

/-! ## Saving (R366, R368, R369, R371) -/

/-- A stream as its save area keeps it: bases whose commands have completed are in their registers (R308, R366). -/
def Stream.settleSaved (x : Stream) : Stream :=
  (x.bases.filter x.mayLand).foldl (fun (x : Stream) (b : BaseLand) =>
    let x := match b.dest with
      | .s r => { x with s := File.set x.s r b.val }
      | .p r => x.writeP r (BitVec.allOnes 128) (if b.val = 0 then 0 else BitVec.allOnes 128)
      | _ => x
    { x with attached := x.attached.map fun a => if a.name = b.name && b.dest ≠ .none then { a with landed := true } else a })
    { x with bases := x.bases.filter fun b => !x.mayLand b }

/-- The state after what a command of a saved context has completed into is in the save area (R366). A context whose commands have all
ended leaves its core. -/
def State.leaveSaved (s : State) (st : StreamId) : State :=
  let x := s.stream st
  match s.sched.saves.find? fun a => some a.job = x.job with
  | some a =>
    let y := x.settleSaved
    let at_ := s.saveAddr a.queue a.area
    let s := (s.putPhysBytes (at_ + 0x100) (fileBytes y.s ++ fileBytes (File.set y.p 0 (BitVec.allOnes 128)))).putPhysBytes (at_ + 0x800)
      (y.tokenBytes ++ y.uliBits ++ y.uliBytes)
    let s := s.modSched fun d => { d with saves := d.saves.map fun b => if b = a then { b with stream := y } else b }
    if x.settled then { s with streams := Table.drop s.streams st } else s.setStream st y
  | none => s

/-- Whether an uncorrectable error that ends a stream's task is about to be met: what it loaded or stored last has met it (R349). -/
def State.dying (s : State) (st : StreamId) : Bool :=
  s.agenda.any fun i => match i with
    | .row .uncorrectableError (.error t _ _) => t = st
    | _ => false

/-- The state after a context is saved, unless an error ends its task first (R349): what is in flight is in its shutter file, its stores are passed on, its reservation is cleared,
its state is in a save area of its queue; its windows and sashes stay, and it stands at the head of its queue (R366 to R369). -/
def State.save (s : State) (st : StreamId) : State :=
  let s := ((s.settle st).wbDrain st fun _ => true).clearReservations st (BitVec.allOnes 32)
  let x := s.stream st
  if s.dying st then s
  else match x.job, x.preempt with
  | some j, some r =>
    match s.freeArea j.queue with
    | none => s
    | some k =>
      let t := s.tile st.tileOf
      let own := x.csr.qown
      let none_ : File 3 (List VWord) × File 2 (List (VWord × BitVec 48)) := (File.fill 3 [], File.fill 2 [])
      let (inq, outq) := if own then (t.inq, t.outq) else none_
      let a : SaveArea := ⟨j.queue, k, st.tileOf, j, x, inq, outq, t.flags⟩
      let s := s.putPhysBytes (s.saveAddr j.queue k) (s.saveImage st r a)
      let s := if own then s.modTile st.tileOf fun t => { t with inq := none_.1, outq := none_.2 } else s
      let y := { x with stop := .saved, preempt := none, held := false, miss := none, dirAsk := none, dirAns := false, awaits := [] }
      let s := (s.setStream st y).modSched fun d =>
        { d with saves := d.saves ++ [{ a with stream := y }], requeued := (j, .saved k) :: d.requeued }
      let s := s.modPlaced j.queue j.record j.unit fun p => { p with members := p.members.filter fun m => decide (m.1 ≠ j.member) }
      let s := s.note .sequencer st.die (st.tileOf % 32) 30 x.csr.asid (BitVec.ofNat 64 j.queue) (BitVec.ofNat 64 (requesterCode r))
      (s.noteWaiting j.queue).leaveSaved st
  | _, _ => s

/-- A context with a pending request presents an eligible SB bundle and is saved to a save area; what its commands complete into is
written there, and once they have ended it leaves its core (R366, R370). -/
def execPreemptionSave (s : State) : Out :=
    match s.subject with
    | .stream st =>
      let x := s.stream st
      if x.stop = .saved then .next (s.leaveSaved st)
      else if st.isTile && x.preempt.isSome && (x.stop = .running || x.stop = .wfi) then .next (s.save st) else .next s
    | _ => .next s

/-! ## Restoring (R367 to R369, R371) -/

/-- The save areas that are restored with one: of a task that owned its core's queues, those of its gang's (R367). -/
def State.savedTogether (s : State) (a : SaveArea) : List SaveArea :=
  if a.stream.csr.qown then
    s.sched.saves.filter fun b => b.queue = a.queue && b.job.record = a.job.record && b.job.unit = a.job.unit && b.stream.csr.qown
  else [a]

/-- The context that a saved task still has, while its engine commands go on. -/
def State.stillAt (s : State) (a : SaveArea) : Option Bool := [false, true].find? fun b => (s.stream (.tile a.core b)).job = some a.job

/-- The context in which a saved task may be restored now, on the core where it was (R369): the one that it still has while its commands
go on, else any that is free. A parked task that may take that context comes first (R442). -/
def State.backSeat (s : State) (a : SaveArea) : Option Bool :=
  let here := s.stillAt a
  let t : State := match here with | some b => { s with streams := Table.drop s.streams (.tile a.core b) } | none => s
  let owned := [false, true].any fun b => (t.stream (.tile a.core b)).csr.qown && !t.ctxFree a.core b
  let waits := a.stream.csr.qown && (t.streams.any fun e => e.2.csr.qown && e.2.preempt.isSome && e.2.stop ≠ .halted
    && (e.2.job.any fun j => j.queue = a.queue && j.record = a.job.record && j.unit = a.job.unit))
  let parked := t.sched.parked.any fun p => p.core = a.core && (t.launchOf p.job).any fun l => !(t.ctxsFor l.copy a.core []).isEmpty
  match s.launchOf a.job with
  | some l =>
    if waits || parked || (a.stream.csr.qown && owned) then none
    else if l.copy.ctx = 2 then (if t.ctxFree a.core false && t.ctxFree a.core true then some false else none)
    else if t.solo a.core then none
    else here.orElse fun _ => [false, true].find? fun b => t.ctxFree a.core b
  | none => none

/-- The state after one saved task is restored in a context: its latches are lost, its shadow sets hold what the manual does not say
(R22, log entry 6), the saved flags are set beside those that stand, and it presents its SB bundle (R368, R371). Engine commands that have
not ended go on as its own. Of a queue owner the saved queues take the place of the core's: what others pushed there meanwhile is lost, of
which the manual does not speak (R47; DESIGN CHOICE, log entry 54). -/
def State.bringBack (s : State) (a : SaveArea) (b : Bool) : State :=
  match s.launchOf a.job with
  | none => s
  | some l =>
    let j := a.job
    match s.readCode l j.member with
    | (.error e, s) =>
      s.dropSaved a e
    | (.ok code, s) =>
      let st : StreamId := .tile a.core b
      let shadow := fun (k : Nat) => Vector.ofFn fun (i : Fin (2 ^ 3)) => BitVec.ofNat 64 (s.pick (8 * k + i.val))
      let y := if (s.stillAt a).isSome then (s.stream st).settleSaved else a.stream
      let x := { y with
        stop := .running, latches := Latches.lost, uliSet := shadow 0, svcSet := shadow 1, since := (s.common st.core).cycle.toNat }
      let s := (s.loadCode a.core b code).picked.setStream st x
      let s := s.modTile a.core fun t =>
        { t with flags := t.flags ||| a.flags, inq := if x.csr.qown then a.inq else t.inq, outq := if x.csr.qown then a.outq else t.outq }
      let s := s.modSched fun d =>
        { d with saves := d.saves.filter fun c => decide (c ≠ a), requeued := d.requeued.filter fun r => decide (r.1 ≠ j) }
      let s := s.modPlaced j.queue j.record j.unit fun p => { p with members := p.members ++ [(j.member, st)] }
      let s := (s.modLaunch j.queue j.record fun l => { l with st := if l.units ≤ l.next then 3 else 2 }).showLaunch j.queue j.record
      (s.note .sequencer st.die (a.core % 32) 31 x.csr.asid (BitVec.ofNat 64 j.queue) (BitVec.ofNat 64 j.unit)).yieldSlot j.queue

/-- The state after a saved task, with those that come back with it, is restored if each finds its seat. -/
def State.restore (s : State) (q area : Nat) : State :=
  match s.sched.saves.find? fun a => a.queue = q && a.area = area with
  | none => s
  | some a =>
    let all := s.savedTogether a
    if (s.qslot q).isNone || s.isDraining q || !(all.all fun b => (s.backSeat b).isSome) then s
    else all.foldl (fun (s : State) (b : SaveArea) => match s.backSeat b with | some c => s.bringBack b c | none => s) s

/-- A preempted task is restored on the core where it was, in whichever context is free, with the queue owners of its gang
(R367 to R369, R371). -/
def execContextRestore (s : State) : Out :=
    match s.subject with
    | .num2 q area => .next (s.restore q area)
    | _ => .next s

/-! ## Budgets (R372) -/

/-- The clocks of a residence so far: of a core-task on its core, of a launch's groups in shader clocks. -/
def State.spent (s : State) (st : StreamId) : Nat := (s.common st.core).cycle.toNat - (s.stream st).since
def State.groupsSpent (s : State) (l : Launch) : Nat := match l.since with | some t => 21 * (s.clocks - t) / 16 | none => 0

/-- Whether a residence of a launch has used up n budgets. -/
def overBudget (c : Rec) (spent n : Nat) : Bool := c.budget ≠ 0 && decide (n * c.budget ≤ spent)

/-- The budget of a residence runs out: a core-task is asked to be preempted, a shader launch stops dispatching (R372). -/
def execBudgetExpiry (s : State) : Out :=
    match s.subject with
    | .stream st =>
      match (s.stream st).job.bind s.launchOf with
      | some l =>
        if st.isTile && overBudget l.copy (s.spent st) 1 then
          .next ((s.note .sequencer st.die 0 32 l.asid (BitVec.ofNat 64 l.queue) 0x10).askPreempt st .budget)
        else .next s
      | none => .next s
    | .num2 q n =>
      match s.launch q n with
      | some l =>
        if overBudget l.copy (s.groupsSpent l) 1 then
          .next ((s.note .sequencer 0 0 32 l.asid (BitVec.ofNat 64 q) 0x10).modLaunch q n fun l => { l with paused := true })
        else .next s
      | none => .next s
    | _ => .next s

/-- The state after the groups of a launch that are on cores are ended, and it fails with BUDGET. -/
def State.endGroups (s : State) (q n : Nat) (l : Launch) : State :=
  let s := l.placed.foldl (fun (s : State) (p : Placed) =>
    match p.members with
    | m :: _ => if (s.placedOf ⟨q, n, p.unit, 0⟩).isSome then s.haltUnit m.2 else s
    | [] => s) s
  l.placed.foldl (fun (s : State) (p : Placed) => s.failLaunch q n cBUDGET (some p.unit)) s

end Sys2Proof.Machine
end

