-- ==== Sys2Proof/Machine/Host.lean ====
section
/-! DEFINITION. The part's edges: counter triggers that act, host ports with their virtio-gpu commands, the counter page and resets, Kwaol
ports, boot, power (R160, R449 to R462). -/

namespace Sys2Proof.Machine

/-! ## Ports -/

/-- The ASID of a context of a port, if it is bound (R451). -/
def Port.asidOf (p : Port) (ctx : Nat) : Option (BitVec 16) := (p.ctxs.find? fun c => c.id = ctx).bind (·.asid)

/-- Whether a port has a context bound to an ASID (R453). -/
def Port.binds (p : Port) (asid : BitVec 16) : Bool := p.ctxs.any fun c => c.asid = some asid

/-- Whether a port takes host transactions: boot has found an identity and is done, the port is not being reset (R454, R460). -/
def State.open_ (s : State) (d : Bool) : Bool := s.edge.identity && s.edge.boot = .done && !(s.port d).resetting

/-- The state after a command of a submission answers (R451). -/
def State.answer (s : State) (d : Bool) (a : Submission) : State := s.modPort d fun p => { p with answer := a }

/-! ## Triggers that act (R160, R359, R430, R453) -/

/-- The state after a trigger that has fired is done with, its drop noted with the counter. -/
def State.doneTrigger (s : State) (n : Nat) (t : Trigger) : State := s.modMem fun m => { m with delayed := m.delayed.erase (n, t) }
def State.lostTrigger (s : State) (n : Nat) (t : Trigger) : State := (s.doneTrigger n t).note .sequencer 0 0 26 t.asid (BitVec.ofNat 64 n) 0

/-- A notification enters the ring of a port: the tag and the sequence number, and vector 1 is raised (R453). -/
def Port.notify (p : Port) (tag : Nat) : Port :=
  { p with ring := Table.put p.ring (p.count.toNat % 1024) (BitVec.ofNat 32 (tag % 65536 + p.count.toNat % 65536 * 65536)),
           count := p.count + 1, msix := true }

/-- The state after a credit of a queue (R430): one that no ASID owns, or that has all its credits, waits; one of another ASID than the
arming one is dropped. -/
def State.credit (s : State) (n : Nat) (t : Trigger) : State :=
  let q := t.target % 65536
  match s.qOwner q with
  | none => s
  | some a =>
    if a ≠ t.asid then (s.lookQueue q).lostTrigger n t
    else if s.qword q 6 % 65536 = 65535 then s
    else (s.putQ q 6 (s.qword q 6 % 65536 + 1)).doneTrigger n t

/-- The state after a ULI reaches the core-task that its trigger was bound to, resident or saved (R160, R359): with 16 pending it
waits, for a task that has gone or has been rerun it is dropped. -/
def State.sendUli (s : State) (n : Nat) (t : Trigger) : State :=
  let u : Uli := ⟨n, t.target / 1024 % 256⟩
  let take := fun (x : Stream) => { x with ulis := x.ulis ++ [u] }
  let area := s.sched.saves.find? fun a => some a.job = t.job
  if !(t.job.any fun j => s.runOf j = t.run) then s.lostTrigger n t
  else match s.streams.find? fun e => e.2.job.isSome && e.2.job = t.job && decide (e.2.stop ≠ .halted ∧ e.2.stop ≠ .saved), area with
  | some e, _ => if 16 ≤ e.2.ulis.length then s else (s.modStream e.1 take).doneTrigger n t
  | none, some a =>
    if 16 ≤ a.stream.ulis.length then s
    else
      let b := { a with stream := take a.stream }
      let s := s.modSched fun d => { d with saves := d.saves.map fun c => if c = a then b else c }
      let s := s.putPhysBytes (s.saveAddr a.queue a.area + 0x920) b.stream.uliBytes
      State.doneTrigger { s with streams := s.streams.map fun e => (e.1, if e.2.job = t.job && e.2.stop = .saved then take e.2 else e.2) } n t
  | none, none => s.lostTrigger n t

/-- A trigger that has fired acts once its action can be taken: a credit of a queue, a ULI, a host notification (R160). -/
def execDelayedTriggerAction (s : State) : Out :=
    match s.subject with
    | .num n =>
      match s.mm.delayed.find? fun e => e.1 = n with
      | none => .next s
      | some (_, t) =>
        match t.kind with
        | 0 => .next (s.credit n t)
        | 1 => .next (s.sendUli n t)
        | _ =>
          let tell := fun (s : State) (d : Bool) =>
            if s.open_ d && (s.port d).binds t.asid then s.modPort d fun p => p.notify t.target else s
          .next ((tell (tell s false) true).doneTrigger n t)
    | _ => .next s

/-! ## Commands of a virtio-gpu context (R451, R452) -/

/-- A command of a submission (R451). -/
inductive GpuCommand where
  | bind (grant : Nat)
  | append (queue blob off : Nat)
  | cancel (queue record : Nat)
  deriving DecidableEq, Repr

/-- The command at the head of a submission's words, and the words after it (R451): its header gives op and length, which must be that of
the op; none for another. -/
def GpuCommand.read : List (BitVec 32) → Option (GpuCommand × List (BitVec 32))
  | h :: _ :: t =>
    let op := h.toNat % 65536
    let len := h.toNat / 65536
    match op, len, t with
    | 1, 3, g :: t => some (.bind g.toNat, t)
    | 2, 6, q :: b :: lo :: hi :: t => some (.append (q.toNat % 65536) b.toNat (lo.toNat + 2 ^ 32 * hi.toNat), t)
    | 3, 4, q :: n :: t => some (.cancel (q.toNat % 65536) n.toNat, t)
    | _, _, _ => none
  | _ => none

/-- The state after a context is bound to the ASID of a grant, or the submission fails (R451; log entry 12): at a second binding, or an
unknown grant. -/
def State.bindContext (s : State) (d : Bool) (ctx grant : Nat) : State :=
  if ((s.port d).asidOf ctx).isSome then s.answer d .invalidParameter
  else match Config.grantAsid s.free grant with
    | none => (s.answer d .invalidParameter).picked
    | some a =>
      (s.modPort d fun p =>
        { p with ctxs := (p.ctxs.filter fun c => decide (c.id ≠ ctx)) ++ [⟨ctx, some a⟩], answer := .ok }).picked

/-- The state after the operating system is asked to cancel a record, which it may do (R432; log entry 12). -/
def State.askCancel (s : State) (d : Bool) (q n : Nat) : State :=
  let t := (s.answer d .ok).picked
  if s.pickBit 0 then t.row .recordCancel (.num2 q n) else t

/-- Whether a blob is one that a port has, or a new one of its rule's form: a range of 48-bit addresses whose size is a multiple of
64 KiB (R452). -/
def Port.knows (p : Port) (b : Blob) : Bool :=
  match p.blobs.find? fun c => c.id = b.id with
  | some c => c = b
  | none => decide (0 < b.size) && b.size % 65536 = 0 && decide (b.addr.toNat + b.size ≤ 2 ^ 48)

/-- The port with a blob listed. -/
def Port.withBlob (p : Port) (b : Blob) : Port := { p with blobs := if p.blobs.contains b then p.blobs else p.blobs ++ [b] }

/-- The pages of a range of a blob, as host accesses are translated (R402, R452). -/
def State.blobPages (s : State) (asid : BitVec 16) (b : Blob) (off n : Nat) (wr : Bool) : (Except (BitVec 8) (List Elem)) × State :=
  s.seqPages asid (askExternal wr) (if n = 0 then [] else rowPages [b.addr.toNat + off] n)

/-- The state after the record at an offset of a blob is appended to a queue, and the host answered. -/
def State.appendBlob (s : State) (d : Bool) (a : BitVec 16) (q : Nat) (b : Blob) (off : Nat) : State :=
  match s.blobPages a b off 256 false with
  | (.error _, s) => s.answer d .invalidParameter
  | (.ok ps, s) => let (l, s) := s.readThrough 5 ps (b.addr.toNat + off) 256; (s.appendRecord q l).answer d .ok

/-- The state after an APPEND's record is in its queue, or its checks fail; none while the queue is full (R289, R451). -/
def State.appendNow (s : State) (d : Bool) (a : BitVec 16) (q : Nat) (b : Blob) (off : Nat) : Option State :=
  if !(s.port d).knows b || decide (b.size < off + 256) || s.qOwner q ≠ some a then some (s.answer d .invalidParameter)
  else if s.ringFull q then none
  else some ((s.modPort d fun p => p.withBlob b).appendBlob d a q b off)

/-- The outcome of one command of a submission: done, failed, or waiting for room in a queue (R451). -/
def State.submitOne (s : State) (d : Bool) (ctx : Nat) (c : GpuCommand) : Option State :=
  match c, (s.port d).asidOf ctx with
  | .bind g, _ => some (s.bindContext d ctx g)
  | _, none => some (s.answer d .invalidContext)
  | .append q id off, some a =>
    match (s.port d).blobs.find? fun b => b.id = id && b.ctx = ctx with
    | some b => s.appendNow d a q b off
    | none => some (s.answer d .invalidParameter)
  | .cancel q n, some _ => some (s.askCancel d q n)

/-- The state after the words of a submission are carried out, n commands at most: one that fails ends it, and earlier ones stand; what
waits for room in a queue waits at the head of the port's submissions; the fence completes when all are done (R451). -/
def State.submitAll (s : State) (d : Bool) (ctx fence : Nat) (l : List (BitVec 32)) : Nat → State
  | 0 => s
  | n + 1 =>
    if l = [] then s.modPort d fun p => { p with fence := some fence }
    else match GpuCommand.read l with
      | none => s.answer d (if ((s.port d).asidOf ctx).isSome then .invalidParameter else .invalidContext)
      | some (c, t) =>
        match s.submitOne d ctx c with
        | none => s.modPort d fun p => { p with subs := (ctx, fence, l) :: p.subs }
        | some u => if (u.port d).answer = .ok then u.submitAll d ctx fence t n else u

/-- The state after a submission reaches a port (R451): behind one that waits it waits; the one at the head is taken up again. -/
def State.submit (s : State) (d : Bool) (ctx fence : Nat) (l : List (BitVec 32)) : State :=
  if !s.open_ d then s
  else match (s.port d).subs with
    | [] => s.submitAll d ctx fence l (l.length + 1)
    | w :: t =>
      if w = (ctx, fence, l) then (s.modPort d fun p => { p with subs := t }).submitAll d ctx fence l (l.length + 1)
      else s.modPort d fun p => { p with subs := p.subs ++ [(ctx, fence, l)] }

/-- BIND ties a context to the ASID of a grant of the resident operating system (R451; log entry 12): a second one, or an unknown
grant, fails. A whole submission runs command by command. -/
def execBind (s : State) : Out :=
    match s.subject with
    | .host d ctx grant _ _ => .next (if s.open_ d then s.bindContext d ctx grant else s)
    | .submit d ctx f l => .next (s.submit d ctx f l)
    | _ => .next s

/-- APPEND appends the 256 bytes at an offset of a blob to a queue, as `tqpush` does: the queue must be the context's ASID's, and a
full one holds the command (R289, R451). The writes that the host posted before it are at their homes (R338). -/
def execAppend (s : State) : Out :=
    match s.subject with
    | .append d q b off =>
      let p := s.port d
      let w := (q, b, off)
      if !s.open_ d then .next s
      else match p.asidOf b.ctx with
      | none => .next (s.answer d .invalidContext)
      | some a =>
        if !p.knows b || decide (b.size < off + 256) || s.qOwner q ≠ some a then .next (s.answer d .invalidParameter)
        else
          let s := s.modPort d fun p => p.withBlob b
          let first := p.waiting.head? = some w
          if s.ringFull q || (!first && p.waiting.any fun v => v.1 = q) then
            .next (if first then s else s.modPort d fun p => { p with waiting := p.waiting ++ [w] })
          else
            .next ((s.modPort d fun p => { p with waiting := if first then p.waiting.drop 1 else p.waiting }).appendBlob d a q b off)
    | .submit d ctx f l => .next (s.submit d ctx f l)
    | _ => .next s

/-- CANCEL asks the operating system to cancel a record, which it may do (R432, R451; log entry 12). -/
def execCancel (s : State) : Out :=
    match s.subject with
    | .host d ctx q n _ =>
      if !s.open_ d then .next s
      else match (s.port d).asidOf ctx with
      | none => .next (s.answer d .invalidContext)
      | some _ => .next (s.askCancel d q n)
    | .submit d ctx f l => .next (s.submit d ctx f l)
    | _ => .next s

/-- A host reads or writes a mapped blob: translated by the tables of its context's ASID, which must admit external DMA, and
performed at the home (R402, R452). -/
def execHostBlobAccess (s : State) : Out :=
    match s.subject with
    | .blob d b off data n =>
      let p := s.port d
      let len := match data with | some l => l.length | none => n
      if !s.open_ d then .next s
      else match p.asidOf b.ctx with
      | none => .next s
      | some a =>
        if !p.knows b || !b.mapped || decide (b.size < off + len) then .next s
        else
          let s := s.modPort d fun p => p.withBlob b
          match s.blobPages a b off len data.isSome, data with
          | (.ok ps, s), some l => .next (s.putThrough 5 ps (b.addr.toNat + off) l)
          | (.ok ps, s), none => let (l, s) := s.readThrough 5 ps (b.addr.toNat + off) len; .next (s.modPort d fun p => { p with read := l })
          | (.error _, s), some _ => .next s
          | (.error _, s), none => .next (s.modPort d fun p => { p with read := List.replicate len 0 })
    | _ => .next s

/-! ## The counter page (R453) -/

/-- A word of the counter page of a port. -/
def State.counterPage (s : State) (d : Bool) (off : Nat) : List Byte :=
  let p := s.port d
  if off < 0x8000 then leBytes 8 (if p.binds (s.ctrOwner (off / 8)) then (s.ctr (off / 8)).toNat else 0)
  else if off < 0x9000 then leBytes 4 (Table.get 0 p.ring (off / 4 % 1024)).toNat
  else if off = 0x9000 then leBytes 4 p.count.toNat
  else leBytes 4 0

/-- A host reads the counter page: a counter of an ASID bound on its port, another's as zero, the notification ring, the
count (R453). -/
def execHostCounterRead (s : State) : Out :=
    match s.subject with
    | .host d off _ _ _ => .next (if s.open_ d then s.modPort d fun p => { p with read := s.counterPage d off } else s)
    | _ => .next s

/-- A host write of the counter page adds to a counter of an ASID bound on its port, after the port's earlier posted
writes, which are at their homes (R338, R453). -/
def execHostCounterWrite (s : State) : Out :=
    match s.subject with
    | .hostWord d off v =>
      .next (if s.open_ d && decide (off < 0x8000) && off % 8 = 0 && (s.port d).binds (s.ctrOwner (off / 8)) then s.ctrAdd (off / 8) v else s)
    | _ => .next s

/-! ## Resets of a port (R454, R455), notifications of the console (R456) -/

/-- The state after the host cache agent of a port leaves the directory: its lines are invalid and their dirty data is lost. -/
def State.dropHostAgent (s : State) (d : Bool) : State :=
  let a := 2 + b2n d
  let ls := s.mm.linesOf a
  let s := ls.foldl (fun (s : State) (ln : Nat) => (s.loseLine a ln).notice a ln none) s
  s.modMem fun m => { m with present := m.present.filter fun b => decide (b ≠ a) }

/-- The queues that only contexts of a port use, each with the records that have not begun (R454). -/
def State.portRecords (s : State) (d : Bool) : List (Nat × Nat) :=
  let mine := fun (q : Nat) => match s.qOwner q with | some a => (s.port d).binds a && !(s.port (!d)).binds a | none => false
  ((s.sched.tails.map (·.1)).filter mine).flatMap fun q =>
    (List.range ((s.tailOf q + 2 ^ 32 - s.dispOf q) % 2 ^ 32 % 4097)).map fun k => (q, (s.dispOf q + k) % 2 ^ 32)

/-- The state after the third and fourth step of a port's reset (R454): contexts and blobs go, their queues' records are cancelled, the
counter that HOSTRST names gains 1, source 0x04 is raised, the recorder takes an entry with the reset kind. -/
def State.portDown (s : State) (d : Bool) : State :=
  let gone := s.portRecords d
  let k := (s.port d).kind
  let s := s.modPort d fun p => { Port.reset with ring := p.ring, count := p.count, streamed := p.streamed }
  let s := s.post (gone.map fun e => .row .recordCancel (.num2 e.1 e.2))
  ((s.ctrAdd (fld (s.ctl 0xE40) 0 12) 1).raiseSource 4).note .port (b2n d) 0 31 0 (BitVec.ofNat 64 k.code) 0

/-- The state after the first two steps of a reset of a port (R454): it refuses transactions and its cache agent goes. -/
def State.portResets (s : State) (d : Bool) (k : ResetKind) : State :=
  if (s.port d).resetting then s
  else (s.modPort d fun p =>
    { p with resetting := true, kind := k, attached := false, window := (0, 0), waiting := [], subs := [] }).dropHostAgent d

/-- A hot, link-down or function-level reset of one host port, in the steps of R454: the port refuses transactions and its cache agent goes;
then its contexts. A second reset during the first is merged with it (R455). -/
def execPortReset (s : State) : Out :=
    match s.subject with
    | .die d => .next (s.portResets d .hot)
    | .host d k _ _ _ => .next (s.portResets d (ResetKind.ofNum k))
    | .num2 d 1 => .next (if (s.port (d = 1)).resetting then s.portDown (d = 1) else s)
    | _ => .next s

/-- A host notifies a virtqueue of a function, by its number, and one of its ports: of the socket and the console device, which the resident
operating system serves, source 0x01 is pending (R450, R456). Where only the port of the die is named, it is the socket device. -/
def execVirtqueueNotification (s : State) : Out :=
    match s.subject with
    | .die d => .next (if (s.port d).resetting then s else s.raiseSource 1)
    | .host d fn port _ _ =>
      .next (if !(s.port d).resetting && (PortFunction.ofNum fn).any fun f => f.served port then s.raiseSource 1 else s)
    | _ => .next s

/-! ## Kwaol ports (R457 to R459) -/

/-- A byte, or a word, with its bits in the other order. -/
def turned (n : Nat) (x : Nat) : Nat := (List.range n).foldl (fun a k => 2 * a + x / 2 ^ k % 2) 0

/-- One bit of the CRC-64 (R457). -/
def crcShift (c : Word) : Word := if c.msb then (c <<< 1) ^^^ 0x42F0E1EBA9EA3693 else c <<< 1

/-- The CRC-64 of bytes: initial and final XOR all ones (R457). The bit order is not given (log entry 25). -/
def crc64 (l : List Byte) : Nat :=
  let r := fun (n x : Nat) => if Config.crcReflected then turned n x else x
  let c := l.foldl (fun (c : Word) (b : Byte) =>
    (List.range 8).foldl (fun (c : Word) (_ : Nat) => crcShift c) (c ^^^ BitVec.ofNat 64 (r 8 b.toNat * 2 ^ 56))) (BitVec.allOnes 64)
  r 64 (c ^^^ BitVec.allOnes 64).toNat

/-- The port after it asks for a flit to be sent again, or is asked to: the NAKs that it has seen in the last millisecond (R458). -/
def Link.sees (k : Link) (now : BitVec 48) : Link :=
  { k with naks := now :: k.naks.filter fun t => decide ((now - t).toNat < 1600000) }

/-- The channels that a receiver stops: below 256 free places of 512, until more than 384 are free (R459). -/
def Link.stops (k : Link) : BitVec 4 :=
  (List.range 4).foldl (fun (m : BitVec 4) (v : Nat) =>
    let n := 512 - File.get k.held (BitVec.ofNat 2 v)
    if n < 256 ∨ (bit k.stopSent v = true ∧ n ≤ 384) then m ||| BitVec.twoPow 4 v else m) 0

/-- The port with the number of flits that it holds of a channel changed. -/
def Link.hold (k : Link) (v : Nat) (n : Nat) : Link :=
  let k := { k with held := File.set k.held (BitVec.ofNat 2 v) n }
  { k with stopSent := k.stops }

/-- The header of a flit (R457). -/
def Flit.header (f : Flit) (seq ack : BitVec 12) (nak : Bool) (stop : BitVec 4) : Nat :=
  f.type % 16 + 2 ^ 4 * (f.vc % 4) + 2 ^ 6 * (f.src / 2 % 16) + 2 ^ 10 * (f.dst / 2 % 16) + 2 ^ 14 * (f.src % 2) + 2 ^ 15 * (f.dst % 2)
    + 2 ^ 16 * seq.toNat + 2 ^ 28 * ack.toNat + 2 ^ 40 * b2n nak + 2 ^ 41 * stop.toNat + 2 ^ 45 * f.data.length

/-- The 256 bytes of a flit that a port sends with a sequence number: it acknowledges what the port has received (R457, R458). -/
def Link.compose (k : Link) (seq : BitVec 12) (f : Flit) : List Byte :=
  let b := leBytes 8 (f.header seq (k.expected - 1) k.nak k.stopSent) ++ padded 240 f.data
  b ++ leBytes 8 (crc64 b)

/-- A flit as its header and payload give it (R457). -/
def Flit.read (h : Word) (payload : List Byte) : Flit :=
  ⟨fld h 0 4, fld h 4 2, 2 * fld h 6 4 + fld h 14 1, 2 * fld h 10 4 + fld h 15 1, payload.take (fld h 45 8)⟩

/-- The flit that a port sends when it has no other (R457, R458): its source is this module (log entry 32). -/
def idleFlit : Flit := ⟨0, 0, 2 * Config.module.toNat, 0, []⟩

/-- The port after the acknowledgement, NAK and STOP of a header (R457 to R459). -/
def Link.heeds (k : Link) (h : Nat) : Link :=
  let ack := BitVec.ofNat 12 (h / 2 ^ 28)
  let rest := k.retry.filter fun e => decide (2048 ≤ (ack - e.1).toNat)
  { k with retry := rest, resend := if h.testBit 40 then rest.map (·.1) else k.resend, stopSeen := BitVec.ofNat 4 (h / 2 ^ 41) }

/-- The state after a port has seen its latest NAK: 16 in a millisecond make it retrain (R458). -/
def State.nakSeen (s : State) (p : Nat) : State :=
  let s := s.modLink p fun k => k.sees s.ltime
  if 16 ≤ (s.link p).naks.length then (s.modLink p fun k => { k with naks := [] }).row .linkRetrain (.num p) else s

/-- The state after a flit of 256 bytes is received (R457 to R459). -/
def State.takeFlit (s : State) (p : Nat) (f : List Byte) : State :=
  let k := s.link p
  let h := leNat (f.take 8)
  let type := h % 16
  let v := h / 16 % 4
  let good := crc64 (f.take 248) = leNat (f.drop 248)
  if !good || (type ≠ 0 && (decide (BitVec.ofNat 12 (h / 2 ^ 16) ≠ k.expected) || decide (512 ≤ File.get k.held (BitVec.ofNat 2 v)))) then
    (s.modLink p fun k => { k with nak := true }).nakSeen p
  else
    let s := if type = 0 then s else s.modLink p fun k => { k with expected := k.expected + 1, nak := false }
    if 5 ≤ type ∨ h / 2 ^ 53 ≠ 0 then s.note .link 0 p 32 0 (BitVec.ofNat 64 h) 0
    else
      let s := s.modLink p fun k => k.heeds h
      let s := if h.testBit 40 then s.nakSeen p else s
      if type = 0 then s
      else s.modLink p fun k =>
        { k.hold v (File.get k.held (BitVec.ofNat 2 v) + 1) with got := k.got ++ [Flit.read (BitVec.ofNat 64 h) ((f.take 248).drop 8)] }

/-- A flit is received: with a bad CRC or out of order it is discarded and NAK goes out; else it is acknowledged, and one of a
reserved type or bit is discarded and noted (R457 to R459). -/
def execFlitReceive (s : State) : Out :=
    match s.subject with
    | .flit p f => .next (if (s.link p).down then s else s.takeFlit p (padded 256 f))
    | _ => .next s

/-- The state after a port goes down (R458): what it had to send goes to the port in its place. -/
def State.linkDown (s : State) (p : Nat) : State :=
  let k := s.link p
  let s := s.modLink p fun _ => { Link.reset with down := true }
  let s := match s.portFrom p 16 with
    | some a => s.modLink a fun m => { m with out := m.out ++ k.retry.map (fun e : BitVec 12 × Flit => e.2) ++ k.out }
    | none => s
  (s.note .link 0 p 33 0 0 0).raiseSource 5

/-- A port retrains, and whether that succeeds is free; after 3 failures in a row it goes down (R458). -/
def execLinkRetrain (s : State) : Out :=
    match s.subject with
    | .num p =>
      if (s.link p).down then .next s
      else if s.pickBit 0 then .next (s.modLink p fun k => { k with fails := 0, resend := k.retry.map (·.1) }).picked
      else if 2 ≤ (s.link p).fails then .next (s.linkDown p).picked
      else .next ((s.modLink p fun k => { k with fails := k.fails + 1 }).row .linkRetrain (.num p)).picked
    | _ => .next s

/-- The port after it has sent a flit with a sequence number; a NAK goes out once. -/
def Link.sends (k : Link) (seq : BitVec 12) (f : Flit) : Link := { k with wire := k.compose seq f, nak := false }

/-- The state after a port has sent what it may in one clock (R458, R459): a flit to be sent again, else the next one whose channel is not
stopped, into the retry buffer of 1024, else an idle flit. -/
def State.linkSend (s : State) (p : Nat) : State :=
  s.modLink p fun k =>
    match k.resend, k.out.find? fun e => !bit k.stopSeen e.vc with
    | n :: t, _ => { k.sends n (((k.retry.find? fun e => e.1 = n).map (·.2)).getD idleFlit) with resend := t }
    | [], some e =>
      if 1024 ≤ k.retry.length then k.sends 0 idleFlit
      else { k.sends k.next e with out := k.out.erase e, retry := k.retry ++ [(k.next, e)], next := k.next + 1 }
    | [], none => k.sends 0 idleFlit

/-- The state after the part has used the oldest flit of a channel that a port holds: one for another module is passed on to the port that
reaches it (R458; log entry 32). -/
def State.linkUse (s : State) (p v : Nat) : State :=
  match (s.link p).got.find? fun f => f.vc = v with
  | none => s
  | some f =>
    let s := s.modLink p fun k => { k.hold v (File.get k.held (BitVec.ofNat 2 v) - 1) with got := k.got.erase f }
    if f.dst / 2 = Config.module.toNat then s
    else match s.portFrom (Config.portOf (f.dst / 2)) 16 with
      | some a => s.modLink a fun m => { m with out := m.out ++ [f] }
      | none => s

/-! ## Boot (R460) -/

/-- The number of a core among all: tile, shader, supervisor. -/
def coreNumber : CoreId → Nat
  | .tile n => n
  | .shader n => 256 + n
  | .super n => 512 + n

/-- The cores of a die. -/
def coresOfDie (d : Nat) : List CoreId :=
  (List.range 32).map (fun k => .tile (32 * d + k)) ++ (List.range 64).map (fun k => .shader (64 * d + k))
    ++ (List.range 16).map (fun k => .super (16 * d + k))

/-- What a restart of the part keeps: memory, the event recorder (R454, R464; log entry 3). -/
def State.restart (s : State) : State :=
  { State.reset with
    free := s.free, agenda := [],
    mm := { MemSys.reset with mem := s.mm.mem, poison := s.mm.poison },
    edge := { Edge.reset with recorder := s.edge.recorder, recCount := s.edge.recCount, recSeqs := s.edge.recSeqs } }

/-- The words of the control page that the configuration block may hold. -/
def configWords : List Nat :=
  ((List.range 4096).map (8 * ·)).filter fun off => ctlPlain off || decide (0x400 ≤ off ∧ off < 0x500) || decide (0x4000 ≤ off ∧ off < 0x6000)

/-- The state after the configuration block is loaded: the agents of the pod (R384), the control page, each core's current limit and window,
not below their floors (R257, R460, R462). -/
def State.configure (s : State) : State :=
  let far := (List.range 32).filter fun k => Config.pod (k / 2) && k / 2 ≠ Config.module.toNat
  let s := s.modMem fun m => { m with present := m.present ++ far.map (0x30 + ·) }
  let s := configWords.foldl (fun (s : State) (off : Nat) => match Config.control off with | some v => s.ctlWrite off v | none => s) s
  (coresOfDie 0 ++ coresOfDie 1).foldl (fun (s : State) (c : CoreId) => s.modCommon c fun k =>
    { k with curlim := BitVec.ofNat 16 (max 96 (Config.curlim (coreNumber c)).toNat),
             curwin := BitVec.ofNat 8 (max 16 (Config.curwin (coreNumber c)).toNat) }) s

/-- A supervisor core as the resident operating system starts on it, at K (R460). -/
def Stream.osStart : Stream :=
  { Stream.launch with csr := { Csrs.launch with priv := 1 }, pc := Config.osEntry.setWidth 64, image := Config.osImage }

/-- The state after a boot step is noted. -/
def State.bootNote (s : State) (k : Nat) : State := s.note .boot 0 0 (34 + k) 0 (BitVec.ofNat 64 k) 0

/-- The state after the fourth and fifth step of boot: memory and ports are trained, a port that fails is left down and noted, the
control page is loaded, the operating system starts on every supervisor core. -/
def State.bootRun (s : State) : State :=
  let s := (List.range 16).foldl (fun (s : State) (p : Nat) =>
    if Config.bootVerdict (16 + p) then s else (s.modLink p fun k => { k with down := true }).note .link 0 p 33 0 0 0) s
  let s := s.configure
  let s := (List.range 32).foldl (fun (s : State) (n : Nat) => s.setStream (.super n) Stream.osStart) s
  (s.modEdge fun e => { e with boot := .done }).bootNote 5

/-- The state after boot (R460; log entry 3): identity; the configuration block of slot A or B; the firmware of either slot; the
patch, whose level is noted (R444); what stops it leaves the part in recovery, with its console alone. -/
def State.bootUp (s : State) : State :=
  let v := Config.bootVerdict
  let s := s.restart
  let s := if v 1 then s.modEdge fun e => { e with identity := true } else s.bootNote 1
  if !v 2 && !v 3 then (s.modEdge fun e => { e with boot := .recovery }).bootNote 2
  else if !v 4 && !v 5 then (s.modEdge fun e => { e with boot := .recovery }).bootNote 3
  else
    let s := if v 6 then s.modEdge fun e => { e with patch := Config.patchImage.take 128 } else s.bootNote 4
    (s.note .boot 0 0 41 0 (Config.patchLevel (v 6)) 0).bootRun

/-- Power-on, a module reset or a warm reset restarts the part, and boot runs on supervisor core 0 (R454, R460). -/
def execBoot (s : State) : Out :=
    .next s.bootUp

/-! ## Power (R462) -/

/-- The current limit after a number of steps of an eighth, not below the floor (R257, R462). -/
def steppedLimit (full : BitVec 16) (n : Nat) : BitVec 16 := BitVec.ofNat 16 (max 96 (full.toNat * (8 - n) / 8))

/-- The state in which the current limits of a die stand a number of steps below their values. -/
def State.setSteps (s : State) (d : Bool) (n : Nat) : State :=
  let old := Table.get 0 s.edge.lowered d
  let s := (coresOfDie (b2n d)).foldl (fun (s : State) (c : CoreId) =>
    let full := if old = 0 then (s.common c).curlim else Table.get (s.common c).curlim s.edge.configured c
    (s.modCommon c fun k => { k with curlim := if n = 0 then full else steppedLimit full n }).modEdge fun e =>
      { e with configured := if n = 0 then Table.drop e.configured c else Table.put e.configured c full }) s
  s.modEdge fun e => { e with lowered := Table.put e.lowered d n }

/-- A sensor of a die passes its limit: the current limits of the die's cores fall by an eighth, source 0x06 is raised, the
recorder takes an entry (R462). -/
def execThermalLimit (s : State) : Out :=
    match s.subject with
    | .die d =>
      let s := s.setSteps d (min 8 (Table.get 0 s.edge.lowered d + 1))
      .next ((s.raiseSource 6).note .thermal (b2n d) 0 40 0 (BitVec.ofNat 64 (Table.get 0 s.edge.lowered d)) 0)
    | _ => .next s

/-- The sensor is 5 °C below its limit: the current limits rise by the same steps (R462). -/
def execThermalRecover (s : State) : Out :=
    match s.subject with
    | .die d => .next (if Table.get 0 s.edge.lowered d = 0 then s else s.setSteps d (Table.get 0 s.edge.lowered d - 1))
    | _ => .next s

end Sys2Proof.Machine
end

