-- ==== Sys2Proof/Machine/Plan.lean ====
section
/-! DEFINITION. The plan of each operation, for bundles of several; events have none. -/

namespace Sys2Proof.Machine

/-- The plan of an operation in the slot being issued. -/
def planOf (i : Instr) (s : State) : Plan :=
  match i with
  | .nop => planNop s
  | .add o => planAdd o s
  | .sub o => planSub o s
  | .mul o => planMul o s
  | .mulh o => planMulh o s
  | .mulhn o => planMulhn o s
  | .div o => planDiv o s
  | .divn o => planDivn o s
  | .rem o => planRem o s
  | .remn o => planRemn o s
  | .and o => planAnd o s
  | .or o => planOr o s
  | .xor o => planXor o s
  | .andn o => planAndn o s
  | .shl o => planShl o s
  | .shr o => planShr o s
  | .sar o => planSar o s
  | .rol o => planRol o s
  | .min o => planMin o s
  | .minn o => planMinn o s
  | .max o => planMax o s
  | .maxn o => planMaxn o s
  | .clz o => planClz o s
  | .ctz o => planCtz o s
  | .popc o => planPopc o s
  | .sext o => planSext o s
  | .zext o => planZext o s
  | .bfx o => planBfx o s
  | .bfi o => planBfi o s
  | .sel o => planSel o s
  | .li o => planLi o s
  | .lih o => planLih o s
  | .cmp o => planCmp o s
  | .plog o => planPlog o s
  | .pmov o => planPmov o s
  | .pmovHToS o => planPmovHToS o s
  | .pmovHFromS o => planPmovHFromS o s
  | .pmovB o => planPmovB o s
  | .fadd o => planFadd o s
  | .fsub o => planFsub o s
  | .fmul o => planFmul o s
  | .fdiv o => planFdiv o s
  | .fsqrt o => planFsqrt o s
  | .ffma o => planFfma o s
  | .fcmp o => planFcmp o s
  | .fcvt o => planFcvt o s
  | .fminmax o => planFminmax o s
  | .bru o => planBru o s
  | .jmp o => planJmp o s
  | .call o => planCall o s
  | .ret o => planRet o s
  | .loop o => planLoop o s
  | .brk o => planBrk o s
  | .brl o => planBrl o s
  | .jmpl o => planJmpl o s
  | .calll o => planCalll o s
  | .retl o => planRetl o s
  | .join o => planJoin o s
  | .yieldp o => planYieldp o s
  | .csrr o => planCsrr o s
  | .csrw o => planCsrw o s
  | .csrs o => planCsrs o s
  | .csrc o => planCsrc o s
  | .sysc o => planSysc o s
  | .trap o => planTrap o s
  | .eret o => planEret o s
  | .uret o => planUret o s
  | .wfi o => planWfi o s
  | .halt o => planHalt o s
  | .brkpt o => planBrkpt o s
  | .tlbi o => planTlbi o s
  | .cmaint o => planCmaint o s
  | .mts o => planMts o s
  | .mfs o => planMfs o s
  | .mtq o => planMtq o s
  | .evadd o => planEvadd o s
  | .evld o => planEvld o s
  | .evarm o => planEvarm o s
  | .evwait o => planEvwait o s
  | .lea o => planLea o s
  | .addpc o => planAddpc o s
  | .wid o => planWid o s
  | .vnop => planVnop s
  | .vadd o => planVadd o s
  | .vsub o => planVsub o s
  | .vmul o => planVmul o s
  | .vmulh o => planVmulh o s
  | .vmad o => planVmad o s
  | .vabs o => planVabs o s
  | .vneg o => planVneg o s
  | .vmin o => planVmin o s
  | .vmax o => planVmax o s
  | .vadds o => planVadds o s
  | .vsubs o => planVsubs o s
  | .vavg o => planVavg o s
  | .vsad o => planVsad o s
  | .vand o => planVand o s
  | .vor o => planVor o s
  | .vxor o => planVxor o s
  | .vandn o => planVandn o s
  | .vshl o => planVshl o s
  | .vshr o => planVshr o s
  | .vsar o => planVsar o s
  | .vclz o => planVclz o s
  | .vpopc o => planVpopc o s
  | .vbfx o => planVbfx o s
  | .vbfi o => planVbfi o s
  | .vbsel o => planVbsel o s
  | .vfadd o => planVfadd o s
  | .vfsub o => planVfsub o s
  | .vfmul o => planVfmul o s
  | .vffma o => planVffma o s
  | .vfmin o => planVfmin o s
  | .vfmax o => planVfmax o s
  | .vrcp o => planVrcp o s
  | .vrsq o => planVrsq o s
  | .vsqrt o => planVsqrt o s
  | .vexp2 o => planVexp2 o s
  | .vlog2 o => planVlog2 o s
  | .vsin o => planVsin o s
  | .vcos o => planVcos o s
  | .vtanh o => planVtanh o s
  | .vcvt o => planVcvt o s
  | .vquant o => planVquant o s
  | .vdeq o => planVdeq o s
  | .vcmp o => planVcmp o s
  | .vsel o => planVsel o s
  | .vplog o => planVplog o s
  | .vpcnt o => planVpcnt o s
  | .vpfirst o => planVpfirst o s
  | .vpany o => planVpany o s
  | .vtbl o => planVtbl o s
  | .vperm o => planVperm o s
  | .vslide o => planVslide o s
  | .vshfl o => planVshfl o s
  | .vbcast o => planVbcast o s
  | .vext o => planVext o s
  | .vins o => planVins o s
  | .vzip o => planVzip o s
  | .vunzip o => planVunzip o s
  | .vredadd o => planVredadd o s
  | .vredmin o => planVredmin o s
  | .vredmax o => planVredmax o s
  | .vredlog o => planVredlog o s
  | .vscan o => planVscan o s
  | .vfredadd o => planVfredadd o s
  | .vmov o => planVmov o s
  | .vmovS o => planVmovS o s
  | .vli o => planVli o s
  | .vlane o => planVlane o s
  | .lnop => planLnop s
  | .ld o => planLd o s
  | .vld o => planVld o s
  | .vlds o => planVlds o s
  | .vldg o => planVldg o s
  | .tld o => planTld o s
  | .gld o => planGld o s
  | .ldx o => planLdx o s
  | .lpf o => planLpf o s
  | .amadd o => planAmadd o s
  | .ammin o => planAmmin o s
  | .ammax o => planAmmax o s
  | .amand o => planAmand o s
  | .amor o => planAmor o s
  | .amxor o => planAmxor o s
  | .amswp o => planAmswp o s
  | .amcas o => planAmcas o s
  | .amfadd o => planAmfadd o s
  | .aminc o => planAminc o s
  | .wnop => planWnop s
  | .st o => planSt o s
  | .vst o => planVst o s
  | .vsts o => planVsts o s
  | .vsct o => planVsct o s
  | .tst o => planTst o s
  | .gst o => planGst o s
  | .stx o => planStx o s
  | .cadd o => planCadd o s
  | .cwb o => planCwb o s
  | .mnop => planMnop s
  | .mma o => planMma o s
  | .mmas o => planMmas o s
  | .mzero o => planMzero o s
  | .mdrain o => planMdrain o s
  | .mlaccSave o => planMlaccSave o s
  | .mlaccLoad o => planMlaccLoad o s
  | .wvmac o => planWvmac o s
  | .cnop => planCnop s
  | .copy o => planCopy o s
  | .gath o => planGath o s
  | .scat o => planScat o s
  | .qbcast o => planQbcast o s
  | .pfb o => planPfb o s
  | .drop o => planDrop o s
  | .coll o => planColl o s
  | .xsort o => planXsort o s
  | .tmoveMove o => planTmoveMove o s
  | .tmoveEvict o => planTmoveEvict o s
  | .tqpush o => planTqpush o s
  | .rlaunch o => planRlaunch o s
  | .rtrace o => planRtrace o s
  | .qfence o => planQfence o s
  | .sopen o => planSopen o s
  | .sopenEvicted o => planSopenEvicted o s
  | .satt o => planSatt o s
  | .srel o => planSrel o s
  | .sevict o => planSevict o s
  | .sdrop o => planSdrop o s
  | .ynop => planYnop s
  | .bar o => planBar o s
  | .barphArrive o => planBarphArrive o s
  | .barphWait o => planBarphWait o s
  | .fence o => planFence o s
  | .tkwait o => planTkwait o s
  | .tktest o => planTktest o s
  | .flagw o => planFlagw o s
  | .flagset o => planFlagset o s
  | .ulien o => planUlien o s
  | _ => { slot := s.iss.slot, enc := false }

end Sys2Proof.Machine
end

