-- ==== Sys2Proof/Machine/Issue.lean ====
section
/-! DEFINITION. The issue of bundles: fetch, presentation, the merge stage of a tile core, the partitions of a shader core, the
current limit, cooperative `mma`, and what is taken at a bundle boundary (R7 to R18, R26 to R28, R34, R48, R49, R85 to R90, R138, R241,
R255, R256, R346 to R348, R354 to R360, R373, R436, R456). -/

namespace Sys2Proof.Machine

/-! ## Fetch (R34, R85, R138, R404) -/

/-- What a fetch finds: a bundle, a cause, or something that comes first. -/
inductive Fetch where
  | bundle (b : Bundle)
  | raise (r : Raise)
  | ask (f : State → State)

/-- The state with a line of an instruction cache filled from the die L2, a supervisor core's from its private L2; it is not coherent
after (R152, R374). -/
def State.icFill (s : State) (st : StreamId) (va : Nat) (x : Xl) : State :=
  let ln := x.pa / 128
  let a := if st.isSuper then agentOf st.core else st.die
  let s := s.classed (s.stream st).cls x
  let (v, s) : VWord × State :=
    if !(region x.pa).isMemory then (0, s)
    else if s.atHomeOnly x then let s := s.toHome ln; (s.mm.atHome ln, s)
    else let s := s.agentRead a ln; (s.agentData a ln, s)
  let s := s.poisonCheck st [⟨0, va, x⟩]
  let l : ILine := ⟨va / 128, (s.stream st).csr.asid, v, x.u⟩
  s.modCommon st.core fun k =>
    { k with icache := (l :: k.icache.filter fun i => !(i.vline = l.vline && i.asid = l.asid)).take 512 }

/-- The fetch of the bundle at a program counter of a stream. -/
def State.fetch (s : State) (st : StreamId) (pc : Word) : Fetch :=
  let x := s.stream st
  match st with
  | .tile c b =>
    if 4096 ≤ pc.toNat then .raise (.service cBOUNDS pc)
    else if 3840 ≤ pc.toNat ∧ x.csr.priv = 0 then .raise (.service cPRIV pc)
    else .bundle (Table.get (if pc.toNat < 3840 then 0 else Config.serviceRoutine pc.toNat) (s.tile c).banks ((s.tile c).bankOf b, pc.toNat))
  | _ =>
    let va := (x.image.toNat + 64 * pc.toNat) % 2 ^ 48
    match (s.common st.core).icache.find? fun l => l.vline = va / 128 && l.asid = x.csr.asid with
    | some l =>
      if l.u = decide (x.csr.priv = 0) then .bundle (bits l.data (8 * (va % 128)) 512) else .raise (.recover cPERM va 3)
    | none =>
      match s.look st x.csr.priv x.csr.asid va askFetch false with
      | .hit y => .ask fun t => t.icFill st va y
      | .denied => .raise (.recover cPERM va 3)
      | .miss => .ask fun t => t.askWalk st va askFetch 15

/-! ## Presentation -/

/-- The state that presents a bundle of a path. -/
def State.show_ (s : State) (st : StreamId) (lanes : Lanes) (pc : Word) (b : Bundle) : State :=
  { s with iss := { st := st, lanes := lanes, pc := pc, header := b.extractLsb' 0 32, slot := .s, srBase := 0, npc := none, moved := false, ff := 0, mf := 0 } }

/-- The plan of a slot's operation; a word that does not decode is a faulty encoding (R117). -/
def State.planSlot (s : State) (e : Slot × Option Instr) : Plan :=
  let s := { s with iss := { s.iss with slot := e.1 } }
  match e.2 with
  | some i => planOf i s
  | none => { slot := e.1, enc := false }

/-- The plans of a bundle's operations, each after the SR steps of those before it (R69), and the number of steps. -/
def State.plansOf (s : State) (ops : List (Slot × Option Instr)) : List Plan × Nat :=
  ops.foldl (fun (r : List Plan × Nat) (e : Slot × Option Instr) =>
    let p := ({ s with iss := { s.iss with srBase := s.iss.srBase + r.2 } } : State).planSlot e
    (r.1 ++ [p], r.2 + b2n p.sr)) ([], 0)

/-- A presented bundle: the state that presents it, its operations and their plans, what becomes of it. -/
structure Shown where
  s : State
  ops : List (Slot × Option Instr)
  plans : List Plan
  verdict : Verdict

/-- The bundle at a program counter, presented. -/
def State.present (s : State) (st : StreamId) (lanes : Lanes) (pc : Word) : Shown :=
  match s.fetch st pc with
  | .bundle b =>
    let t := s.show_ st lanes pc b
    let ps := (t.plansOf (Bundle.ops b)).1
    ⟨t, Bundle.ops b, ps, t.verdict ps⟩
  | .raise r => ⟨s.show_ st lanes pc 0, [], [], .raise 15 r⟩
  | .ask f => ⟨s.show_ st lanes pc 0, [], [], .ask f⟩

/-- The state after the line of a bundle that a stream is about to present is brought to its instruction cache, or its translation is
asked for. -/
def State.ready (s : State) (st : StreamId) (lanes : Lanes) (pc : Word) : State :=
  match s.fetch st pc with
  | .ask f => f (s.show_ st lanes pc 0)
  | _ => s

/-- Whether a presented bundle issues. -/
def Verdict.goes : Verdict → Bool
  | .go => true
  | _ => false

/-! ## Currents (R255, R256) -/

/-- The frets of a V operation's word. -/
def vFrets (o : VOp) : Nat := frets o.width

/-- The width field of an operation. -/
def opFrets (sl : Slot) (i : Instr) : Nat :=
  match encode i with
  | some (_, w) => if sl = .va ∨ sl = .vb then frets (w.extractLsb' 50 2) else 0
  | none => 0

/-- Whether an operation is its slot's no-operation. -/
def isNop : Instr → Bool
  | .nop | .vnop | .mnop | .lnop | .wnop | .cnop | .ynop => true
  | _ => false

/-- The frets that a bundle's operations use (R10). -/
def fretsOf (ops : List (Slot × Option Instr)) : Nat :=
  ops.foldl (fun n e => n + match e.2 with | some i => if isNop i then 0 else opFrets e.1 i | none => 0) 0

/-- The current that a bundle's slots draw when it issues; a shader core's M slot draws in its issue clock. -/
def slotDraw (wave : Bool) (e : Slot × Option Instr) : Nat :=
  match e.2 with
  | some i =>
    if isNop i then 0
    else match e.1 with
      | .s | .c => 1
      | .va | .vb => 2 * opFrets e.1 i
      | .l | .w => 3
      | .m => if wave then 48 else match i with | .mma _ | .mmas _ => 48 | _ => 6
      | .y => 0
  | none => 0

/-- The current that a bundle draws. -/
def drawOf (wave : Bool) (ops : List (Slot × Option Instr)) : Nat := (ops.map (slotDraw wave)).foldl (· + ·) 0

/-- The current that an array at work draws, and the drain unit in the 128 clocks after its operation has left the array (R230, R255). -/
def TileCore.arrayDraw (t : TileCore) : Nat :=
  (match t.array with
    | some a => match a.work with | .products .. => 48 | _ => 6
    | none => 0) + (if t.drain = 0 ∨ 128 < t.drain then 0 else 6)

/-- The sum over the previous clocks of a core's window (R256). -/
def Common.window (k : Common) : Nat := (k.currents.take (k.curwin.toNat - 1)).foldl (· + ·) 0

/-- A core's record of currents with the clock's own. -/
def Common.drew (k : Common) (n : Nat) : Common := { k with currents := (n :: k.currents).take 254 }

/-! ## Tile contexts at the merge stage (R9 to R12, R360) -/

/-- What a context does in a tile clock. -/
inductive Turn where
  /-- Nothing is there. -/
  | off
  /-- It has halted; its results in flight still land (R150). -/
  | rest
  /-- It is frozen. -/
  | frozen
  /-- An idle cycle of its last header (R89). -/
  | idle
  /-- An event takes the boundary (R360). -/
  | event (i : Instr)
  /-- It presents a bundle that does not issue: a hold, a walk, a trap. -/
  | stays
  /-- It presents a bundle that issues: its valid mask, frets, current. -/
  | goes (mask : BitVec 8) (n draw : Nat)

/-- Whether a stream's next bundle waits for a maintenance operation or a fence to complete (R151, R152, R223). -/
def Stream.blocked (x : Stream) : Bool := !x.tlbiWait.isEmpty || x.cmaintWait || x.fenced.isSome

/-- Whether a context is frozen whatever it presents: also for a value or a load's data that is outstanding, and a walk (R107, R204,
R347). -/
def Stream.frozen (x : Stream) : Bool :=
  x.blocked || !x.returns.isEmpty || x.miss.isSome || x.loads.any fun l => decide (l.due ≤ x.time)

/-- Whether a pending ULI may be taken at the boundary of a context that presents a bundle (R359): it runs, or waits in the bundle for
a queue, a flag, a counter, a token or a barrier. -/
def State.uliOpen (s : State) (st : StreamId) (p : Shown) : Bool :=
  let x := s.stream st
  let waits := fun (e : Slot × Option Instr) => match e.2 with
    | some i => p.s.queueHold i || (match i with | .evwait _ | .bar _ | .barphWait _ | .tkwait _ | .flagw _ => true | _ => false)
    | none => false
  !(x.ulis.isEmpty && x.tokenUlis.isEmpty) && x.csr.uie && !x.csr.insvc && !x.csr.inuli
    && (match p.verdict with
        | .held => p.ops.any waits || (popped p.s.hdr).any fun q => (s.queue st q).isEmpty
        | .ask _ => false
        | _ => true)

/-- Whether a context with a preemption request presents a bundle at which it may be saved (R366). -/
def State.saveOpen (s : State) (st : StreamId) (p : Shown) : Bool :=
  let x := s.stream st
  x.preempt.isSome && (x.job.any fun j => (s.freeArea j.queue).isSome) && p.s.hdr.sb && !x.inHandler && !s.drains st && (match p.verdict with | .raise 15 _ => false | _ => true)

/-- What a context does in this tile clock. -/
def State.turn (s : State) (st : StreamId) : Turn :=
  let x := s.stream st
  match x.stop with
  | .halted => if x.pend.isEmpty && x.loads.isEmpty && !s.drains st then .off else .rest
  | .saved | .staged => .off
  | .running =>
    if x.frozen then .frozen
    else if 0 < x.idle && !x.inHandler then .idle
    else
      let p := s.present st 0 x.pc
      if x.debugReq then .event .debugHalt
      else if s.saveOpen st p then
        (if (s.tile st.tileOf).array.any fun a => a.st = st then .frozen else .event .preemptionSave)
      else if s.uliOpen st p then .event .uliEntry
      else match p.verdict with
        | .go => .goes p.s.hdr.valid (fretsOf p.ops) (drawOf false p.ops)
        | _ => .stays
  | .wfi =>
    if x.debugReq then .event .debugHalt
    else if !(x.ulis.isEmpty && x.tokenUlis.isEmpty) && x.csr.uie && !x.csr.insvc && !x.csr.inuli then .event .uliEntry
    else .frozen
  | _ => .frozen

/-- Whether c1's bundle may issue beside c0's (R10). -/
def Turn.beside (a b : Turn) : Bool :=
  match a, b with
  | .goes m n _, .goes m' n' _ => m &&& m' = 0 && decide (n + n' ≤ 8)
  | _, _ => true

/-- The current of a turn. -/
def Turn.draw : Turn → Nat
  | .goes _ _ d => d
  | _ => 0

/-- What the merge stage of a tile core decides: the turns of c0 and c1, whether c1 has a merge stall, the clock's current, whether
it is a current-limit freeze cycle (R10, R11, R256). -/
structure Merge where
  t0 : Turn
  t1 : Turn
  stall : Bool
  draw : Nat
  beyond : Bool

/-- The decision of the merge stage of a tile core. -/
def State.merge (s : State) (c : Nat) : Merge :=
  let t0 := s.turn (.tile c false)
  let t1 := s.turn (.tile c true)
  let stall := !t0.beside t1
  let draw := t0.draw + (if stall then 0 else t1.draw) + (s.tile c).arrayDraw
  ⟨t0, t1, stall, draw, decide ((s.tile c).com.curlim.toNat < (s.tile c).com.window + draw)⟩

/-- The items of a turn. -/
def Turn.items (t : Turn) (st : StreamId) : List Item :=
  match t with
  | .event i => [.row i (.stream st)]
  | .goes .. => [.issue st none none]
  | _ => []

/-- Whether a turn is counted by FREEZECNT.ALL: the context is resident and neither issues its main stream nor idles (R373). -/
def Turn.counts (t : Turn) (handler : Bool) : Bool :=
  match t with
  | .frozen | .event _ | .stays => true
  | .goes .. => handler
  | _ => false

/-- The stream after a clock at the merge stage is counted (R373). -/
def Stream.counted (x : Stream) (cl all : Bool) : Stream :=
  { x with csr := { x.csr with freezeCl := x.csr.freezeCl + BitVec.ofNat 32 (b2n cl),
                               freezeAll := x.csr.freezeAll + BitVec.ofNat 32 (b2n all) } }

/-- The state after a turn of a context, apart from what it issues: a halted context's time goes on, and so does an idle one's (R7). -/
def State.turnTime (s : State) (st : StreamId) (t : Turn) : State :=
  match t with
  | .rest => s.modStream st fun x => { x with time := x.time + 1 }
  | .idle =>
    if (s.stream st).idle = 1 then s.next [.row .idleCountExpiry (.stream st)]
    else s.modStream st fun x => { x with idle := x.idle - 1, time := x.time + 1 }
  | _ => s

/-- Whether the array's next clock needs K values of a core that it has not received (R241): the units of both K halves work throughout an
occupancy (R232, R243), so that the sender's half is sent, and needed, evenly over each. A core whose array is free has sent what it will
send. -/
def State.starves (s : State) (a : Occupancy) (f : Feed) : Bool :=
  let n := a.clocks - a.left + 1
  let m := (s.tile f.core).workedAt - f.start + 1
  (s.tile f.core).array.isSome && decide (min f.clocks m * a.clocks < n * f.clocks)

/-- The state after the array and the drain unit of a tile core work for one clock (R230). -/
def State.arrayClock (s : State) (c : Nat) : State :=
  let t := s.tile c
  let s := match t.array with
    | some a =>
      if a.feeds.any (s.starves a) then s
      else
        let s := s.modTile c fun k => { k with array := some { a with left := a.left - 1 } }
        if a.left ≤ 1 then s.row .arrayOccupancyEnd (.core (.tile c)) else s
    | none => s
  s.modTile c fun k => { k with drain := k.drain - 1, worked := k.worked + 1 }

/-- The state after a turn in which a context's bundle does not issue: it waits, asks, or takes its trap or fault. -/
def State.stay (s : State) (st : StreamId) (t : Turn) : State :=
  match t with
  | .stays =>
    let p := s.present st 0 (s.stream st).pc
    match p.verdict with
    | .go => s
    | .raise sl r => p.s.raise sl r
    | _ => p.s.run p.plans
  | _ => s

/-- The state after one tile clock of a tile core at its merge stage. -/
def State.mergeClock (s : State) (c : Nat) : State :=
  let a : StreamId := .tile c false
  let b : StreamId := .tile c true
  let m := s.merge c
  let here := fun (t : Turn) => match t with | .off | .rest => false | _ => true
  let count := fun (s : State) (st : StreamId) (cl all : Bool) => if cl || all then s.modStream st fun x => x.counted cl all else s
  if m.beyond then
    let s := s.modTile c fun t => { t with com := t.com.drew 0 }
    count (count s a (here m.t0) (here m.t0)) b (here m.t1) (here m.t1)
  else
    let t1 : Turn := if m.stall then .frozen else m.t1
    let h := fun (st : StreamId) => (s.stream st).inHandler
    let s := count (count s a false (m.t0.counts (h a))) b false (t1.counts (h b))
    let s := (((s.stay a m.t0).stay b t1).modTile c fun t => { t with com := t.com.drew m.draw }).arrayClock c
    ((s.turnTime a m.t0).turnTime b t1).next (m.t0.items a ++ t1.items b)

/-- One tile clock of a tile core: what its contexts present, and what issues (R10 to R12, R256, R360). -/
def execMergeStage (s : State) : Out :=
    match s.subject with
    | .core (.tile c) => .next (s.mergeClock c)
    | _ => .next s

/-- The last idle cycle of a context passes, and it presents bundles again (R7, R89). -/
def execIdleCountExpiry (s : State) : Out :=
    match s.subject with
    | .stream st =>
      let x := s.stream st
      .next (if x.idle = 0 then s else s.setStream st { x with idle := 0, time := x.time + 1 })
    | _ => .next s

/-- The results of a context that are due by its context time land (R8, R93, R95, R108). -/
def execResultLanding (s : State) : Out :=
    match s.subject with
    | .stream st => .next (s.landDue st)
    | _ => .next s

/-- The entries of a context's shutter file that are due by its context time are delivered, as they would have landed
without the stop (R355). -/
def execShutterDelivery (s : State) : Out :=
    match s.subject with
    | .stream st => .next (s.landDue st)
    | _ => .next s

/-! ## Queues between the cores of a casement (R25, R27) -/

/-- The entries at the head of an outbound queue that the end of this clock may move: pushed two tile clocks ago or earlier. -/
def arriving (now : BitVec 48) (l : List (VWord × BitVec 48)) : List (VWord × BitVec 48) :=
  l.takeWhile fun e => decide (2 ≤ (now - e.2).toNat)

/-- The state after one outbound queue of a core passes on what is due and finds room. -/
def State.passOut (s : State) (c o : Nat) : State :=
  let q := BitVec.ofNat 2 o
  let p := 4 * (c / 4) + ((c % 4) ^^^ (o + 1))
  let l := File.get (s.tile c).outq q
  let held := File.get (s.tile p).inq (BitVec.ofNat 3 o)
  let n := min (arriving s.ltime l).length (16 - held.length)
  (s.modTile c fun t => { t with outq := File.set t.outq q (l.drop n) }).modTile p fun t =>
    { t with inq := File.set t.inq (BitVec.ofNat 3 o) (held ++ (l.take n).map (·.1)) }

/-- At the end of a tile clock, entries pushed two clocks before enter the partners' inbound queues (R25, R27); one for
which there is no room waits in its outbound queue. -/
def execQueueEntryArrival (s : State) : Out :=
    match s.subject with
    | .core (.tile c) => .next ((List.range 3).foldl (fun s o => s.passOut c o) s)
    | _ => .next s

/-- A bundle with VALID = 0 issues: its pops, its idle count, the pc (R88). -/
def execEmptyBundle (s : State) : Out :=
    .next (s.run [])

/-! ## Cooperative `mma` (R240, R241) -/

/-- The context that owns a core's queues, while it runs. -/
def State.queueOwner (s : State) (c : Nat) : Option StreamId :=
  [StreamId.tile c false, StreamId.tile c true].find? fun st =>
    (s.stream st).csr.qown && (s.stream st).stop = .running

/-- The cooperative `mma` that a context presents. -/
def Shown.coop (p : Shown) : Option MOp :=
  p.ops.findSome? fun e => match e.2 with | some (.mma o) => if o.q then some o else none | _ => none

/-- The state with the four cores of a casement open, or shut, to a cooperative `mma`. -/
def State.gate (s : State) (k : Nat) (g : Option (List MatRegion × List MatRegion × List Feed)) : State :=
  (List.range 4).foldl (fun s p => s.modTile (4 * k + p) fun t => { t with coop := g }) s

/-- What a core's queue owner presents with the gate open: its context, its `mma`, whether it would issue in this clock. -/
def State.coopOffer (s : State) (c : Nat) : Option (StreamId × MOp × Bool × Bool) :=
  match s.queueOwner c with
  | none => none
  | some st =>
    let p := s.present st 0 (s.stream st).pc
    match p.coop with
    | none => none
    | some o =>
      let m := s.merge c
      let mine := if st = .tile c false then m.t0 else m.t1
      let goes := match mine with | .goes .. => !m.beyond && (st = .tile c false || !m.stall) | _ => false
      let traps := match p.verdict with | .raise .. | .ask _ => true | _ => false
      some (st, o, goes, traps)

/-- The halves of A and B that a core computes from, in the order of K, each read in the core that holds it (R240). -/
def coopHalves (own other : MatRegion) (half : Nat) : List MatRegion := if half = 0 then [own, other] else [other, own]

/-- The state after the gates of a casement are set for a clock: all four open with the operands when the four cores' `mma` issue
together; once all four are presented and their arrays are free, one whose own checks end it is let go to its trap or walk (R118, R241). -/
def State.coopClock (s : State) (k : Nat) : State :=
  let open_ := s.gate k (some ([], [], []))
  let offers := (List.range 4).map fun p => open_.coopOffer (4 * k + p)
  let shut := s.gate k none
  if offers.all fun o => match o with | some (_, _, g, _) => g | none => false then
    let (rs, t) := offers.foldl (fun (r : List (MatRegion × MatRegion × Nat) × State) (o : Option (StreamId × MOp × Bool × Bool)) =>
      match o with
      | some (st, m, _, _) =>
        let x := r.2.stream st
        let (a, t) := r.2.readRegion (x.regionA st m false)
        let (b, t) := t.readRegion (x.regionB st m false (t.judgeB st m false).elems)
        (r.1 ++ [(a, b, productClocks m false (sevens m (x.scales m 1)))], t)
      | none => r) ([], shut)
    (List.range 4).foldl (fun (s : State) (p : Nat) =>
      match rs[p]?, rs[p ^^^ 1]?, rs[p ^^^ 2]? with
      | some me, some row, some col =>
        let feed := fun (q n : Nat) => (⟨4 * k + q, (s.tile (4 * k + q)).workedAt, n⟩ : Feed)
        s.modTile (4 * k + p) fun t =>
          { t with coop := some (coopHalves me.1 row.1 (p % 2), coopHalves me.2.1 col.2.1 (p / 2),
                     [feed (p ^^^ 1) row.2.2, feed (p ^^^ 2) col.2.2]) }
      | _, _, _ => s) t
  else if !(offers.all fun o => match o with | some (st, _, _, _) => !s.arrayBusy st | none => false) then shut
  else
    (offers.zipIdx).foldl (fun (s : State) (e : Option (StreamId × MOp × Bool × Bool) × Nat) =>
      match e.1 with
      | some (_, _, _, true) => s.modTile (4 * k + e.2) fun t => { t with coop := some ([], [], []) }
      | _ => s) shut

/-- The `mma` with Q = 1 of a casement's four cores issue in one tile clock, or none does (R241). -/
def execCooperativeMmaIssue (s : State) : Out :=
    match s.subject with
    | .num k => .next (s.coopClock k)
    | _ => .next s

/-! ## Waves: paths and partitions (R13 to R17, R49, R256, R436) -/

/-- What a partition may issue of a wave in a clock: its paths A and B that present together or alone, those whose bundles issue, and
their current. -/
structure Offer where
  a : Word
  b : Option Word
  goes : List Word
  draw : Nat

/-- The slots that only one path may use in a cycle (R15), with `sysc` (R146). -/
def oneOnly (ops : List (Slot × Option Instr)) : Bool × Bool :=
  (ops.any fun e => [Slot.m, .l, .w, .c, .y].contains e.1, ops.any fun e => match e.2 with | some (.sysc _) => true | _ => false)

/-- Whether a bundle holds an L or W operation. -/
def touchesMemory (ops : List (Slot × Option Instr)) : Bool := ops.any fun e => e.1 = .l || e.1 = .w

/-- Whether the issue of a presented bundle goes ahead or ends in a cause. -/
def Verdict.acts : Verdict → Bool
  | .go | .raise .. => true
  | _ => false

/-- Two paths of a wave as they present together (R15, R348): path B's SR steps come after path A's (R69), and path A's CSR writes are
judged on what path B's leave, since they come last (R144). -/
def State.presentPair (s : State) (st : StreamId) (a b : Word × Lanes) : Shown × Shown :=
  let pa := s.present st a.2 a.1
  let pb := s.present st b.2 b.1
  let sb : State := { pb.s with iss := { pb.s.iss with srBase := (pa.s.plansOf pa.ops).2 } }
  let rb := (sb.plansOf pb.ops).1
  let ra := pa.plans.map fun p => p.judgedAfter pa.s rb
  let late := fun (p : Shown) (v : Verdict) => match p.verdict with | .go | .raise .. => if p.ops = [] then p.verdict else v | v => v
  ({ pa with plans := ra, verdict := late pa (pa.s.verdict ra) }, { pb with s := sb, plans := rb, verdict := late pb (sb.verdict rb) })

/-- An offer of one path alone. -/
def Shown.alone (p : Shown) (pc : Word) : Offer :=
  if p.verdict.goes then ⟨pc, none, [pc], drawOf true p.ops⟩ else ⟨pc, none, [], 0⟩

/-- An offer of two paths together: a cause of either leaves both without effect (R348). -/
def offerBoth (p : Shown × Shown) (a b : Word) : Offer :=
  if p.1.verdict.goes && p.2.verdict.goes then ⟨a, some b, [a, b], drawOf true p.1.ops + drawOf true p.2.ops⟩ else ⟨a, some b, [], 0⟩

/-- The offer of a wave; `free` says whether it may issue L and W operations (R436). -/
def State.offer (s : State) (st : StreamId) (free : Bool) : Option Offer :=
  let x := s.stream st
  if x.stop ≠ .running || x.blocked then none
  else
    let can := fun (p : Shown) => p.verdict.acts && (free || !touchesMemory p.ops)
    match x.thr.ranked with
    | [] => none
    | a :: rest =>
      let pa := s.present st a.2 a.1
      match rest with
      | [] => if can pa then some (pa.alone a.1) else none
      | b :: _ =>
        let pb := s.present st b.2 b.1
        let clash := ((oneOnly pa.ops).1 && (oneOnly pb.ops).1) || ((oneOnly pa.ops).2 && (oneOnly pb.ops).2)
        if can pa && can pb && !clash then some (offerBoth (s.presentPair st a b) a.1 b.1)
        else if can pa then some (pa.alone a.1)
        else if can pb then some (pb.alone b.1)
        else none

/-- The waves of a partition of a shader core: 16 wave slots. -/
def wavesOf (c p : Nat) : List StreamId := (List.range 16).map fun w => .wave c (16 * p + w)

/-- A wave's score (R436), and its slot. -/
def State.score (s : State) (st : StreamId) : Nat := match st with | .wave c w => Table.get 0 (s.shader c).scores w | _ => 0
def slotOf : StreamId → Nat | .wave _ w => w | _ => 0

/-- The resident waves of a partition that may issue L and W operations (R436). -/
def State.allowed (s : State) (ws : List StreamId) : List StreamId :=
  let live := ws.filter fun st => decide ((s.stream st).thr.active ≠ 0)
  let sum := (live.map s.score).foldl (· + ·) 0
  let n := max 2 (16 - sum / 32)
  live.filter fun st =>
    decide ((live.filter fun t => decide (s.score t < s.score st ∨ (s.score t = s.score st ∧ slotOf t < slotOf st))).length < n)

/-- The wait counts of a wave's paths after an issue opportunity, with the paths that issued (R16). -/
def Threads.waited (t : Threads) (issued : List Word) : Threads :=
  { t with
    waits := t.paths.map fun p => (p.1, if issued.contains p.1 then 0 else Table.get 0 t.waits p.1 + 1),
    first := Option.none, yielded := [], lowest := false }

/-- The path of a wave whose wait count is above a limit: the highest count, then the lowest program counter (R16). -/
def Threads.overdue (t : Threads) (limit : Nat) : Option Word :=
  (t.paths.filter fun p => decide (limit < Table.get 0 t.waits p.1)).foldl (fun (m : Option Word) (p : Word × Lanes) =>
    match m with
    | Option.none => some p.1
    | some q =>
      let a := Table.get 0 t.waits p.1
      let b := Table.get 0 t.waits q
      if b < a ∨ (a = b ∧ p.1.toNat < q.toNat) then some p.1 else m) Option.none

/-- The state after a path of a wave presents a bundle that does not issue: its line is fetched, it asks for a translation, it arrives at
its barrier. -/
def State.presentHeld (s : State) (st : StreamId) (a : Word × Lanes) : State :=
  let s := s.ready st a.2 a.1
  let p := s.present st a.2 a.1
  match p.verdict, p.ops with
  | .ask _, [] => s
  | .held, _ | .ask _, _ => p.s.run p.plans
  | _, _ => s

/-- The state after a partition of a shader core has selected a wave, if the current limit admits it. -/
def State.selectWave (s : State) (c p : Nat) : State :=
  let ws := wavesOf c p
  let live := ws.filter fun st => decide ((s.stream st).thr.active ≠ 0)
  let s := live.foldl (fun (s : State) (st : StreamId) =>
    if (s.stream st).stop ≠ .running || (s.stream st).blocked then s
    else ((s.stream st).thr.ranked.take 2).foldl (fun (s : State) (a : Word × Lanes) => s.presentHeld st a) s) s
  let turn := File.get (s.shader c).turn (BitVec.ofNat 2 p)
  let order := (List.range 16).map fun k => StreamId.wave c (16 * p + (turn + k) % 16)
  let free := s.allowed ws
  match order.findSome? fun st => (s.offer st (free.contains st)).map fun o => (st, o) with
  | none => s
  | some (st, o) =>
    let k := s.shader c
    let now := (k.com.currents.head?).getD 0
    let before := ((k.com.currents.drop 1).take (k.len.toNat - 1)).foldl (· + ·) 0
    if k.lim.toNat < before + now + o.draw then
      s.modShader c fun t => { t with turn := File.set t.turn (BitVec.ofNat 2 p) (slotOf st % 16) }
    else
      let s := s.modShader c fun t =>
        { t with turn := File.set t.turn (BitVec.ofNat 2 p) ((slotOf st + 1) % 16),
                 com := { t.com with currents := (now + o.draw) :: t.com.currents.drop 1 } }
      let x := s.stream st
      let thr := x.thr.waited o.goes
      let late := (thr.overdue x.csr.fair.toNat).isSome
      (s.setStream st { x with thr := thr }).next
        ((if late then [.row .pathWaitLimit (.stream st)] else []) ++ [.issue st (some o.a) o.b])

/-- A partition of a shader core selects a wave and issues its first two ranked paths (R14, R15, R49, R256, R436). -/
def execShaderPartitionSelect (s : State) : Out :=
    match s.subject with
    | .num2 c p => .next (s.selectWave c p)
    | _ => .next s

/-- A path of a wave has waited longer than FAIRCFG.LIMIT, and takes the place of path A at the wave's next opportunity
(R16). -/
def execPathWaitLimit (s : State) : Out :=
    match s.subject with
    | .stream st =>
      .next (s.modStream st fun x => { x with thr := { x.thr with first := x.thr.overdue x.csr.fair.toNat } })
    | _ => .next s

/-! ## The issue of a bundle -/

/-- The state after the bundle of one of two paths has its effects, without what comes after every slot, and the bundle's issue after. -/
def State.half (s : State) (iss : Issue) (ps : List Plan) : State × Issue :=
  let t := (({ s with iss := iss } : State).effects ps).finish
  (t, t.iss)

/-- The state after two paths of a wave issue together (R15): path B's effects come first, so that an S register that both write keeps
path A's value; then what comes after every slot, and the flags of both (R71). -/
def State.issueBoth (s : State) (a b : Shown) : State :=
  let (t, ib) := s.half b.s.iss b.plans
  let (t, ia) := t.half a.s.iss a.plans
  let u := State.finals { t with iss := ib } b.plans
  let u := State.finals { u with iss := ia } a.plans
  ({ u.flagged with iss := ib } : State).flagged

/-- The state after two paths of a wave present together (R15, R348): a cause of either leaves both without effect; where one waits the
other issues alone. -/
def State.pair (s : State) (st : StreamId) (a b : Word × Lanes) : State :=
  let (pa, pb) := s.presentPair st a b
  match pa.verdict, pb.verdict with
  | .raise sl r, _ => pa.s.raise sl r
  | .go, .raise sl r => pb.s.raise sl r
  | .go, .go => s.issueBoth pa pb
  | .go, _ => let p := s.present st a.2 a.1; p.s.run p.plans
  | _, _ => let p := s.present st b.2 b.1; p.s.run p.plans

/-- The state in which a stream's bundle issues, and the one operation that the bundle holds, `none` where the state is already the
one after the issue. A supervisor core's bundle also waits for its current limit (R256). -/
def State.enter (s : State) (st : StreamId) (a b : Option Word) : State × Option Instr :=
  let x := s.stream st
  if x.stop ≠ .running then (s, none)
  else
    let pc := a.getD x.pc
    let lanes := if st.isWave then x.thr.path pc else 0
    if st.isWave && lanes = 0 then (s, none)
    else match b with
      | some pb => (s.pair st (pc, lanes) (pb, x.thr.path pb), none)
      | none =>
        let s := s.ready st lanes pc
        let p := s.present st lanes pc
        let k := s.common st.core
        let now := (k.currents.head?).getD 0
        let before := ((k.currents.drop 1).take (k.curwin.toNat - 1)).foldl (· + ·) 0
        let draw := if st.isSuper && p.verdict.goes then drawOf false p.ops else 0
        if st.isSuper && decide (k.curlim.toNat < before + now + draw) then (s, none)
        else
          let t := if st.isSuper then p.s.modCommon st.core fun k => { k with currents := (now + draw) :: k.currents.drop 1 } else p.s
          match s.fetch st pc with
          | .bundle _ =>
            match p.ops with
            | [] => (t, some .emptyBundle)
            | [(sl, some i)] => ({ t with iss := { t.iss with slot := sl } }, some i)
            | _ => (t.run p.plans, none)
          | .raise r => (t.raise 15 r, none)
          | .ask _ => (s, none)

/-! ## What is taken at a boundary (R359, R360, R456) -/

/-- The stream after the first of its pending ULIs enters: counter triggers before completions, completions in token order (R267,
R359). -/
def Stream.takeUli (x : Stream) : Stream :=
  match x.ulis with
  | u :: t => ({ x with ulis := t } : Stream).uli (BitVec.ofNat 64 u.ctr) (BitVec.ofNat 64 u.arg)
  | [] =>
    match x.tokenUlis with
    | [] => x
    | k :: r =>
      let n := r.foldl (fun m e => if e.1 < m.1 then e else m) k
      ({ x with tokenUlis := x.tokenUlis.filter fun m => decide (m.1 ≠ n.1) } : Stream).uli
        (BitVec.ofNat 64 (2 ^ 63 + n.1)) (BitVec.ofNat 64 n.2)

/-- A pending ULI of a tile context enters its handler at UVEC (R267, R359); a trap or ULI clears the reservation (R215). -/
def execUliEntry (s : State) : Out :=
    match s.subject with
    | .stream st =>
      let x := s.stream st
      if st.isTile && x.csr.uie && !x.csr.insvc && !x.csr.inuli && (x.stop = .running || x.stop = .wfi)
          && !(x.ulis.isEmpty && x.tokenUlis.isEmpty) then
        .next ((s.clearReservations st (BitVec.allOnes 32)).setStream st x.takeUli)
      else .next s
    | _ => .next s

/-- A debug halt stops a stream at a bundle boundary (R360); while it is stopped otherwise the request waits. -/
def execDebugHalt (s : State) : Out :=
    match s.subject with
    | .stream st =>
      .next (s.modStream st fun x =>
        match x.stop with
        | .running | .wfi => { x with stop := .debug, debugReq := false, thr := { x.thr with wfi := 0 } }
        | .halted | .debug => x
        | _ => { x with debugReq := true })
    | _ => .next s

/-- A debug halt ends, and the stream presents its bundle again (R48). -/
def execDebugResume (s : State) : Out :=
    match s.subject with
    | .stream st => .next (s.modStream st fun x => if x.stop = .debug then { x with stop := .running } else { x with debugReq := false })
    | _ => .next s

/-- The sources that may enter a supervisor core: pending and enabled (R456). -/
def State.sources (s : State) (n : Nat) : List Nat :=
  [1, 2, 3, 4, 5, 6, 7].filter fun c => bit (s.ctl (0x3000 + 8 * n)) c && bit (s.ctl (0xE00 + 8 * c)) 8

/-- A pending enabled source enters its supervisor core (R350, R456): the lowest code first, with a TVAL that the
manual does not give (log entry 21). -/
def execSupervisorInterrupt (s : State) : Out :=
    match s.subject with
    | .num n =>
      let st : StreamId := .super n
      let x := s.stream st
      match s.sources n with
      | c :: _ =>
        if x.csr.insvc || x.stop = .debug then .next s
        else .next ((s.service st (BitVec.ofNat 8 c) (BitVec.ofNat 64 (s.pick 0)) true 15 false 0 x.pc).picked)
      | [] => .next s
    | _ => .next s

/-! ## Errors (R349) -/

/-- The state after an uncorrectable error in what a stream reads (R349): it ends the stream's core-task or group, which its rerun
policy may run again; on a supervisor core it is a service trap (R346). -/
def State.eccError (s : State) (st : StreamId) (kind : Nat) (place : Nat) : State :=
  let tval := BitVec.ofNat 64 (kind % 16 * 2 ^ 60 + place % 2 ^ 60)
  let s := s.note .ecc st.die 0 15 (s.stream st).csr.asid tval 0
  if st.isSuper then s.service st cECC tval false 15 false 0 (s.stream st).pc
  else if (s.stream st).stop = .halted then s
  else s.endTask st cECC tval true

/-- The state after an engine meets an uncorrectable error in the typed-buffer data that the command at the head of a queue reads: it ends with
ERROR #ECC and the place (R269, R461; log entry 22). -/
def State.engineError (s : State) (st : StreamId) (q place : Nat) : State :=
  match (s.stream st).commands q with
  | c :: _ => if c.started && c.moved.isNone && c.fail.isNone then s.failCommand st q c cECC (BitVec.ofNat 64 place) else s
  | [] => s

/-- An uncorrectable error in state that a stream reads, by structure code and place (R349); in a page that the sequencer reads for a
sash (R304, R315); in what an engine reads for a queue of a stream: queue + 16 × place. -/
def execUncorrectableError (s : State) : Out :=
    match s.subject with
    | .error st kind place => .next (s.eccError st kind.toNat place.toNat)
    | .sash key => .next (s.pageError key)
    | .streamNum st n => .next (s.engineError st (n % 16) (n / 16))
    | _ => .next s

/-- Whether a context with a preemption request presents an eligible SB bundle (R366, R372), be it that its save waits for the array or for
room. -/
def State.presentsSave (s : State) (st : StreamId) : Bool :=
  let x := s.stream st
  x.preempt.isSome && x.stop = .running && !x.frozen && !x.inHandler && x.idle = 0 && (s.present st 0 x.pc).s.hdr.sb

/-- A further budget runs out and no eligible SB bundle is presented, or groups are still resident: they are ended, and the launch fails with
BUDGET (R372). -/
def execBudgetFinalExpiry (s : State) : Out :=
    match s.subject with
    | .stream st =>
      match (s.stream st).job.bind s.launchOf with
      | some l =>
        if st.isTile && (s.stream st).stop ≠ .halted && (s.stream st).stop ≠ .saved && overBudget l.copy (s.spent st) 2
            && !s.presentsSave st then
          .next (s.endTask st cBUDGET 0 false)
        else .next s
      | none => .next s
    | .num2 q n =>
      match s.launch q n with
      | some l => .next (if overBudget l.copy (s.groupsSpent l) 2 then s.endGroups q n l else s)
      | none => .next s
    | _ => .next s

end Sys2Proof.Machine
end

