-- ==== Sys2Proof/Machine/Clock.lean ====
section
/-! DEFINITION. A tile clock: what happens by itself when nothing of the clock before is left (log entries 4 and 5): time passes, and the
events whose conditions hold are listed for the steps that follow (R6 to R12, R25, R49, R256, R379, R395, R430 to R442, R456, R463). -/

namespace Sys2Proof.Machine

/-- A list, if a condition holds. -/
def listIf {α : Type} (b : Bool) (l : List α) : List α := if b then l else []

/-! ## Time -/

/-- Whether a core's clocks stand still: its cluster is in retention (R381). -/
def State.asleep (s : State) (c : CoreId) : Bool :=
  match c with | .super _ => false | c => s.mm.retained.contains (clusterOf c)

/-- Whether a tile core holds a context. -/
def State.tileInUse (s : State) (c : Nat) : Bool :=
  s.streams.any fun e => match e.1 with | .tile k _ => decide (k = c) | _ => false

/-- The tile cores after a tile clock: CYCLE counts, in retention too, so that reservations age (R41, R381); a core without contexts draws
nothing. -/
def State.tickTiles (s : State) : State :=
  { s with tiles := s.tiles.map fun e =>
      let k := { e.2.com with cycle := e.2.com.cycle + 1 }
      (e.1, { e.2 with com := if s.tileInUse e.1 && !s.asleep (.tile e.1) then k else k.drew 0, workedAt := e.2.worked }) }

/-- A stream that waits in `wfi`, or a supervisor core that has halted, goes on once what ends the wait is present (R149, R150). -/
def State.wakeStream (s : State) (st : StreamId) (x : Stream) : Stream :=
  let up := match st with | .super n => s.edge.boot = .done && x.stop = .halted && !(s.sources n).isEmpty | _ => false
  if s.wakes st || up then
    { x with stop := if x.stop = .wfi || up then .running else x.stop, thr := { x.thr with wfi := 0 } }
  else x

/-- The state after the Kwaol ports send, and the part uses what they hold, one flit of a channel if a free choice says so (R458, R459). -/
def State.tickLinks (s : State) : State :=
  if s.edge.links.isEmpty then s
  else
    State.picked ((s.edge.links.map (·.1)).foldl (fun (s : State) (p : Nat) =>
      if (s.link p).down then s
      else (List.range 4).foldl (fun (s : State) (v : Nat) => if s.pickBit (4 * p + v) then s.linkUse p v else s) (s.linkSend p)) s)

/-- The state after the recorder's next entry, if a port's console has not sent it, goes out as 32 bytes on console port 1 (R450, R464): one in a
clock, and those that the recorder holds no longer are passed over (log entry 55). -/
def State.streamRecorder (s : State) (d : Bool) : State :=
  let n := s.edge.recCount
  let p := s.port d
  if !s.open_ d || p.streamed = n then s
  else
    let k := if 4096 < (n - p.streamed).toNat then n - 4096 else p.streamed
    let e := Table.get ⟨0, 0, 0, 0⟩ s.edge.recorder (k.toNat % 4096)
    s.modPort d fun p => { p with streamed := k + 1, console := [e.w0, e.w1, e.w2, e.w3].flatMap fun w => leBytes 8 w.toNat }

/-- The state after a tile clock has passed. -/
def State.tick (s : State) : State :=
  let now := s.ltime + 1
  let s := { s with ltime := now, wraps := if now = 0 then s.wraps + 1 else s.wraps }
  let s := s.modMem fun m => { m with lclock0 := m.lclock0 + 1, lclock1 := m.lclock1 + 1 }
  let s := ((s.tickTiles.tickLinks).streamRecorder false).streamRecorder true
  { s with streams := s.streams.map fun e => (e.1, s.wakeStream e.1 e.2),
           shaderPhase := (s.shaderPhase + 21) % 16, superPhase := (s.superPhase + 30) % 16 }

/-! ## Events of the memory system, the caches and the ports -/

/-- A dirty line of each cluster cache, written back once in 64 clocks, so that every write is seen in the end (R339, R378; log
entry 4). -/
def State.writebackRows (s : State) : List Item :=
  (List.range 32).filterMap fun k =>
    ((s.cluster k).find? fun l => decide (l.dirty ≠ 0)).map fun l => .row .clusterCacheWriteback (.num2 k l.line)

/-- Lines of L1s and of cluster caches whose lease has run out: their clean bytes go before the clock count returns to their stamp (R338,
R380). -/
def State.leaseRows (s : State) : List Item :=
  let of := fun (c : CoreId) (k : Common) =>
    (((k.l1.filter fun l => !s.inLease c.die l.stamp).map (·.pline)).eraseDups).map fun ln => Item.row .leaseExpiry (.lease (.l1 c) ln)
  (s.tiles.flatMap fun e => of (.tile e.1) e.2.com) ++ (s.shaders.flatMap fun e => of (.shader e.1) e.2.com)
    ++ s.mm.clusters.flatMap fun e =>
        (e.2.filter fun l => l.valid &&& ~~~l.dirty ≠ 0 && !s.inLease (e.1 / 16) l.stamp).map fun l =>
          .row .leaseExpiry (.lease (.cluster e.1) l.line)

/-- The clocks between two lines of the patrol scrub, which passes over LPDDR-6 in 24 hours (R461). -/
def scrubClocks : Nat := 21457

/-- Events that a count of clocks brings: leases that run out, the epochs' sweeps, the regulators' refills, the decay of the scores, the patrol
scrub (R381, R395, R436, R461). -/
def State.timeRows (s : State) : List Item :=
  s.leaseRows ++ listIf (s.clocks % scrubClocks = 0) [.row .patrolScrub (.num (s.clocks / scrubClocks % (6 * 2 ^ 30)))] ++ listIf (s.mm.lclock0 = 0) [.row .epochSweep (.die false)] ++ listIf (s.mm.lclock1 = 0) [.row .epochSweep (.die true)]
    ++ listIf (s.ltime.toNat % 1024 = 0) [.row .tokenBucketRefill .none] ++ (if s.ltime.toNat % 64 = 0 then s.writebackRows else [])
    ++ listIf (21 * s.clocks / 16 / 1024 ≠ 21 * (s.clocks - 1) / 16 / 1024 && !s.shaders.isEmpty) [.row .localityScoreDecay .none]

/-- Loads that return, and buffered stores that are passed on, one of each stream (R204, R208; log entry 4). -/
def State.memoryRows (s : State) : List Item :=
  s.streams.flatMap fun e =>
    listIf (!e.2.loads.isEmpty) [.row .loadDataReturn (.stream e.1)] ++ listIf (!e.2.wbuf.isEmpty) [.row .writeBufferDrain (.stream e.1)]

/-- Reservations of tile and other cores that are too old (R215). -/
def State.oldRows (s : State) : List Item :=
  let old := fun (k : Common) => k.reservations.any fun r => decide (r.made + 4096 < k.cycle.toNat)
  (s.tiles.filter fun e => old e.2.com).map (fun e => .row .reservationAgeExpiry (.core (.tile e.1)))
    ++ (s.shaders.filter fun e => old e.2.com).map (fun e => .row .reservationAgeExpiry (.core (.shader e.1)))
    ++ (s.supers.filter fun e => old e.2.com).map (fun e => .row .reservationAgeExpiry (.core (.super e.1)))

/-- Host ports and peers: appends and remote launches whose queue has room again, resets that go on (R289, R290, R454). -/
def State.portRows (s : State) : List Item :=
  [false, true].flatMap fun d =>
    let p := s.port d
    (match p.waiting with
      | (q, b, off) :: _ => listIf (!s.ringFull q) [.row .append (.append d q b off)]
      | [] => [])
      ++ (match p.subs with
        | (ctx, f, l) :: _ => [.row .append (.submit d ctx f l)]
        | [] => [])
      ++ listIf p.resetting [.row .portReset (.num2 (b2n d) 1)]

/-- Clusters in retention that have work again (R381). -/
def State.wakeRows (s : State) : List Item :=
  (s.mm.retained.filter fun k => s.streams.any fun e =>
    !e.1.isSuper && clusterOf e.1.core = k && (e.2.stop = .running || e.2.stop = .staged)).map fun k => .row .retentionWake (.num k)

/-- Remote launches that wait, taken up again. -/
def State.arrivalRows (s : State) : List Item := s.sched.arriving.map fun l => .row .remoteLaunchReceive (.remote l)

/-- Triggers that have fired and wait (R160). -/
def State.triggerRows (s : State) : List Item :=
  ((s.mm.delayed.map (·.1)).eraseDups).map fun n => .row .delayedTriggerAction (.num n)

/-! ## Events of contexts and engines -/

/-- Results and bases that land before a context presents its bundle, and a drain unit's commits (R8, R251, R308). -/
def State.landingRows (s : State) : List Item :=
  (s.streams.flatMap fun e =>
    listIf (e.2.bases.any e.2.mayLand && e.2.stop = .running && !e.2.inHandler && e.2.idle = 0 && !e.2.held && !e.2.frozen) [.row .baseLanding (.stream e.1)]
      ++ listIf (e.1.isTile && !(dueResults e.2.time e.2.pend).isEmpty) [.row .resultLanding (.stream e.1)])
    ++ (s.tiles.filter fun e => e.2.commits.any s.commitDue).map fun e => .row .drainCommit (.core (.tile e.1))

/-- Engine commands, sashes and tier objects whose time has come (R260, R304, R305, R414). -/
def State.commandRows (s : State) : List Item :=
  let now := s.clocks
  (s.streams.flatMap fun e => (e.2.dueQueues now).map fun q => .row .engineCommandComplete (.streamNum e.1 q))
    ++ (s.streams.filter fun e => !e.2.dirAns && (match e.2.dirAsk with | some t => s.reached t | none => false)).map
        (fun e => .row .sashDirectoryAnswer (.stream e.1))
    ++ (s.sched.sashes.flatMap fun e =>
        listIf (e.2.st = .evicting && e.2.own && !e.2.wrote && decide (e.2.due ≤ now)) [.row .sashWritebackAck (.sash e.1)]
          ++ listIf (e.2.st = .restoring && e.2.own && !e.2.creating && decide (e.2.due ≤ now)) [.row .sashRestoreComplete (.sash e.1)])
    ++ (s.mm.tier.filter fun r => r.active && decide (r.due ≤ now)).map (fun r => .row .tmoveCopyComplete (.num r.obj))
    ++ listIf (0 < s.ctl 0x908 && s.pickBit 1024)
        [.row .tmoveCopyComplete (.numWord (s.pick 1025 % (s.ctl 0x908).toNat) (BitVec.ofNat 64 (s.pick 1026)))]

/-- Gangs whose release time has come (R437): they present their first bundle in this clock. -/
def State.releaseRows (s : State) : List Item :=
  s.sched.launches.flatMap fun l =>
    (l.placed.filter fun p => match p.release with | some t => s.reached t | none => false).map fun p =>
      .row .gangRelease (.unit ⟨l.queue, l.record.toNat, p.unit⟩)

/-- The tile cores at work: first the casements whose cores may issue a cooperative `mma`, then each core's merge stage (R10, R241). -/
def State.tileRows (s : State) : List Item :=
  let cs := (s.streams.filterMap fun e => match e.1 with | .tile c _ => some c | _ => none).eraseDups
  let up := cs.filter fun c => !s.asleep (.tile c)
  ((up.filter fun c => (s.queueOwner c).isSome).map (· / 4)).eraseDups.map (fun k => .row .cooperativeMmaIssue (.num k))
    ++ up.map (fun c => .row .mergeStage (.core (.tile c)))

/-- At the end of a tile clock, flags and queue entries arrive (R25, R28). -/
def State.endRows (s : State) : List Item :=
  (s.tiles.filter fun e => !e.2.flagSets.isEmpty).map (fun e => .row .flagSetArrival (.core (.tile e.1)))
    ++ (s.tiles.filter fun e => (List.range 3).any fun o => !(File.get e.2.outq (BitVec.ofNat 2 o)).isEmpty).map
        (fun e => .row .queueEntryArrival (.core (.tile e.1)))

/-! ## Events of the sequencers -/

/-- The queues that hold slots. -/
def State.mappedQueues (s : State) : List Nat := s.sched.slots.map fun e => e.2.queue

/-- Records that are cancelled at DISP, queues that get slots or give them up, records that begin (R430 to R434). -/
def State.queueRows (s : State) : List Item :=
  ((s.sched.cancels.filter fun e => e.2.toNat = s.dispOf e.1).map fun e => .row .recordCancel (.num2 e.1 e.2.toNat))
    ++ listIf (!s.waitingQueues.isEmpty && s.freeSlot.isSome) [.row .queueMap .none]
    ++ ((List.range 8).filter fun c => s.reclaims c || s.sched.draining.any fun e => e.2 = c && s.drained e.1).map
        (fun c => .row .slotReclaim (.num c))
    ++ (s.mappedQueues.filter fun q => (s.mayBegin q && s.depends q) || s.unshown q).map fun q => .row .recordBegin (.num q)

/-- The task of a queue that is to run again from its record, if one is, and whether it is a group (R441). -/
def State.rerunNext (s : State) (q : Nat) : Option Bool :=
  ((s.requeuedOf q).find? fun e => match e.2 with | .saved _ => false | _ => true).map fun e => s.jobHas e.1 Rec.shader

/-- Core-tasks at the heads of queues that come back: saved ones, those to be run again (R369, R441). -/
def State.returnRows (s : State) : List Item :=
  s.mappedQueues.flatMap fun q =>
    ((s.requeuedOf q).filterMap fun e => match e.2 with | .saved a => some a | _ => none).map (fun a => .row .contextRestore (.num2 q a))
      ++ listIf (s.rerunNext q = some false) [.row .rerun (.num q)]

/-- Queues in their turn to place: highest effective priority, by the time since each last placed, then round-robin (R435). -/
def State.placeRank (s : State) (q : Nat) : Nat × Nat := (s.slotPrio q, after s.sched.lastPlaced q)

/-- A queue put in its place among those that place. -/
def State.inTurn (s : State) (q : Nat) : List Nat → List Nat
  | [] => [q]
  | h :: t =>
    let a := s.placeRank q
    let b := s.placeRank h
    if b.1 < a.1 ∨ (a.1 = b.1 ∧ a.2 < b.2) then q :: h :: t else h :: s.inTurn q t

/-- What a queue may place now: a group that runs again (R441), its next group, or its next gang, which may instead be parked if a free
choice says so (R435, R437, R442). -/
def State.placing (s : State) (q : Nat) : List Item :=
  if s.rerunNext q = some true then [.row .rerun (.num q)]
  else match (s.dispatching q).filter s.mayPlace with
    | none => []
    | some l =>
      let x : Subject := .num2 q l.record.toNat
      if l.copy.kind = 2 then
        .row .gangLaunch x :: listIf (l.preloads && (s.seatGang l l.next).isNone && (s.parkCore l).isSome && s.pickBit q) [.row .preload x]
      else [.row .groupDispatch x]

/-- What the mapped queues may place, in their turn; of groups the first that finds room is placed in the clock (R435). -/
def State.dispatchRows (s : State) : List Item := (s.mappedQueues.foldr s.inTurn []).flatMap s.placing

/-- Dies that are not ready for a gang, parked tasks whose core has a free context, and those with sashes to be brought (R437, R442). -/
def State.readyRows (s : State) : List Item :=
  (s.sched.launches.flatMap fun l => l.placed.flatMap fun p =>
    [false, true].flatMap fun d =>
      listIf (!(if d then p.ready1 else p.ready0) && !p.failed && !(s.stagedOn p (b2n d)).isEmpty)
        [.row .gangReadyReport (.unitDie ⟨l.queue, l.record.toNat, p.unit⟩ d)])
    ++ (s.sched.parked.filter fun p => (s.launchOf p.job).any fun l => !(s.ctxsFor l.copy p.core []).isEmpty).map
        (fun p => .row .parkedTaskStart (.num p.core))
    ++ (s.sched.parked.filter fun p => (s.launchOf p.job).any fun l =>
        (l.copy.sashList.filter fun e => e.task = 0).any (s.stages l p.core)).map (fun p => .row .preload (.num p.core))

/-- Whether a unit of a launch has something to end (R438). -/
def State.unitOver (s : State) (l : Launch) (p : Placed) : Bool :=
  let mine := fun (j : Job) => j.queue = l.queue && j.record = l.record.toNat && j.unit = p.unit
  (p.members.any fun m => !p.ended.contains m.1 && s.taskOver m.2)
    || ((p.members.all fun m => p.ended.contains m.1) && !(s.sched.requeued.any fun e => mine e.1) && !(s.sched.parked.any fun e => mine e.job))

/-- Tasks that a cause has ended, saved contexts whose commands have ended, units and launches that end (R366, R438, R440, R441). -/
def State.overRows (s : State) : List Item :=
  ((s.sched.ending.filter fun e => (s.unitStreams e.1).all fun w => (s.stream w).settled).map fun e =>
    .row .rerun (.streamFlagWord e.1 e.2.1 (BitVec.ofNat 64 e.2.2)))
    ++ ((s.streams.filter fun e => e.2.stop = .saved && e.2.settled).map fun e => .row .preemptionSave (.stream e.1))
    ++ (s.sched.launches.flatMap fun l =>
        let n := l.record.toNat
        let mine := fun (j : Job) => j.queue = l.queue && j.record = n
        let done := (l.code.isSome || decide (l.units ≤ l.next)) && l.placed.isEmpty && !(s.sched.requeued.any fun e => mine e.1)
          && !(s.sched.parked.any fun p => mine p.job)
        listIf done [.row .groupEnd (.unit ⟨l.queue, n, 0⟩)]
          ++ (l.placed.filter fun p => l.copy.kind = 4 || s.unitOver l p).map fun p => .row .groupEnd (.unit ⟨l.queue, n, p.unit⟩))

/-- Budgets that have run out (R372), of tasks that wait to be released too (R320). -/
def State.budgetRows (s : State) : List Item :=
  (s.streams.flatMap fun e =>
    match e.2.job.bind s.launchOf with
    | some l =>
      let live := e.1.isTile && e.2.stop ≠ .halted && e.2.stop ≠ .saved
      listIf (live && e.2.preempt.isNone && overBudget l.copy (s.spent e.1) 1) [.row .budgetExpiry (.stream e.1)]
        ++ listIf (live && overBudget l.copy (s.spent e.1) 2 && !s.presentsSave e.1) [.row .budgetFinalExpiry (.stream e.1)]
    | none => [])
    ++ s.sched.launches.flatMap fun l =>
        let x : Subject := .num2 l.queue l.record.toNat
        listIf (l.copy.shader && !l.paused && overBudget l.copy (s.groupsSpent l) 1) [.row .budgetExpiry x]
          ++ listIf (l.copy.shader && l.code.isNone && overBudget l.copy (s.groupsSpent l) 2) [.row .budgetFinalExpiry x]

/-- The events of the sequencers. -/
def State.schedRows (s : State) : List Item :=
  s.queueRows ++ s.returnRows ++ s.dispatchRows ++ s.readyRows ++ s.overRows ++ s.budgetRows

/-! ## Shader and supervisor clocks -/

/-- The shader cores after a shader clock: CYCLE counts, in retention too (R41, R381), the current of the clock starts at 0 under the
limit and window that stand, the partition offered first moves on (R256, R257). -/
def State.tickShaders (s : State) : State :=
  { s with shaders := s.shaders.map fun e =>
      (e.1, { e.2 with com := ({ e.2.com with cycle := e.2.com.cycle + 1 } : Common).drew 0, first := (e.2.first + 1) % 4,
                       lim := e.2.com.curlim, len := e.2.com.curwin }) }

/-- The shader cores' partitions, each core's in its order. -/
def State.shaderRows (s : State) : List Item :=
  let cs := (s.streams.filterMap fun e => match e.1 with | .wave c _ => some c | _ => none).eraseDups
  (s.streams.filter fun e => e.1.isWave && e.2.debugReq && e.2.stop = .running).map (fun e => .row .debugHalt (.stream e.1))
    ++ (cs.filter fun c => !s.asleep (.shader c)).flatMap fun c =>
        (List.range 4).map fun k => .row .shaderPartitionSelect (.num2 c (((s.shader c).first + k) % 4))

/-- The supervisor cores after a supervisor clock. -/
def State.tickSupers (s : State) : State :=
  { s with supers := s.supers.map fun e => (e.1, { com := ({ e.2.com with cycle := e.2.com.cycle + 1 } : Common).drew 0 }) }

/-- The supervisor cores: the timer, an interrupt or a debug halt at the boundary, a bundle (R456). -/
def State.superRows (s : State) : List Item :=
  s.streams.flatMap fun e =>
    match e.1 with
    | .super n =>
      let timer := decide ((s.ctl (0x3100 + 8 * n)).toNat ≤ (s.super n).com.cycle.toNat)
      listIf timer [.row .timerCompare (.num n)]
        ++ (if e.2.debugReq && (e.2.stop = .running || e.2.stop = .wfi) then [.row .debugHalt (.stream e.1)]
            else if s.edge.boot = .done && !(s.sources n).isEmpty && !e.2.csr.insvc && e.2.stop ≠ .debug then
              [.row .supervisorInterrupt (.num n)]
            else listIf (e.2.stop = .running && !e.2.blocked && e.2.miss.isNone && e.2.returns.isEmpty) [.issue e.1 none none])
    | _ => []

/-- The state after a clock of the shader cores or of the supervisor cores begins: its events come next. -/
def State.coreClock (s : State) (shader : Bool) : State :=
  if shader then let s := s.tickShaders; s.next s.shaderRows
  else let s := s.tickSupers; s.next s.superRows

/-! ## The tile clock -/

/-- The state after a tile clock begins: time has passed, and what happens in the clock is listed. -/
def State.clockEdge (s : State) : State :=
  let n := (s.shaderPhase + 21) / 16
  let m := (s.superPhase + 30) / 16
  let s := s.tick
  let waiting := s.arrivalRows
  let s := s.modSched fun d => { d with arriving := [] }
  s.next (s.timeRows ++ s.wakeRows ++ s.memoryRows ++ s.landingRows ++ s.commandRows ++ s.releaseRows ++ s.tileRows
    ++ List.replicate n (.clock true) ++ List.replicate m (.clock false)
    ++ s.oldRows ++ s.portRows ++ waiting ++ s.triggerRows ++ s.schedRows ++ s.endRows)

end Sys2Proof.Machine
end

