-- ==== Sys2Proof/Machine/Dispatch.lean ====
section
/-! DEFINITION. The dispatch: one arm for each constructor of `Instr`. -/

namespace Sys2Proof.Machine

def exec (i : Instr) (s : State) : Host.Outcome State Fault Refusal :=
  match i with
  | .nop => Sys2Proof.Machine.execNop s
  | .add o => Sys2Proof.Machine.execAdd o s
  | .sub o => Sys2Proof.Machine.execSub o s
  | .mul o => Sys2Proof.Machine.execMul o s
  | .mulh o => Sys2Proof.Machine.execMulh o s
  | .mulhn o => Sys2Proof.Machine.execMulhn o s
  | .div o => Sys2Proof.Machine.execDiv o s
  | .divn o => Sys2Proof.Machine.execDivn o s
  | .rem o => Sys2Proof.Machine.execRem o s
  | .remn o => Sys2Proof.Machine.execRemn o s
  | .and o => Sys2Proof.Machine.execAnd o s
  | .or o => Sys2Proof.Machine.execOr o s
  | .xor o => Sys2Proof.Machine.execXor o s
  | .andn o => Sys2Proof.Machine.execAndn o s
  | .shl o => Sys2Proof.Machine.execShl o s
  | .shr o => Sys2Proof.Machine.execShr o s
  | .sar o => Sys2Proof.Machine.execSar o s
  | .rol o => Sys2Proof.Machine.execRol o s
  | .min o => Sys2Proof.Machine.execMin o s
  | .minn o => Sys2Proof.Machine.execMinn o s
  | .max o => Sys2Proof.Machine.execMax o s
  | .maxn o => Sys2Proof.Machine.execMaxn o s
  | .clz o => Sys2Proof.Machine.execClz o s
  | .ctz o => Sys2Proof.Machine.execCtz o s
  | .popc o => Sys2Proof.Machine.execPopc o s
  | .sext o => Sys2Proof.Machine.execSext o s
  | .zext o => Sys2Proof.Machine.execZext o s
  | .bfx o => Sys2Proof.Machine.execBfx o s
  | .bfi o => Sys2Proof.Machine.execBfi o s
  | .sel o => Sys2Proof.Machine.execSel o s
  | .li o => Sys2Proof.Machine.execLi o s
  | .lih o => Sys2Proof.Machine.execLih o s
  | .cmp o => Sys2Proof.Machine.execCmp o s
  | .plog o => Sys2Proof.Machine.execPlog o s
  | .pmov o => Sys2Proof.Machine.execPmov o s
  | .pmovHToS o => Sys2Proof.Machine.execPmovHToS o s
  | .pmovHFromS o => Sys2Proof.Machine.execPmovHFromS o s
  | .pmovB o => Sys2Proof.Machine.execPmovB o s
  | .fadd o => Sys2Proof.Machine.execFadd o s
  | .fsub o => Sys2Proof.Machine.execFsub o s
  | .fmul o => Sys2Proof.Machine.execFmul o s
  | .fdiv o => Sys2Proof.Machine.execFdiv o s
  | .fsqrt o => Sys2Proof.Machine.execFsqrt o s
  | .ffma o => Sys2Proof.Machine.execFfma o s
  | .fcmp o => Sys2Proof.Machine.execFcmp o s
  | .fcvt o => Sys2Proof.Machine.execFcvt o s
  | .fminmax o => Sys2Proof.Machine.execFminmax o s
  | .bru o => Sys2Proof.Machine.execBru o s
  | .jmp o => Sys2Proof.Machine.execJmp o s
  | .call o => Sys2Proof.Machine.execCall o s
  | .ret o => Sys2Proof.Machine.execRet o s
  | .loop o => Sys2Proof.Machine.execLoop o s
  | .brk o => Sys2Proof.Machine.execBrk o s
  | .brl o => Sys2Proof.Machine.execBrl o s
  | .jmpl o => Sys2Proof.Machine.execJmpl o s
  | .calll o => Sys2Proof.Machine.execCalll o s
  | .retl o => Sys2Proof.Machine.execRetl o s
  | .join o => Sys2Proof.Machine.execJoin o s
  | .yieldp o => Sys2Proof.Machine.execYieldp o s
  | .csrr o => Sys2Proof.Machine.execCsrr o s
  | .csrw o => Sys2Proof.Machine.execCsrw o s
  | .csrs o => Sys2Proof.Machine.execCsrs o s
  | .csrc o => Sys2Proof.Machine.execCsrc o s
  | .sysc o => Sys2Proof.Machine.execSysc o s
  | .trap o => Sys2Proof.Machine.execTrap o s
  | .eret o => Sys2Proof.Machine.execEret o s
  | .uret o => Sys2Proof.Machine.execUret o s
  | .wfi o => Sys2Proof.Machine.execWfi o s
  | .halt o => Sys2Proof.Machine.execHalt o s
  | .brkpt o => Sys2Proof.Machine.execBrkpt o s
  | .tlbi o => Sys2Proof.Machine.execTlbi o s
  | .cmaint o => Sys2Proof.Machine.execCmaint o s
  | .mts o => Sys2Proof.Machine.execMts o s
  | .mfs o => Sys2Proof.Machine.execMfs o s
  | .mtq o => Sys2Proof.Machine.execMtq o s
  | .evadd o => Sys2Proof.Machine.execEvadd o s
  | .evld o => Sys2Proof.Machine.execEvld o s
  | .evarm o => Sys2Proof.Machine.execEvarm o s
  | .evwait o => Sys2Proof.Machine.execEvwait o s
  | .lea o => Sys2Proof.Machine.execLea o s
  | .addpc o => Sys2Proof.Machine.execAddpc o s
  | .wid o => Sys2Proof.Machine.execWid o s
  | .vnop => Sys2Proof.Machine.execVnop s
  | .vadd o => Sys2Proof.Machine.execVadd o s
  | .vsub o => Sys2Proof.Machine.execVsub o s
  | .vmul o => Sys2Proof.Machine.execVmul o s
  | .vmulh o => Sys2Proof.Machine.execVmulh o s
  | .vmad o => Sys2Proof.Machine.execVmad o s
  | .vabs o => Sys2Proof.Machine.execVabs o s
  | .vneg o => Sys2Proof.Machine.execVneg o s
  | .vmin o => Sys2Proof.Machine.execVmin o s
  | .vmax o => Sys2Proof.Machine.execVmax o s
  | .vadds o => Sys2Proof.Machine.execVadds o s
  | .vsubs o => Sys2Proof.Machine.execVsubs o s
  | .vavg o => Sys2Proof.Machine.execVavg o s
  | .vsad o => Sys2Proof.Machine.execVsad o s
  | .vand o => Sys2Proof.Machine.execVand o s
  | .vor o => Sys2Proof.Machine.execVor o s
  | .vxor o => Sys2Proof.Machine.execVxor o s
  | .vandn o => Sys2Proof.Machine.execVandn o s
  | .vshl o => Sys2Proof.Machine.execVshl o s
  | .vshr o => Sys2Proof.Machine.execVshr o s
  | .vsar o => Sys2Proof.Machine.execVsar o s
  | .vclz o => Sys2Proof.Machine.execVclz o s
  | .vpopc o => Sys2Proof.Machine.execVpopc o s
  | .vbfx o => Sys2Proof.Machine.execVbfx o s
  | .vbfi o => Sys2Proof.Machine.execVbfi o s
  | .vbsel o => Sys2Proof.Machine.execVbsel o s
  | .vfadd o => Sys2Proof.Machine.execVfadd o s
  | .vfsub o => Sys2Proof.Machine.execVfsub o s
  | .vfmul o => Sys2Proof.Machine.execVfmul o s
  | .vffma o => Sys2Proof.Machine.execVffma o s
  | .vfmin o => Sys2Proof.Machine.execVfmin o s
  | .vfmax o => Sys2Proof.Machine.execVfmax o s
  | .vrcp o => Sys2Proof.Machine.execVrcp o s
  | .vrsq o => Sys2Proof.Machine.execVrsq o s
  | .vsqrt o => Sys2Proof.Machine.execVsqrt o s
  | .vexp2 o => Sys2Proof.Machine.execVexp2 o s
  | .vlog2 o => Sys2Proof.Machine.execVlog2 o s
  | .vsin o => Sys2Proof.Machine.execVsin o s
  | .vcos o => Sys2Proof.Machine.execVcos o s
  | .vtanh o => Sys2Proof.Machine.execVtanh o s
  | .vcvt o => Sys2Proof.Machine.execVcvt o s
  | .vquant o => Sys2Proof.Machine.execVquant o s
  | .vdeq o => Sys2Proof.Machine.execVdeq o s
  | .vcmp o => Sys2Proof.Machine.execVcmp o s
  | .vsel o => Sys2Proof.Machine.execVsel o s
  | .vplog o => Sys2Proof.Machine.execVplog o s
  | .vpcnt o => Sys2Proof.Machine.execVpcnt o s
  | .vpfirst o => Sys2Proof.Machine.execVpfirst o s
  | .vpany o => Sys2Proof.Machine.execVpany o s
  | .vtbl o => Sys2Proof.Machine.execVtbl o s
  | .vperm o => Sys2Proof.Machine.execVperm o s
  | .vslide o => Sys2Proof.Machine.execVslide o s
  | .vshfl o => Sys2Proof.Machine.execVshfl o s
  | .vbcast o => Sys2Proof.Machine.execVbcast o s
  | .vext o => Sys2Proof.Machine.execVext o s
  | .vins o => Sys2Proof.Machine.execVins o s
  | .vzip o => Sys2Proof.Machine.execVzip o s
  | .vunzip o => Sys2Proof.Machine.execVunzip o s
  | .vredadd o => Sys2Proof.Machine.execVredadd o s
  | .vredmin o => Sys2Proof.Machine.execVredmin o s
  | .vredmax o => Sys2Proof.Machine.execVredmax o s
  | .vredlog o => Sys2Proof.Machine.execVredlog o s
  | .vscan o => Sys2Proof.Machine.execVscan o s
  | .vfredadd o => Sys2Proof.Machine.execVfredadd o s
  | .vmov o => Sys2Proof.Machine.execVmov o s
  | .vmovS o => Sys2Proof.Machine.execVmovS o s
  | .vli o => Sys2Proof.Machine.execVli o s
  | .vlane o => Sys2Proof.Machine.execVlane o s
  | .lnop => Sys2Proof.Machine.execLnop s
  | .ld o => Sys2Proof.Machine.execLd o s
  | .vld o => Sys2Proof.Machine.execVld o s
  | .vlds o => Sys2Proof.Machine.execVlds o s
  | .vldg o => Sys2Proof.Machine.execVldg o s
  | .tld o => Sys2Proof.Machine.execTld o s
  | .gld o => Sys2Proof.Machine.execGld o s
  | .ldx o => Sys2Proof.Machine.execLdx o s
  | .lpf o => Sys2Proof.Machine.execLpf o s
  | .amadd o => Sys2Proof.Machine.execAmadd o s
  | .ammin o => Sys2Proof.Machine.execAmmin o s
  | .ammax o => Sys2Proof.Machine.execAmmax o s
  | .amand o => Sys2Proof.Machine.execAmand o s
  | .amor o => Sys2Proof.Machine.execAmor o s
  | .amxor o => Sys2Proof.Machine.execAmxor o s
  | .amswp o => Sys2Proof.Machine.execAmswp o s
  | .amcas o => Sys2Proof.Machine.execAmcas o s
  | .amfadd o => Sys2Proof.Machine.execAmfadd o s
  | .aminc o => Sys2Proof.Machine.execAminc o s
  | .wnop => Sys2Proof.Machine.execWnop s
  | .st o => Sys2Proof.Machine.execSt o s
  | .vst o => Sys2Proof.Machine.execVst o s
  | .vsts o => Sys2Proof.Machine.execVsts o s
  | .vsct o => Sys2Proof.Machine.execVsct o s
  | .tst o => Sys2Proof.Machine.execTst o s
  | .gst o => Sys2Proof.Machine.execGst o s
  | .stx o => Sys2Proof.Machine.execStx o s
  | .cadd o => Sys2Proof.Machine.execCadd o s
  | .cwb o => Sys2Proof.Machine.execCwb o s
  | .mnop => Sys2Proof.Machine.execMnop s
  | .mma o => Sys2Proof.Machine.execMma o s
  | .mmas o => Sys2Proof.Machine.execMmas o s
  | .mzero o => Sys2Proof.Machine.execMzero o s
  | .mdrain o => Sys2Proof.Machine.execMdrain o s
  | .mlaccSave o => Sys2Proof.Machine.execMlaccSave o s
  | .mlaccLoad o => Sys2Proof.Machine.execMlaccLoad o s
  | .wvmac o => Sys2Proof.Machine.execWvmac o s
  | .cnop => Sys2Proof.Machine.execCnop s
  | .copy o => Sys2Proof.Machine.execCopy o s
  | .gath o => Sys2Proof.Machine.execGath o s
  | .scat o => Sys2Proof.Machine.execScat o s
  | .qbcast o => Sys2Proof.Machine.execQbcast o s
  | .pfb o => Sys2Proof.Machine.execPfb o s
  | .drop o => Sys2Proof.Machine.execDrop o s
  | .coll o => Sys2Proof.Machine.execColl o s
  | .xsort o => Sys2Proof.Machine.execXsort o s
  | .tmoveMove o => Sys2Proof.Machine.execTmoveMove o s
  | .tmoveEvict o => Sys2Proof.Machine.execTmoveEvict o s
  | .tqpush o => Sys2Proof.Machine.execTqpush o s
  | .rlaunch o => Sys2Proof.Machine.execRlaunch o s
  | .rtrace o => Sys2Proof.Machine.execRtrace o s
  | .qfence o => Sys2Proof.Machine.execQfence o s
  | .sopen o => Sys2Proof.Machine.execSopen o s
  | .sopenEvicted o => Sys2Proof.Machine.execSopenEvicted o s
  | .satt o => Sys2Proof.Machine.execSatt o s
  | .srel o => Sys2Proof.Machine.execSrel o s
  | .sevict o => Sys2Proof.Machine.execSevict o s
  | .sdrop o => Sys2Proof.Machine.execSdrop o s
  | .ynop => Sys2Proof.Machine.execYnop s
  | .bar o => Sys2Proof.Machine.execBar o s
  | .barphArrive o => Sys2Proof.Machine.execBarphArrive o s
  | .barphWait o => Sys2Proof.Machine.execBarphWait o s
  | .fence o => Sys2Proof.Machine.execFence o s
  | .tkwait o => Sys2Proof.Machine.execTkwait o s
  | .tktest o => Sys2Proof.Machine.execTktest o s
  | .flagw o => Sys2Proof.Machine.execFlagw o s
  | .flagset o => Sys2Proof.Machine.execFlagset o s
  | .ulien o => Sys2Proof.Machine.execUlien o s
  | .mergeStage => Sys2Proof.Machine.execMergeStage s
  | .idleCountExpiry => Sys2Proof.Machine.execIdleCountExpiry s
  | .shaderPartitionSelect => Sys2Proof.Machine.execShaderPartitionSelect s
  | .pathWaitLimit => Sys2Proof.Machine.execPathWaitLimit s
  | .resultLanding => Sys2Proof.Machine.execResultLanding s
  | .shutterDelivery => Sys2Proof.Machine.execShutterDelivery s
  | .queueEntryArrival => Sys2Proof.Machine.execQueueEntryArrival s
  | .flagSetArrival => Sys2Proof.Machine.execFlagSetArrival s
  | .loadDataReturn => Sys2Proof.Machine.execLoadDataReturn s
  | .memoryValueReturn => Sys2Proof.Machine.execMemoryValueReturn s
  | .writeBufferDrain => Sys2Proof.Machine.execWriteBufferDrain s
  | .emptyBundle => Sys2Proof.Machine.execEmptyBundle s
  | .tlbiCompletion => Sys2Proof.Machine.execTlbiCompletion s
  | .cmaintCompletion => Sys2Proof.Machine.execCmaintCompletion s
  | .delayedTriggerAction => Sys2Proof.Machine.execDelayedTriggerAction s
  | .cooperativeMmaIssue => Sys2Proof.Machine.execCooperativeMmaIssue s
  | .arrayOccupancyEnd => Sys2Proof.Machine.execArrayOccupancyEnd s
  | .drainCommit => Sys2Proof.Machine.execDrainCommit s
  | .engineCommandStart => Sys2Proof.Machine.execEngineCommandStart s
  | .engineCommandComplete => Sys2Proof.Machine.execEngineCommandComplete s
  | .collectiveMatch => Sys2Proof.Machine.execCollectiveMatch s
  | .rlaunchRemoteEnd => Sys2Proof.Machine.execRlaunchRemoteEnd s
  | .remoteLaunchReceive => Sys2Proof.Machine.execRemoteLaunchReceive s
  | .baseLanding => Sys2Proof.Machine.execBaseLanding s
  | .sashDirectoryAnswer => Sys2Proof.Machine.execSashDirectoryAnswer s
  | .sattAttach => Sys2Proof.Machine.execSattAttach s
  | .srelComplete => Sys2Proof.Machine.execSrelComplete s
  | .sashWritebackAck => Sys2Proof.Machine.execSashWritebackAck s
  | .sashRestoreComplete => Sys2Proof.Machine.execSashRestoreComplete s
  | .evictionWritebackFault => Sys2Proof.Machine.execEvictionWritebackFault s
  | .reservationKill => Sys2Proof.Machine.execReservationKill s
  | .reservationAgeExpiry => Sys2Proof.Machine.execReservationAgeExpiry s
  | .modeWrite => Sys2Proof.Machine.execModeWrite s
  | .fstatWrite => Sys2Proof.Machine.execFstatWrite s
  | .faircfgWrite => Sys2Proof.Machine.execFaircfgWrite s
  | .lstkWrite => Sys2Proof.Machine.execLstkWrite s
  | .curlimWrite => Sys2Proof.Machine.execCurlimWrite s
  | .curwinWrite => Sys2Proof.Machine.execCurwinWrite s
  | .causeWrite => Sys2Proof.Machine.execCauseWrite s
  | .svecWrite => Sys2Proof.Machine.execSvecWrite s
  | .uvecWrite => Sys2Proof.Machine.execUvecWrite s
  | .ptbaseWrite => Sys2Proof.Machine.execPtbaseWrite s
  | .registerWrite => Sys2Proof.Machine.execRegisterWrite s
  | .faultRecordPost => Sys2Proof.Machine.execFaultRecordPost s
  | .resumePortWrite => Sys2Proof.Machine.execResumePortWrite s
  | .faultRingTailWrite => Sys2Proof.Machine.execFaultRingTailWrite s
  | .uncorrectableError => Sys2Proof.Machine.execUncorrectableError s
  | .uliEntry => Sys2Proof.Machine.execUliEntry s
  | .debugHalt => Sys2Proof.Machine.execDebugHalt s
  | .preemptionRequest => Sys2Proof.Machine.execPreemptionRequest s
  | .preemptionSave => Sys2Proof.Machine.execPreemptionSave s
  | .contextRestore => Sys2Proof.Machine.execContextRestore s
  | .budgetExpiry => Sys2Proof.Machine.execBudgetExpiry s
  | .budgetFinalExpiry => Sys2Proof.Machine.execBudgetFinalExpiry s
  | .clusterCacheWriteback => Sys2Proof.Machine.execClusterCacheWriteback s
  | .leaseExpiry => Sys2Proof.Machine.execLeaseExpiry s
  | .epochSweep => Sys2Proof.Machine.execEpochSweep s
  | .retentionEntry => Sys2Proof.Machine.execRetentionEntry s
  | .retentionWake => Sys2Proof.Machine.execRetentionWake s
  | .partialJoinOnArrival => Sys2Proof.Machine.execPartialJoinOnArrival s
  | .rangeTableWrite => Sys2Proof.Machine.execRangeTableWrite s
  | .directoryReadRequest => Sys2Proof.Machine.execDirectoryReadRequest s
  | .directoryOwnershipRequest => Sys2Proof.Machine.execDirectoryOwnershipRequest s
  | .evictionNotice => Sys2Proof.Machine.execEvictionNotice s
  | .forward => Sys2Proof.Machine.execForward s
  | .invalidation => Sys2Proof.Machine.execInvalidation s
  | .invalidationAck => Sys2Proof.Machine.execInvalidationAck s
  | .ownershipGrant => Sys2Proof.Machine.execOwnershipGrant s
  | .writeUpdatePush => Sys2Proof.Machine.execWriteUpdatePush s
  | .tokenBucketRefill => Sys2Proof.Machine.execTokenBucketRefill s
  | .tableWalk => Sys2Proof.Machine.execTableWalk s
  | .tableWalkComplete => Sys2Proof.Machine.execTableWalkComplete s
  | .tmoveCopyComplete => Sys2Proof.Machine.execTmoveCopyComplete s
  | .doorbell => Sys2Proof.Machine.execDoorbell s
  | .recordBegin => Sys2Proof.Machine.execRecordBegin s
  | .queueMap => Sys2Proof.Machine.execQueueMap s
  | .slotReclaim => Sys2Proof.Machine.execSlotReclaim s
  | .recordCancel => Sys2Proof.Machine.execRecordCancel s
  | .groupDispatch => Sys2Proof.Machine.execGroupDispatch s
  | .localityScoreDecay => Sys2Proof.Machine.execLocalityScoreDecay s
  | .gangLaunch => Sys2Proof.Machine.execGangLaunch s
  | .gangReadyReport => Sys2Proof.Machine.execGangReadyReport s
  | .gangRelease => Sys2Proof.Machine.execGangRelease s
  | .groupEnd => Sys2Proof.Machine.execGroupEnd s
  | .rerun => Sys2Proof.Machine.execRerun s
  | .preload => Sys2Proof.Machine.execPreload s
  | .parkedTaskStart => Sys2Proof.Machine.execParkedTaskStart s
  | .hostWrite => Sys2Proof.Machine.execHostWrite s
  | .hostBlobAccess => Sys2Proof.Machine.execHostBlobAccess s
  | .bind => Sys2Proof.Machine.execBind s
  | .append => Sys2Proof.Machine.execAppend s
  | .cancel => Sys2Proof.Machine.execCancel s
  | .hostCounterRead => Sys2Proof.Machine.execHostCounterRead s
  | .hostCounterWrite => Sys2Proof.Machine.execHostCounterWrite s
  | .counterRegionAccess => Sys2Proof.Machine.execCounterRegionAccess s
  | .portReset => Sys2Proof.Machine.execPortReset s
  | .supervisorInterrupt => Sys2Proof.Machine.execSupervisorInterrupt s
  | .timerCompare => Sys2Proof.Machine.execTimerCompare s
  | .ipi => Sys2Proof.Machine.execIpi s
  | .flitReceive => Sys2Proof.Machine.execFlitReceive s
  | .linkRetrain => Sys2Proof.Machine.execLinkRetrain s
  | .boot => Sys2Proof.Machine.execBoot s
  | .patrolScrub => Sys2Proof.Machine.execPatrolScrub s
  | .thermalLimit => Sys2Proof.Machine.execThermalLimit s
  | .thermalRecover => Sys2Proof.Machine.execThermalRecover s
  | .debugResume => Sys2Proof.Machine.execDebugResume s
  | .virtqueueNotification => Sys2Proof.Machine.execVirtqueueNotification s
  | .hostAttach => Sys2Proof.Machine.execHostAttach s

end Sys2Proof.Machine
end

