-- ==== Sys2Proof/Machine/Step.lean ====
section
/-! DEFINITION. One step of the machine: the first item of the agenda, or the next tile clock (log entry 4). -/

namespace Sys2Proof.Machine

/-- One step: a row of the opcode table, the issue of a bundle, a clock of the shader or supervisor cores; with nothing left of
a tile clock, the next one begins. A bundle of one operation runs that operation; one of several runs their plans together. -/
def step (s : State) : Host.Outcome State Fault Refusal :=
  match s.agenda with
  | [] => .next s.clockEdge
  | .row i x :: t => exec i { s with agenda := t, subject := x }
  | .clock c :: t => .next (State.coreClock { s with agenda := t } c)
  | .issue st a b :: t =>
    match State.enter { s with agenda := t } st a b with
    | (s, none) => .next s
    | (s, some i) => exec i s

/-- The state with the bundle of a numeral of the opcode table where the next step fetches: in the bank of context 0 of tile core 0
at its program counter, the context running, its issue next (log entry 3). -/
def State.withFetchWord (s : State) (nbits w : Nat) : State :=
  let st : StreamId := .tile 0 false
  let x := s.stream st
  let x := if x.stop = .running then x else Stream.launch
  let s := (s.setStream st x).modTile 0 fun t =>
    { t with banks := Table.put t.banks (t.bankOf false, x.pc.toNat) (Bundle.ofTable nbits w) }
  { s with agenda := [.issue st none none] }

end Sys2Proof.Machine
end

