-- ==== Sys2Proof/Safety.lean ====
section
/-! DEFINITION. What statements about the machine are said in: when a bundle of one operation issues, the state after it, what an
instruction leaves alone. -/

namespace Sys2Proof.Machine

/-! ## When a bundle of one operation issues (R118) -/

/-- The header is legal, what it pops is there, and the operation's encoding is one that the stream may issue in the slot: what R118
checks first. -/
def State.opens (s : State) (i : Instr) : Bool :=
  s.headerOk && ((popped s.hdr).all fun q => !(s.queue s.iss.st q).isEmpty) && s.encOk i s.iss.slot

/-- `opens`, and nothing holds the bundle: no queue that the operation reads is empty, none that it pushes to is full, no ray
traversal writes a V register that it names (R27, R295). -/
def State.admits (s : State) (i : Instr) : Bool := s.opens i && !s.queueHold i

/-- The state in which an operation has its effect: STATUS.LLOST is set if it reads a lost latch entry (R42). -/
def State.taken (s : State) (i : Instr) : State :=
  if s.readsLost i then s.fresh.modStream s.iss.st fun x => { x with csr := { x.csr with llost := true } } else s.fresh

/-- The state after a bundle of one operation issues with an effect, then one that comes after every slot, then the flags that it
delivers at once (R69, R71, R146). -/
def State.issuedThen (s : State) (i : Instr) (f g : State → State) : State := (g (f (s.taken i)).finish).flagged

/-- The state after a bundle of one operation issues with an effect. -/
def State.issued (s : State) (i : Instr) (f : State → State) : State := s.issuedThen i f id

/-- The state after a bundle issues whose one operation is predicated off (R96, R128). -/
def State.skipped (s : State) : State := s.fresh.finish.flagged

/-! ## What an operation completes with -/

/-- An operation with no condition of its own issues with an effect. -/
def State.gives (s : State) (i : Instr) (f : State → State) : Prop := s.admits i = true → exec i s = .next (s.issued i f)

/-- A predicated scalar operation whose test bit is 1 issues with an effect. -/
def State.givesOn (s : State) (i : Instr) (o : SOp) (f : State → State) : Prop :=
  s.testS o.pred = true → s.gives i f

/-- An operation issues with an effect, and with one that comes after every slot of its bundle (R69, R146). -/
def State.givesThen (s : State) (i : Instr) (f g : State → State) : Prop :=
  s.admits i = true → exec i s = .next (s.issuedThen i f g)

/-- It writes v to S[d] with a latency, and raises no flag. -/
def State.givesS (s : State) (i : Instr) (o : SOp) (lat : Nat) (v : Word) : Prop :=
  s.givesOn i o fun t => t.putS lat o.dst v 0 0

/-- It writes v to the bits of a mask of P[d], on a wave to those of the path's lanes alone (R127), and raises flags. -/
def State.givesP (s : State) (i : Instr) (o : SOp) (lat : Nat) (mask v : PWord) (ff : BitVec 5) : Prop :=
  s.givesOn i o fun t => t.putP lat o.dst (mask &&& t.own) v ff

/-- It writes a result to S[d], raises the result's flags, and takes an SR step if it rounds under SR (R69). -/
def State.givesF (s : State) (i : Instr) (o : SOp) (lat : Nat) (sr : Bool) (v : Word) (r : FRes) : Prop :=
  s.givesOn i o fun t => if sr then (t.putS lat o.dst v r.ff r.mf).stepSr else t.putS lat o.dst v r.ff r.mf

/-- A V operation writes f k to each participating element k of its span (R164), and raises no flag. -/
def State.givesE (s : State) (i : Instr) (o : VOp) (lat : Nat) (f : Nat → Nat) : Prop :=
  s.gives i fun t => t.putElems lat o.dst (s.elems o o.ty f) 0 0

/-- A V operation writes the result of each participating element, raises the flags of all of them, and takes an SR step if it
rounds under SR (R69, R71). -/
def State.givesR (s : State) (i : Instr) (o : VOp) (lat : Nat) (sr : Bool) (f : Nat → FRes) : Prop :=
  s.gives i fun t =>
    let fl := orFlags (((List.range (spanCount o o.ty.bytes)).filter (s.takes o o.ty)).map f)
    let u := t.putElems lat o.dst (s.elems o o.ty fun k => (f k).bits) fl.1 fl.2
    if sr then u.stepSr else u

/-- A reduction writes one result to every element of its span, on a wave to those of the path's lanes, the upper half of an element alone
where it lies in one of them and the lower half does not (R190, R164). -/
def State.givesAll (s : State) (i : Instr) (o : VOp) (lat r : Nat) (ff : BitVec 5) : Prop :=
  s.gives i fun t =>
    t.putElems lat o.dst (vmap (spanByte o) o.ty.bytes (spanCount o o.ty.bytes)
      (fun k => !s.iss.st.isWave || bit s.iss.lanes ((spanByte o + o.ty.bytes * k) / 4) || s.upper (spanByte o) o.ty.bytes k)
      fun _ => r) ff 0

/-! ## Views -/

/-- The byte that a stream's write buffer holds for a physical address, if it holds one (R208). -/
def Stream.buffered (x : Stream) (pa : Nat) : Option Byte :=
  match x.wbuf.find? fun w => w.line = pa / 128 with
  | some w => if bit w.mask (pa % 128) then some (w.val.extractLsb' (8 * (pa % 128)) 8) else none
  | none => none

/-- The byte of a physical address as a cluster finds it: a dirty byte of its cluster cache, or else the coherent value of the other caches,
the partials and the home (R344, R378). -/
def State.view (s : State) (c pa : Nat) : Byte :=
  let byte := fun (v : VWord) => v.extractLsb' (8 * (pa % 128)) 8
  match (s.cluster c).find? fun l => l.line = pa / 128 && bit l.dirty (pa % 128) with
  | some l => byte l.data
  | none => byte (s.coherent (pa / 128))

/-- No agent, cluster cache, directory entry or partial holds one of some lines, and the sets of every cache and directory have room for
all of them: accesses to them evict nothing. -/
def State.alone (s : State) (lines : List Nat) : Prop :=
  ∀ ln ∈ lines,
    let more := fun (f : Nat → Bool) => (lines.filter f).length
    (∀ l ∈ s.mm.lines ++ s.mm.victims, l.line ≠ ln) ∧ s.mm.entry ln = DirEntry.empty ∧ (∀ p ∈ s.mm.partials, p.1.2 ≠ ln) ∧
    (∀ c, ∀ l ∈ s.cluster c, l.line ≠ ln) ∧
    (∀ a, (s.mm.lines.filter fun l => l.agent = a && agentSet a l.line = agentSet a ln).length
      + more (fun k => agentSet a k = agentSet a ln) ≤ agentWays a) ∧
    (s.mm.dir.filter fun e => decide (dirSet e.1 = dirSet ln)).length + more (fun k => dirSet k = dirSet ln) ≤ 16 ∧
    (∀ c, ((s.cluster c).filter fun l => decide (l.line % 2048 = ln % 2048)).length + more (fun k => k % 2048 = ln % 2048) ≤ 16)

end Sys2Proof.Machine
end

