-- ==== Sys2Proof/Certificates/Slice0/Obligations.lean ====
section
/-! DEFINITION. The statements about the machine, from the numbered rules of the manual. -/

open Sys2Proof Sys2Proof.Machine

/-! ## The machine: reset, decoding, the step -/

/-- At reset logical time and every counter are 0, every counter's owner too; every tile core's queues are empty, its sync flags
0, its SVEC 3840, and every core has CURLIM 96 and CURWIN 64; a launched stream's FAIRCFG is 64, its MODE 0x0800_0000_0800_0000
and its flags are clear; every barrier has phase 0 and no arrival; LEASE reads 8192, CMP all ones; no queue is mapped. That
supervisor core 0 runs first at M, that unwritten memory reads 0 and is in its canonical form (log entries 1 and 3), and that
counters, their owners, sync flags and the tables of queues, slots and sashes are zero or empty, to which no rule gives a reset
value (log entry 2), is the model's choice. (R25, R34, R46, R56, R155, R221, R257, R353, R379, R456, R463) -/
def Obligations.ResetState : Prop :=
  let s := State.reset
  s.ltime = 0 ∧ (∀ n, s.ctr n = 0 ∧ s.ctrOwner n = 0) ∧
  (∀ n, (∀ q, File.get (s.tile n).inq q = []) ∧ (∀ q, File.get (s.tile n).outq q = []) ∧ (s.tile n).flags = 0 ∧
    (s.tile n).com.svec = 3840 ∧ (s.tile n).array = none) ∧
  (∀ c : CoreId, (s.common c).curlim = 96 ∧ (s.common c).curwin = 64 ∧ (s.common c).cycle = 0 ∧ (s.common c).ptbase = 0 ∧
    (s.common c).reservations = []) ∧
  (∀ k, Table.get Barrier.reset s.barriers k = { phase := false, arrivals := [], next := [], tick := 0 }) ∧
  (Csrs.launch.fair = 64 ∧ Csrs.launch.mode = 0x0800_0000_0800_0000 ∧ Csrs.launch.fflags = 0 ∧ Csrs.launch.mflags = 0 ∧ Csrs.launch.srstep = 0 ∧
    Csrs.launch.uvec = 0 ∧ Csrs.launch.epc = 0 ∧ Csrs.launch.cause = 0) ∧
  (s.ctlRead 0x100 = 8192 ∧ s.ctlRead 0x120 = 8192 ∧ ∀ n < 32, s.ctlRead (0x3100 + 8 * n) = BitVec.allOnes 64) ∧
  s.sched.slots = [] ∧ s.sched.sashes = [] ∧
  (s.stream (.super 0)).csr.priv = 3 ∧ (∀ a, Mem.get s.mm.mem a = 0) ∧ Mem.wf s.mm.mem = true

/-- The S word of add s4, s2, 100, the VA word of vfadd.f32 with its latch source, the L word of a vld, the W word of vsct.f16
[s12 + v21], v22, the M word of a cooperative mma with scales, the C word of copy.rel, the Y words of flagset and bar.grp decode
to those operations with the operands that the manual gives. (R86, R91, R97, R98, R100, R101, R104, R105, R106) -/
def Obligations.DecodesWords : Prop :=
  decodeSlot .s 0x0100_2016_0000_0064 = some (.add ⟨⟨false, 0⟩, ⟨false, false, 4⟩, .reg 2, .special 0, 100⟩) ∧
  decodeSlot .va 0x20A6_0040_0A40_0000 =
    some (.vfadd ⟨.f32, 1, 2, ⟨false, 0⟩, ⟨false, false, 8⟩, .reg 1, .latch 1 0 false, .reg 0, 0, false, 0⟩) ∧
  decodeSlot .l 0x0248_0024_81E0_8010 =
    some (.vld ⟨.i32, 2, 0, .rlx, ⟨false, 0⟩, false, true, 9, .reg 3, .special 1, 16⟩) ∧
  decodeSlot .w 0x0488_000B_060A_8000 =
    some (.vsct ⟨.f16, 2, 0, .rlx, ⟨false, 0⟩, .reg 22, .reg 12, .reg 21, 0⟩) ∧
  decodeSlot .m 0x0446_E8B0_5000_0000 =
    some (.mma ⟨1, 1, true, false, true, true, 40, 44, 0, true, 1, 0⟩) ∧
  decodeSlot .c 0x0120_7F40_0000_0010 = some (.copy ⟨2, 7, 15, false, true, 0, 16⟩) ∧
  decodeSlot .y 0x1E20_3001 = some (.flagset ⟨4, .rel, 3, 1⟩) ∧
  decodeSlot .y 0x0500_0000 = some (.bar ⟨2, .rlx, 0, 0⟩)

/-- For every operation whose encoding is legal on some core type, the bundle that holds its slot word alone, with the valid bit
of its slot and no attribute, has exactly that operation in that slot; so no field of any word is dropped, and no two
well-formed operations share a slot and a word. (R86, R87, R88, R97, R98, R100, R101, R104, R105, R106, R117) -/
def Obligations.DecodeEncode : Prop :=
  (∀ (i : Instr) (ct : CoreType) (sl : Slot) (w : BitVec 64), i.legal ct = true → encode i = some (sl, w) →
    Bundle.ops (Bundle.single (Header.only sl) sl w) = [(sl, some i)]) ∧
  (∀ (i j : Instr) (ct cu : CoreType), i.legal ct = true → j.legal cu = true → (encode i).isSome = true → encode i = encode j → i = j)

/-- An event's item runs the event on its subject, an empty agenda begins the next tile clock. The issue of a running stream
whose fetch finds a bundle runs exec of its one operation in the state that presents it; no operation: an empty bundle; several:
their plans together. A tile context below bundle 3840 fetches from its own bank, at U from 3840 to 4095 it takes #PRIV, above
#BOUNDS with TVAL the program counter. A supervisor core's bundle issues in the same way where its current keeps to the limit
over the window of clocks, and adds what it draws to the clock's; beyond the limit nothing changes. (R7, R34, R85, R88, R138,
R256) -/
def Obligations.StepRunsBundle : Prop :=
  ∀ (s : State) (rest : List Item),
    let t : State := { s with agenda := rest }
    (s.agenda = [] → step s = .next s.clockEdge) ∧
    (∀ i x, s.agenda = .row i x :: rest → step s = exec i { t with subject := x }) ∧
    (∀ k, s.agenda = .clock k :: rest → step s = .next (t.coreClock k)) ∧
    (∀ st a b, s.agenda = .issue st a b :: rest → (t.stream st).stop ≠ .running → step s = .next t) ∧
    (∀ st a pc lanes, s.agenda = .issue st a none :: rest → (t.stream st).stop = .running → st.isSuper = false →
      pc = a.getD (t.stream st).pc → lanes = (if st.isWave then (t.stream st).thr.path pc else 0) → (st.isWave = true → lanes ≠ 0) →
      (∀ b, t.fetch st pc = .bundle b →
        let u := t.show_ st lanes pc b
        (∀ sl i, Bundle.ops b = [(sl, some i)] → step s = exec i { u with iss := { u.iss with slot := sl } }) ∧
        (Bundle.ops b = [] → step s = exec .emptyBundle u) ∧
        (2 ≤ (Bundle.ops b).length → step s = .next (u.run (u.plansOf (Bundle.ops b)).1))) ∧
      (∀ c v, t.fetch st pc = .raise (.service c v) → step s = .next ((t.show_ st lanes pc 0).trap c v 15))) ∧
    (∀ n b, s.agenda = .issue (.super n) none none :: rest → (t.stream (.super n)).stop = .running →
      t.fetch (.super n) (t.stream (.super n)).pc = .bundle b →
      let v := t.show_ (.super n) 0 (t.stream (.super n)).pc b
      let k := (t.super n).com
      let plans := (v.plansOf (Bundle.ops b)).1
      let now := k.currents.headD 0 + if (v.verdict plans).goes then drawOf false (Bundle.ops b) else 0
      let drawn := ((k.currents.drop 1).take (k.curwin.toNat - 1)).foldl (· + ·) 0 + now
      let u := v.modCommon (.super n) fun k => { k with currents := now :: k.currents.drop 1 }
      (k.curlim.toNat < drawn → step s = .next t) ∧
      (drawn ≤ k.curlim.toNat →
        (∀ sl i, Bundle.ops b = [(sl, some i)] → step s = exec i { u with iss := { u.iss with slot := sl } }) ∧
        (Bundle.ops b = [] → step s = exec .emptyBundle u) ∧
        (2 ≤ (Bundle.ops b).length → step s = .next (u.run plans)))) ∧
    (∀ c x pc, (pc.toNat < 3840 → t.fetch (.tile c x) pc = .bundle (Table.get 0 (t.tile c).banks ((t.tile c).bankOf x, pc.toNat))) ∧
      (3840 ≤ pc.toNat → pc.toNat < 4096 → (t.stream (.tile c x)).csr.priv = 0 → t.fetch (.tile c x) pc = .raise (.service 0x02 pc)) ∧
      (4096 ≤ pc.toNat → t.fetch (.tile c x) pc = .raise (.service 0x0C pc)))

/-- Each slot's no-operation and the empty bundle complete and only move the stream on. A predicated S operation whose test bit
is 0 completes without effect, even where a queue that it names is empty (log entry 11). A faulty header takes #ILLOP with TVAL
8, a faulty encoding #ILLOP with its slot's code. A bundle that pops an empty queue, or whose operation reads an empty queue or
pushes to a full one, is held, with nothing else changed. (R9, R27, R87, R88, R90, R117, R118, R128) -/
def Obligations.OperationsWithoutEffect : Prop :=
  ∀ (s : State),
    (∀ i ∈ [Instr.nop, .vnop, .lnop, .wnop, .mnop, .cnop, .ynop], s.gives i fun t => t) ∧
    (s.headerOk = true → (∀ q ∈ popped s.hdr, s.queue s.iss.st q ≠ []) → exec .emptyBundle s = .next s.skipped) ∧
    (∀ (o : SOp) (f : SOp → Instr), f ∈ [Instr.add, .sub, .mul, .mulh, .mulhn, .div, .divn, .rem, .remn, .and, .or, .xor, .andn, .shl, .shr,
        .sar, .rol, .min, .minn, .max, .maxn, .clz, .ctz, .popc, .sext, .zext, .bfx, .bfi, .sel, .li, .lih, .cmp, .plog, .pmov,
        .pmovHToS, .pmovHFromS, .pmovB, .fadd, .fsub, .fmul, .fdiv, .fsqrt, .ffma, .fcmp, .fcvt, .fminmax, .jmp, .call, .ret, .loop,
        .brk, .join, .yieldp, .csrr, .csrw, .csrs, .csrc, .sysc, .trap, .eret, .uret, .wfi, .halt, .brkpt, .tlbi, .cmaint, .mts, .mfs,
        .mtq, .evadd, .evld, .evarm, .evwait, .lea, .addpc, .wid] →
      s.testS o.pred = false → s.opens (f o) = true → exec (f o) s = .next s.skipped) ∧
    (∀ (i : Instr), (encode i).isSome = true →
      (s.headerOk = false → exec i s = .next (s.trap 0x01 8 8)) ∧
      (s.headerOk = true → s.encOk i s.iss.slot = false →
        exec i s = .next (s.trap 0x01 (BitVec.ofNat 64 s.iss.slot.code) s.iss.slot.code))) ∧
    (∀ (o : SOp), s.testS o.pred = true → s.opens (.add o) = true → s.queueHold (.add o) = true →
      exec (.add o) s = .next (s.modStream s.iss.st fun x => { x with held := true })) ∧
    (∀ (o : SOp) q, s.headerOk = true → s.encOk (.add o) s.iss.slot = true → q ∈ popped s.hdr → s.queue s.iss.st q = [] →
      exec (.add o) s = .next (s.modStream s.iss.st fun x => { x with held := true }))

/-- On a tile context's main stream a result of latency L is put in flight, due at context time plus L, and registers are
unchanged; elsewhere it is written at once. Landing the one result that is due writes its register, enters it in its slot's
latch unless it is a P result, and ORs its flags; one that is not due stays in flight. A write to p0 is discarded and p0 reads
as all ones. A pop drops the head; a push adds the entry with its clock. (R8, R21, R27, R71, R93, R95, R108) -/
def Obligations.ResultsLand : Prop :=
  ∀ (s : State),
    let st := s.iss.st
    let x := s.stream st
    (∀ lat d v, s.timed st = true →
      (s.putS lat d v 0 0).stream st = { x with pend := x.pend ++ [s.result lat (dstS d) d.nw (BitVec.allOnes 128) (v.setWidth 1024) 0 0] } ∧
      (s.result lat (dstS d) d.nw (BitVec.allOnes 128) (v.setWidth 1024) 0 0).due = x.time + lat) ∧
    (∀ lat (d : Dst) v, s.timed st = false → d.nw = false → d.qo = false →
      (s.putS lat d v 0 0).stream st = x.writeS d.reg v) ∧
    (∀ u (r : Result), (s.stream u).pend = [r] → (s.stream u).time < r.due → (s.landDue u).stream u = s.stream u) ∧
    (∀ u (r : Result) k, (s.stream u).pend = [r] → r.due ≤ (s.stream u).time → r.dest = .s k → r.nw = false → r.latch = true →
      let y := (s.landDue u).stream u
      File.get y.s k = r.val.setWidth 64 ∧ (∀ j, j ≠ k → File.get y.s j = File.get (s.stream u).s j) ∧ y.pend = [] ∧
      y.latches = (s.stream u).latches.enter r.slot (r.val &&& byteBits r.mask) ∧
      y.csr.fflags = (s.stream u).csr.fflags ||| r.ff ∧ y.v = (s.stream u).v ∧ y.p = (s.stream u).p) ∧
    (∀ (y : Stream) m v, y.writeP 0 m v = y ∧ y.readP 0 = BitVec.allOnes 128) ∧
    (∀ (y : Stream) r m v k, r ≠ 0 → ((y.writeP r m v).readP r).getLsbD k = if m.getLsbD k then v.getLsbD k else (y.readP r).getLsbD k) ∧
    (∀ c b q, s.queue (.tile c b) q = File.get (s.tile c).inq q ∧
      ((s.popQueue (.tile c b) q).tile c).inq = File.set (s.tile c).inq q ((File.get (s.tile c).inq q).drop 1)) ∧
    (∀ c o v, File.get ((s.pushOut c o v).tile c).outq o = File.get (s.tile c).outq o ++ [(v, s.ltime)])

/-! ## Scalar operations -/

/-- Every two-operand integer operation of the S slot, on every operand, completes and writes to S[d] the result of R129,
quotients and remainders under R130, with its published latency. (R129, R130) -/
def Obligations.IntegerResults : Prop :=
  ∀ (o : SOp) (s : State),
    let A := s.sA o
    let B := s.sB o
    s.givesS (.add o) o 1 (A + B) ∧
    s.givesS (.sub o) o 1 (A - B) ∧
    s.givesS (.mul o) o 3 (A * B) ∧
    s.givesS (.mulh o) o 3 ((A.signExtend 128 * B.signExtend 128).extractLsb' 64 64) ∧
    s.givesS (.mulhn o) o 3 ((A.setWidth 128 * B.setWidth 128).extractLsb' 64 64) ∧
    s.givesS (.div o) o 12 (if B = 0 then BitVec.allOnes 64 else A.sdiv B) ∧
    s.givesS (.divn o) o 12 (if B = 0 then BitVec.allOnes 64 else A.udiv B) ∧
    s.givesS (.rem o) o 12 (if B = 0 then A else A.srem B) ∧
    s.givesS (.remn o) o 12 (if B = 0 then A else A.umod B) ∧
    s.givesS (.and o) o 1 (A &&& B) ∧
    s.givesS (.or o) o 1 (A ||| B) ∧
    s.givesS (.xor o) o 1 (A ^^^ B) ∧
    s.givesS (.andn o) o 1 (A &&& ~~~B) ∧
    s.givesS (.shl o) o 1 (A <<< (B.toNat % 64)) ∧
    s.givesS (.shr o) o 1 (A >>> (B.toNat % 64)) ∧
    s.givesS (.sar o) o 1 (A.sshiftRight (B.toNat % 64)) ∧
    s.givesS (.rol o) o 1 ((A <<< (B.toNat % 64)) ||| (A >>> (64 - B.toNat % 64))) ∧
    s.givesS (.min o) o 1 (if B.slt A then B else A) ∧
    s.givesS (.minn o) o 1 (if B.ult A then B else A) ∧
    s.givesS (.max o) o 1 (if A.slt B then B else A) ∧
    s.givesS (.maxn o) o 1 (if A.ult B then B else A)

/-- Every single-operand, field and constant operation of R131 completes and writes its result to S[d]; sext or zext of 0 bits,
bfx or bfi of a field that ends above bit 63, and any of them or sel with a bit set above its field take #ILLOP with the slot's
code. (R131, R117) -/
def Obligations.FieldResults : Prop :=
  ∀ (o : SOp) (s : State),
    let A := s.sA o
    let D := (s.stream s.iss.st).readS o.dst.reg
    let n := o.sub 0 6
    let w := o.sub 6 6 + 1
    s.givesS (.clz o) o 1 (BitVec.ofNat 64 (((List.range 64).find? fun j => A.getLsbD (63 - j)).getD 64)) ∧
    s.givesS (.ctz o) o 1 (BitVec.ofNat 64 (((List.range 64).find? fun j => A.getLsbD j).getD 64)) ∧
    s.givesS (.popc o) o 1 (BitVec.ofNat 64 ((List.range 64).filter fun j => A.getLsbD j).length) ∧
    s.givesS (.sext o) o 1 ((A <<< (64 - n)).sshiftRight (64 - n)) ∧
    s.givesS (.zext o) o 1 ((A <<< (64 - n)) >>> (64 - n)) ∧
    s.givesS (.bfx o) o 1
      (if o.subBit 12 then (A <<< (64 - n - w)).sshiftRight (64 - w) else (A <<< (64 - n - w)) >>> (64 - w)) ∧
    (∃ v : Word, s.givesS (.bfi o) o 1 v ∧
      ∀ j < 64, v.getLsbD j = if n ≤ j ∧ j < n + w then A.getLsbD (j - n) else D.getLsbD j) ∧
    s.givesS (.sel o) o 1 (if s.testS (Pred.ofBits (o.imm.setWidth 5)) then A else s.sB o) ∧
    s.givesS (.li o) o 1 (o.imm.signExtend 64) ∧
    s.givesS (.lih o) o 1 ((A <<< 27) ||| o.imm.setWidth 64) ∧
    (∀ i, (i ∈ [Instr.sext o, .zext o] ∧ (n = 0 ∨ 2 ^ 6 ≤ o.imm.toNat)) ∨ (i ∈ [Instr.bfx o, .bfi o] ∧ 64 < n + w) ∨
        (i = .bfx o ∧ 2 ^ 13 ≤ o.imm.toNat) ∨ (i = .bfi o ∧ 2 ^ 12 ≤ o.imm.toNat) ∨ (i = .sel o ∧ 2 ^ 5 ≤ o.imm.toNat) →
      s.headerOk = true → exec i s = .next (s.trap 0x01 (BitVec.ofNat 64 s.iss.slot.code) s.iss.slot.code))

/-- cmp writes its condition on A and B to every bit it writes, plog the truth table bit by bit, and each form of pmov its
source; on a wave only the bits of the path's lanes are written (R127). (R132) -/
def Obligations.PredicateResults : Prop :=
  ∀ (o : SOp) (s : State),
    let A := s.sA o
    let B := s.sB o
    let P := s.srcP o.a
    let Q := s.srcP o.b
    let h := o.sub 2 1
    let all := fun (b : Bool) => if b then BitVec.allOnes 128 else 0#128
    (∀ c b, (c, b) ∈ [(0, A == B), (1, A != B), (2, A.slt B), (3, A.sle B), (4, A.ult B), (5, A.ule B)] → o.sub 0 3 = c →
      s.givesP (.cmp o) o 1 (BitVec.allOnes 128) (all b) 0) ∧
    (∃ v : PWord, s.givesP (.plog o) o 1 (BitVec.allOnes 128) v 0 ∧
      ∀ j < 128, v.getLsbD j = (o.sub 0 4).testBit (2 * (P.getLsbD j).toNat + (Q.getLsbD j).toNat)) ∧
    s.givesP (.pmov o) o 1 (BitVec.allOnes 128) P 0 ∧
    s.givesS (.pmovHToS o) o 1 (P.extractLsb' (64 * h) 64) ∧
    s.givesP (.pmovHFromS o) o 1 ((BitVec.allOnes 64).setWidth 128 <<< (64 * h)) (A.setWidth 128 <<< (64 * h)) 0 ∧
    s.givesP (.pmovB o) o 1 (BitVec.allOnes 128) (all (A.getLsbD 0)) 0

/-- Each scalar floating-point operation completes: its operands are the low bits of its sources under its type, after FTZI; the
result of fadd, fsub, fmul, ffma, fdiv and fsqrt is that of the format's operation under the effective mode, zero-extended, with
its flags, and SRSTEP advances once when the operation rounds under SR; fcvt extends an integer result by its type and takes no
SR step between integers; fminmax and fcmp do not round. (R133, R134, R135, R69) -/
def Obligations.ScalarFloatResults : Prop :=
  ∀ (o : SOp) (s : State),
    let t := SOp.fty o
    let f := ElTy.fmt t
    let e := s.effS t (o.sub 4 3) (o.subBit 7)
    let val := fun (x : Word) => f.decodeIn (modeFtzi s.mode t) (x.toNat % 2 ^ (8 * t.bytes))
    let A := val (s.sA o)
    let B := val (s.sB o)
    let D := val ((s.stream s.iss.st).readS o.dst.reg)
    let sr := e.rm == 5
    let word := fun (r : FRes) => BitVec.ofNat 64 r.bits
    s.givesF (.fadd o) o 4 sr (word (f.add e 0 A B)) (f.add e 0 A B) ∧
    s.givesF (.fsub o) o 4 sr (word (f.add e 0 A B.negate)) (f.add e 0 A B.negate) ∧
    s.givesF (.fmul o) o 4 sr (word (f.mul e 0 A B)) (f.mul e 0 A B) ∧
    s.givesF (.fdiv o) o 12 sr (word (f.div e 0 A B)) (f.div e 0 A B) ∧
    s.givesF (.fsqrt o) o 12 sr (word (f.sqrt e 0 A)) (f.sqrt e 0 A) ∧
    s.givesF (.ffma o) o 4 sr (word (f.fma e 0 A B D)) (f.fma e 0 A B D) ∧
    (let c := fCompare (if o.sub 8 3 = 4 then 6 else o.sub 8 3) A B
     s.givesP (.fcmp o) o 4 (BitVec.allOnes 128) (if c.1 then BitVec.allOnes 128 else 0#128) c.2) ∧
    (let y := SOp.fsrc o
     let r := convertEl s.mode y t e 0 ((s.sA o).toNat % 2 ^ (8 * y.bytes))
     s.givesF (.fcvt o) o 4 (sr && !(t.isInt && y.isInt))
       (if t.signed then BitVec.ofInt 64 (sextNat (8 * t.bytes) r.bits) else BitVec.ofNat 64 r.bits) r) ∧
    (let r := f.pick (modeFtzo s.mode t) (o.subBit 8) A B
     s.givesF (.fminmax o) o 4 false (word r) r)

/-- mts writes A to a staging register and mfs reads one; mtq pushes B above A to an outbound queue that its core's owner of
queues finds with room; lea gives A + (B << sh) + k, addpc the bundle number of its target, wid a field of the WID, the group
index, or the whole WID. (R153, R154, R161) -/
def Obligations.StagingQueueAndIdentity : Prop :=
  ∀ (o : SOp) (s : State),
    let st := s.iss.st
    let A := s.sA o
    let B := s.sB o
    let r := 16 * o.sub 4 4 + o.sub 0 4
    let wid := s.widOf st (firstLane s.iss.lanes)
    let wf := (s.stream st).csr.widf
    let width := fun c => fld wf (6 * c) 6
    s.givesOn (.mts o) o (fun t => t.modStream t.iss.st fun x => { x with staging := Table.put x.staging r A }) ∧
    s.givesS (.mfs o) o 1 (Table.get 0 (s.stream st).staging r) ∧
    (∀ c b, st = .tile c b → (s.stream st).csr.qown = true → s.outFull st (BitVec.ofNat 2 (o.sub 0 2)) = false →
      s.givesOn (.mtq o) o fun t => t.pushOut c (BitVec.ofNat 2 (o.sub 0 2)) ((B ++ A).setWidth 1024)) ∧
    s.givesS (.lea o) o 1 (A + (B <<< (o.sub 0 3)) + (o.imm.extractLsb' 3 24).signExtend 64) ∧
    s.givesS (.addpc o) o 1 (s.pcOf st + o.imm.signExtend 64) ∧
    (∀ c < 6, o.sub 0 4 = c →
      s.givesS (.wid o) o 1 (BitVec.ofNat 64 (fld wid ((List.range c).map width).sum (width c)))) ∧
    (∀ j, o.sub 0 4 = 6 → (s.stream st).job = some j → s.givesS (.wid o) o 1 (BitVec.ofNat 64 j.unit)) ∧
    (o.sub 0 4 = 7 → s.givesS (.wid o) o 1 wid)

/-! ## Control, CSRs and system operations -/

/-- When a bundle issues, a tile context or supervisor core is at the target that a control operation of the bundle set, else at
PC + 1, and so is each lane of the issuing path of a wave that no per-lane operation has moved, the other lanes staying where
they are; on a tile context's main stream context time advances by one and the header's idle count is taken, in a handler
neither; nothing else of the program counters changes. (R85, R7, R89, R358) -/
def Obligations.NextProgramCounter : Prop :=
  ∀ s : State,
    let st := s.iss.st
    let x := s.stream st
    let y := s.finish.stream st
    let pcAt := fun (t : Threads) (l : Fin 32) => t.pcs.get l
    (∀ c b, st = .tile c b → y.pc = s.iss.npc.getD (x.pc + 1) ∧
      (x.inHandler = false → y.time = x.time + 1 ∧ y.idle = s.hdr.idle.toNat) ∧
      (x.inHandler = true → y.time = x.time ∧ y.idle = x.idle)) ∧
    (∀ n, st = .super n → y.pc = s.iss.npc.getD (x.pc + 1)) ∧
    (∀ c w, st = .wave c w → y.pc = x.pc ∧
      (s.iss.moved = false → ∀ l : Fin 32,
        pcAt y.thr l = if s.iss.lanes.getLsbD l then s.iss.npc.getD (s.iss.pc + 1) else pcAt x.thr l) ∧
      (s.iss.moved = true → ∀ l : Fin 32, pcAt y.thr l = pcAt x.thr l)) ∧
    (∀ u, u ≠ st → s.finish.stream u = s.stream u)

/-- On a tile context bru branches when all 128 bits of its predicate after the negate are 1, goes on when all are 0, and
otherwise takes #UNIF with TVAL their low 64 bits; on a wave the same over bit 4l of the active lanes of the path, TVAL holding
the 32 lane bits; on a supervisor core bit 0 decides. (R137) -/
def Obligations.UniformBranches : Prop :=
  ∀ (o : SOp) (s : State), s.admits (.bru o) = true →
    let st := s.iss.st
    let p := (s.stream st).readP o.pred.p
    let x := if o.pred.neg then ~~~p else p
    let target := s.pcOf st + o.imm.signExtend 64
    let branches := exec (.bru o) s = .next (s.issued (.bru o) fun t => t.goto target)
    let goesOn := exec (.bru o) s = .next (s.issued (.bru o) fun t => t)
    let traps := fun (v : Word) => exec (.bru o) s = .next (s.trap 0x06 v s.iss.slot.code)
    let on := fun (b : Bool) => ∀ l < 32, s.iss.lanes.getLsbD l = true → x.getLsbD (4 * l) = b
    (∀ c b, st = .tile c b →
      (x = BitVec.allOnes 128 → branches) ∧ (x = 0 → goesOn) ∧
      (x ≠ BitVec.allOnes 128 → x ≠ 0 → traps (x.setWidth 64))) ∧
    (∀ c w, st = .wave c w → s.iss.lanes ≠ 0 →
      (on true → branches) ∧ (on false → goesOn) ∧
      (¬on true → ¬on false → ∃ v, traps v ∧ ∀ l < 64, v.getLsbD l = (decide (l < 32) && x.getLsbD (4 * l)))) ∧
    (∀ n, st = .super n → (x.getLsbD 0 = true → branches) ∧ (x.getLsbD 0 = false → goesOn))

/-- With test bit 1, jmp goes to A + B; call writes PC + 1 and goes to A + B; ret goes to A; loop writes A − 1 and branches
while that is not zero; brk branches when A is not zero. That the link of call and the count of loop have latency 1 is the
model's choice (log entry 43): R107 gives none. (R136) -/
def Obligations.UniformJumps : Prop :=
  ∀ (o : SOp) (s : State),
    let A := s.sA o
    let B := s.sB o
    let pc := s.pcOf s.iss.st
    let target := pc + o.imm.signExtend 64
    s.givesOn (.jmp o) o (fun t => t.goto (A + B)) ∧
    s.givesOn (.call o) o (fun t => (t.putS 1 o.dst (pc + 1) 0 0).goto (A + B)) ∧
    s.givesOn (.ret o) o (fun t => t.goto A) ∧
    (A ≠ 1 → s.givesOn (.loop o) o fun t => (t.putS 1 o.dst (A - 1) 0 0).goto target) ∧
    (A = 1 → s.givesOn (.loop o) o fun t => t.putS 1 o.dst 0 0 0) ∧
    (A ≠ 0 → s.givesOn (.brk o) o fun t => t.goto target) ∧
    (A = 0 → s.givesOn (.brk o) o fun t => t)

/-- On a wave, after brl each lane of the issuing path whose test bit is 1 is at PC + off, after jmpl at its element of A plus
B, every other lane of the path at PC + 1, and lanes outside the path have not moved; join asks for the lowest path first,
yieldp for the issuing path last. On a wave, calll completes when no lane that takes it would overflow and its spills reach
memory: each such lane is at its element of A plus B with PC + 1 on top of its stack, the two oldest of four entries spilled;
retl completes when no lane would underflow and its fills reach memory: a lane with entries on chip is at the top one, which is
gone. Other lanes of the path are at PC + 1 with their stacks as they were. A lane that would overflow or underflow takes
#STACKOV with the lanes in TVAL[63:32] and TVAL[0] for underflow. (R139, R142, R140) -/
def Obligations.PerLaneBranches : Prop :=
  (∀ (o : SOp) (s : State), s.iss.st.isWave = true →
     let st := s.iss.st
     let x := s.stream st
     let moves := fun (i : Instr) (target : Nat → Word) => s.admits i = true → ∃ t, exec i s = .next t ∧ ∀ l : Fin 32,
       (t.stream st).thr.pcs.get l =
         if s.iss.lanes.getLsbD l then if x.test o.pred (4 * l.val) then target l else s.iss.pc + 1 else x.thr.pcs.get l
     moves (.brl o) (fun _ => s.iss.pc + o.imm.signExtend 64) ∧
     moves (.jmpl o) (fun l => BitVec.ofNat 64 (elemAt (s.srcV .n32 0 o.a) 0 4 l) + s.sB o) ∧
     s.givesOn (.join o) o (fun t => t.modStream t.iss.st fun x => { x with thr := { x.thr with lowest := true } }) ∧
     (s.testS o.pred = true → s.givesThen (.yieldp o) id fun t =>
       t.modStream t.iss.st fun x => { x with thr := { x.thr with yielded := t.iss.npc.getD (t.iss.pc + 1) :: x.thr.yielded } })) ∧
  (∀ (o : SOp) (s : State) (es : List Elem), s.iss.st.isWave = true →
     let st := s.iss.st
     let x := s.stream st
     let takes := fun (l : Nat) => s.iss.lanes.getLsbD l && x.test o.pred (4 * l)
     let m := (List.range 32).filter takes
     let chip := fun (y : Stream) (l : Nat) => y.thr.stackOf l
     let pc := fun (y : Stream) (l : Fin 32) => y.thr.pcs.get l
     (s.admits (.calll o) = true → x.pushTraps m = [] → s.judge st 8 askWrite (x.pushSpills m) = .ok es → s.wbFull st es = false →
       ∃ t, exec (.calll o) s = .next t ∧ ∀ l : Fin 32,
         (takes l = true → pc (t.stream st) l = BitVec.ofNat 64 (elemAt (s.srcV .n32 0 o.a) 0 4 l) + s.sB o ∧
           ((chip x l).length < 4 → chip (t.stream st) l = (s.iss.pc + 1) :: chip x l ∧
             (t.stream st).thr.spilled l = x.thr.spilled l) ∧
           ((chip x l).length = 4 → chip (t.stream st) l = (s.iss.pc + 1) :: (chip x l).take 2 ∧
             (t.stream st).thr.spilled l = x.thr.spilled l + 2)) ∧
         (s.iss.lanes.getLsbD l = true → takes l = false → pc (t.stream st) l = s.iss.pc + 1 ∧ chip (t.stream st) l = chip x l)) ∧
     (s.admits (.retl o) = true → x.popTraps m = [] → s.judge st 8 askRead (x.popFills m) = .ok es →
       ∃ t, exec (.retl o) s = .next t ∧ ∀ l : Fin 32,
         (takes l = true → ∀ top rest, chip x l = top :: rest → pc (t.stream st) l = top ∧ chip (t.stream st) l = rest) ∧
         (s.iss.lanes.getLsbD l = true → takes l = false → pc (t.stream st) l = s.iss.pc + 1 ∧ chip (t.stream st) l = chip x l)) ∧
     (s.admits (.calll o) = true → s.wbFull st (s.judge st 8 askWrite (x.pushSpills m)).elems = false → x.pushTraps m ≠ [] →
       exec (.calll o) s = .next (s.trap 0x0D ((ofLanes (x.pushTraps m)).setWidth 64 <<< 32) s.iss.slot.code)) ∧
     (s.admits (.retl o) = true → x.popTraps m ≠ [] →
       exec (.retl o) s = .next (s.trap 0x0D (((ofLanes (x.popTraps m)).setWidth 64 <<< 32) ||| 1) s.iss.slot.code)))

/-- An access to a CSR that exists on the core type, at a level that R40 allows, completes: csrr writes the register's value to
S[d]; csrw, csrs and csrc, when the map accepts what they would leave, write A, old OR A, old AND NOT A after every slot of the
bundle and the old value to S[d]; a rejected value takes #ILLOP and an access that the level does not allow #PRIV. (R143, R144,
R40) -/
def Obligations.CsrAccesses : Prop :=
  ∀ (o : SOp) (s : State), s.testS o.pred = true →
    let st := s.iss.st
    let n := o.sub 0 12
    let A := s.sA o
    let old := s.csr st s.iss.lanes n
    let priv := (s.stream st).csr.priv
    let writes := fun (i : Instr) (new : Word → Word) (w1c : Word) => csrExists st.ctype n = true → s.admits i = true →
      (csrAllowed priv true n = true → (s.writeCsr st n old (new old) w1c).isSome = true →
        exec i s = .next (s.issuedThen i id fun t => t.accessCsr o n true new w1c)) ∧
      (csrAllowed priv true n = true → s.writeCsr st n old (new old) w1c = none →
        exec i s = .next (s.trap 0x01 0 s.iss.slot.code)) ∧
      (csrAllowed priv true n = false → exec i s = .next (s.trap 0x02 (BitVec.ofNat 64 s.iss.slot.code) s.iss.slot.code))
    (csrExists st.ctype n = true → csrAllowed priv false n = true → s.givesS (.csrr o) o 1 old) ∧
    (csrExists st.ctype n = true → csrAllowed priv false n = false → s.admits (.csrr o) = true →
      exec (.csrr o) s = .next (s.trap 0x02 (BitVec.ofNat 64 s.iss.slot.code) s.iss.slot.code)) ∧
    writes (.csrw o) (fun _ => A) A ∧
    writes (.csrs o) (fun v => v ||| A) A ∧
    writes (.csrc o) (fun v => v &&& ~~~A) 0

/-- After a write of a value that its map accepts, MODE, FSTAT, MSTAT, CAUSE, EPC, TVAL, SVEC, UVEC, UEPC, SEED, FAIRCFG, LSTK,
CURLIM, CURWIN, ASID and PTBASE read as the value on every core type that has them, FREEZECNT as the value; LMASK, WID, WIDF,
COREID, CYCLE and the window registers ignore the write; and every other CSR of the stream reads as before. Read as a CSR,
STATUS has PRIV in [1:0], UIE in [2], INULI in [3], LLOST in [4], CTX in [5] (1 on context c1), CTYPE in [7:6], QOWN in [8],
INSVC in [9] and zeros above. (R4, R40, R56, R69, R352, R353, R257, R399, R141, R46, R42) -/
def Obligations.CsrReadsBackWhatWasWritten : Prop :=
  (∀ (s : State) (st : StreamId) (lanes : Lanes) (n m : Nat) (v : Word), csrExists st.ctype n = true →
     (n ∈ [0x001, 0x002, 0x003, 0x004, 0x005, 0x006, 0x007, 0x008, 0x009, 0x00B, 0x014, 0x015, 0x016, 0x020, 0x021, 0x030, 0x031] →
       csrAccepts st.ctype n v = true → (s.putCsr st n v).csr st lanes n = v) ∧
     (n ∈ [0x00A, 0x010, 0x011, 0x012, 0x013, 0x018, 0x019, 0x01A, 0x01B] →
       (s.putCsr st n v).csr st lanes n = s.csr st lanes n) ∧
     (m ≠ n → (s.putCsr st n v).csr st lanes m = s.csr st lanes m)) ∧
  (∀ (s : State) (st : StreamId) (lanes : Lanes),
     let v := s.csr st lanes 0x000
     let c := (s.stream st).csr
     v.extractLsb' 0 2 = c.priv ∧ v.getLsbD 2 = c.uie ∧ v.getLsbD 3 = c.inuli ∧ v.getLsbD 4 = c.llost ∧
     (∀ k, st = .tile k true → v.getLsbD 5 = true) ∧ ((∀ k, st ≠ .tile k true) → v.getLsbD 5 = false) ∧
     v.extractLsb' 6 2 = (match st.ctype with | .tile => 0 | .shader => 1 | .super => 2) ∧
     v.getLsbD 8 = c.qown ∧ v.getLsbD 9 = c.insvc ∧ v.extractLsb' 10 54 = 0)

/-- sysc enters the service routine after its bundle's effects with cause SYSC, TVAL n and EPC = PC + 1 (at K, and by log entry
15 at M, on a supervisor core it enters the boot monitor at M); trap and brkpt enter precisely with SOFT and BRKPT, their
bundles without effect; eret at K or above sets the program counter from EPC, PRIV from CAUSE and clears INSVC; uret in a ULI
handler sets it from UEPC, on a wave each lane's of the issuing path, clears INULI and sets UIE; eret at U takes #PRIV. (R146,
R147, R148, R359) -/
def Obligations.SystemEntryAndExit : Prop :=
  ∀ (o : SOp) (s : State), s.testS o.pred = true →
    let st := s.iss.st
    let c := (s.stream st).csr
    let n := BitVec.ofNat 64 (o.sub 0 16)
    (s.admits (.sysc o) = true → c.inuli = false → (st.isSuper = true ∨ c.priv = 0) →
      ((st.isSuper = false ∨ c.priv = 0) → exec (.sysc o) s =
        .next (s.issuedThen (.sysc o) id fun t => t.service st 0x08 n false 0 false t.iss.lanes (s.pcOf st + 1))) ∧
      (st.isSuper = true → c.priv ≠ 0 →
        exec (.sysc o) s = .next (s.issuedThen (.sysc o) id fun t => t.enterMonitor n (s.pcOf st + 1)))) ∧
    (s.admits (.trap o) = true → exec (.trap o) s = .next (s.trap 0x0A n s.iss.slot.code)) ∧
    (s.admits (.brkpt o) = true → exec (.brkpt o) s = .next (s.trap 0x09 n s.iss.slot.code)) ∧
    (s.admits (.eret o) = true → c.priv ≠ 0 → ∃ t, exec (.eret o) s = .next t ∧
      (t.stream st).csr.priv = c.cause.extractLsb' 8 2 ∧ (t.stream st).csr.insvc = false ∧
      (st.isWave = false → (t.stream st).pc = c.epc) ∧
      (st.isWave = true → (t.stream st).thr.suspended = 0 ∧
        ∀ l : Fin 32, s.iss.lanes.getLsbD l = true → (t.stream st).thr.pcs.get l = c.epc)) ∧
    (s.admits (.eret o) = true → c.priv = 0 →
      exec (.eret o) s = .next (s.trap 0x02 (BitVec.ofNat 64 s.iss.slot.code) s.iss.slot.code)) ∧
    (s.admits (.uret o) = true → c.inuli = true → ∃ t, exec (.uret o) s = .next t ∧
      (t.stream st).csr.inuli = false ∧ (t.stream st).csr.uie = true ∧ (st.isWave = false → (t.stream st).pc = c.uepc) ∧
      (st.isWave = true → ∀ l : Fin 32, (t.stream st).thr.pcs.get l =
        if s.iss.lanes.getLsbD l then c.uepc else (s.stream st).thr.pcs.get l))

/-- A service trap outside a service routine writes CAUSE (code, level, interrupt flag, slot, recoverable flag), EPC and TVAL,
sets PRIV to K and INSVC, and sets the program counter to SVEC: of the context or core, or on a wave of the lanes of the raising
path, LMASK taking those lanes and the other active lanes being suspended; s56 to s63 name the service shadow set; INULI and
every general register are left as they were, and so are every other stream and memory. (R350) -/
def Obligations.TrapEntry : Prop :=
  ∀ (s : State) (st : StreamId) (code : BitVec 8) (tval epc : Word) (int recov : Bool) (slot : Nat) (lanes : Lanes),
    (s.stream st).csr.insvc = false → slot < 16 →
    let x := s.stream st
    let t := s.service st code tval int slot recov lanes epc
    let y := t.stream st
    let svec := (s.common st.core).svec.setWidth 64
    (y.csr.cause.extractLsb' 0 8 = code ∧ y.csr.cause.extractLsb' 8 2 = x.csr.priv ∧ y.csr.cause.getLsbD 10 = int ∧
      (y.csr.cause.extractLsb' 11 4).toNat = slot ∧ y.csr.cause.getLsbD 15 = recov) ∧
    y.csr.epc = epc ∧ y.csr.tval = tval ∧ y.csr.priv = 1 ∧ y.csr.insvc = true ∧ y.csr.inuli = x.csr.inuli ∧
    (st.isWave = false → y.pc = svec ∧ y.csr.lmask = x.csr.lmask) ∧
    (st.isWave = true → y.csr.lmask = lanes ∧ y.thr.suspended = x.thr.suspended ||| (x.thr.active &&& ~~~lanes) ∧
      ∀ l : Fin 32, y.thr.pcs.get l = if lanes.getLsbD l then svec else x.thr.pcs.get l) ∧
    (∀ r : BitVec 6, 56 ≤ r.toNat → y.readS r = File.get x.svcSet (r.setWidth 3)) ∧
    y.s = x.s ∧ y.v = x.v ∧ y.p = x.p ∧ y.svcSet = x.svcSet ∧ y.uliSet = x.uliSet ∧ y.pend = x.pend ∧ y.stop = .running ∧
    (∀ u, u ≠ st → t.stream u = s.stream u) ∧ t.mm = s.mm ∧ t.barriers = s.barriers

/-- A service trap while INSVC is set ends the stream of a tile context or wave: it is stopped with its results in flight
discarded, and the sequencer's rerun follows with the cause code; on a supervisor core the level becomes M and the program
counter the boot monitor's entry. Both are written to the event recorder. (R351) -/
def Obligations.DoubleTrap : Prop :=
  ∀ (s : State) (st : StreamId) (code : BitVec 8) (tval epc : Word) (int recov : Bool) (slot : Nat) (lanes : Lanes),
    (s.stream st).csr.insvc = true →
    let t := s.service st code tval int slot recov lanes epc
    t.edge.recCount = s.edge.recCount + 1 ∧
    (st.isSuper = false → (t.stream st).stop = .halted ∧ (t.stream st).pend = [] ∧
      t.sched.ending = s.sched.ending ++ [(st, true, code.toNat)] ∧
      t.agenda = s.agenda ++ [.row .rerun (.streamFlagWord st true (code.setWidth 64))]) ∧
    (st.isSuper = true → (t.stream st).csr.priv = 3 ∧ (t.stream st).pc = Config.monitorEntry.setWidth 64)

/-- wfi stops the stream (on a wave the path's lanes) unless what ends it is pending already, when it ends at once (log entry
16); halt stops a tile context or, at K, a supervisor core, and makes a wave path's threads inactive; tlbi at K or above asks
for its shoot-down, cmaint for its maintenance once its address translates, and the stream's next bundle waits for them. (R149,
R150, R151, R152) -/
def Obligations.WaitAndHalt : Prop :=
  ∀ (o : SOp) (s : State), s.testS o.pred = true →
    let st := s.iss.st
    let c := (s.stream st).csr
    (s.admits (.wfi o) = true → ∃ t, exec (.wfi o) s = .next t ∧
      (s.wakes st = true → (t.stream st).stop = (s.stream st).stop ∧ (t.stream st).thr.wfi = (s.stream st).thr.wfi) ∧
      (s.wakes st = false → st.isWave = false → (t.stream st).stop = .wfi) ∧
      (s.wakes st = false → st.isWave = true → (t.stream st).thr.wfi = (s.stream st).thr.wfi ||| s.iss.lanes)) ∧
    (s.admits (.halt o) = true →
      (st.isWave = false → (st.isSuper = true → c.priv ≠ 0) → (st.isSuper = false → c.insvc = false ∧ c.inuli = false) →
        ∃ t, exec (.halt o) s = .next t ∧ (t.stream st).stop = .halted) ∧
      (st.isWave = true → c.insvc = false → c.inuli = false → ∃ t, exec (.halt o) s = .next t ∧
        (t.stream st).thr.active = (s.stream st).thr.active &&& ~~~s.iss.lanes)) ∧
    (c.priv ≠ 0 → s.gives (.tlbi o) fun t =>
      (t.modStream st fun x => { x with tlbiWait := x.tlbiWait ++ [⟨o.sub 0 2, o.sub 2 2, (s.sA o).toNat % 2 ^ 48, (s.sB o).setWidth 16⟩] }).row
        .tlbiCompletion (.stream st)) ∧
    (∀ es, (o.sub 0 3 < 5 ∨ c.priv ≠ 0) →
      (if 1 ≤ o.sub 0 3 ∧ o.sub 0 3 ≤ 3 then s.judge st 1 askRead [(0, (s.sA o).toNat % 2 ^ 48)] else .ok []) = .ok es →
      s.gives (.cmaint o) fun t =>
        (((t.settle st).maint st (o.sub 0 3) ((s.sA o).toNat % 2 ^ 48) es).modStream st fun x => { x with cmaintWait := true }).row
          .cmaintCompletion (.stream st))

/-! ## Vector operations -/

/-- The write of an element-wise operation over n elements of z bytes from byte b covers, for every element that participates,
its z bytes with the low bits of the element's value, and no other byte of the register; merged onto a register it leaves every
other byte as it was. (R162, R164, R98) -/
def Obligations.ElementWrites : Prop :=
  ∀ (b z n : Nat) (part : Nat → Bool) (f : Nat → Nat) (old : VWord), 0 < z → b + z * n ≤ 128 →
    let w := vmap b z n part f
    (∀ k < n, part k = true → elemAt w.val (8 * b) z k = f k % 2 ^ (8 * z) ∧ elemAt (w.onto old) (8 * b) z k = f k % 2 ^ (8 * z)) ∧
    (∀ j < 128, w.mask.getLsbD j = true ↔ ∃ k < n, part k = true ∧ b + z * k ≤ j ∧ j < b + z * k + z) ∧
    (∀ j < 128, w.mask.getLsbD j = false → (w.onto old).extractLsb' (8 * j) 8 = old.extractLsb' (8 * j) 8)

/-- Each integer operation of R169 completes and writes to each participating element the exact result on the signed or unsigned
elements, wrapped, clamped with MSTAT.SATD, or floored as the table says; vabs and vneg on floating-point types clear and invert
the sign bit. (R169, R170, R107) -/
def Obligations.VectorIntegerResults : Prop :=
  ∀ (o : VOp) (s : State),
    let N := 8 * o.ty.bytes
    let M := 2 ^ N
    let v := fun (x : Nat) => if o.ty.signed then (BitVec.ofNat N x).toInt else (x : Int)
    let low := fun (x : Int) => (x % (M : Nat)).toNat
    let a := fun k => v (s.elA o k)
    let b := fun k => v (s.elB o k)
    let c := fun k => v (s.elC o k)
    let lo : Int := if o.ty.signed then -(2 ^ (N - 1) : Nat) else 0
    let hi : Int := if o.ty.signed then (2 ^ (N - 1) : Nat) - 1 else (M : Nat) - 1
    let sat := fun (x : Int) => (⟨low (max lo (min hi x)), 0, if x < lo ∨ hi < x then mSATD else 0⟩ : FRes)
    s.givesE (.vadd o) o 2 (fun k => low (a k + b k)) ∧
    s.givesE (.vsub o) o 2 (fun k => low (a k - b k)) ∧
    s.givesE (.vmul o) o 2 (fun k => low (a k * b k)) ∧
    s.givesE (.vmulh o) o 2 (fun k => low (a k * b k / (M : Nat))) ∧
    s.givesE (.vmad o) o 2 (fun k => low (a k * b k + c k)) ∧
    (o.ty.isFp = false → s.givesE (.vabs o) o 2 (fun k => low (a k).natAbs)) ∧
    (o.ty.isFp = false → s.givesE (.vneg o) o 2 (fun k => low (-a k))) ∧
    (o.ty.isFp = true → s.givesE (.vabs o) o 4 (fun k => s.elA o k % (M / 2))) ∧
    (o.ty.isFp = true → s.givesE (.vneg o) o 4 (fun k => s.elA o k ^^^ (M / 2))) ∧
    s.givesE (.vmin o) o 2 (fun k => if b k < a k then s.elB o k else s.elA o k) ∧
    s.givesE (.vmax o) o 2 (fun k => if b k < a k then s.elA o k else s.elB o k) ∧
    s.givesR (.vadds o) o 2 false (fun k => sat (a k + b k)) ∧
    s.givesR (.vsubs o) o 2 false (fun k => sat (a k - b k)) ∧
    s.givesE (.vavg o) o 2 (fun k => low ((a k + b k + 1) / 2)) ∧
    s.givesE (.vsad o) o 2 (fun k => low ((a k - b k).natAbs + c k))

/-- Each bitwise operation, shift, count and field operation completes and writes its result to each participating element; vcmp
writes its condition to every bit of Pd of a participating element, vplog its truth table to the bits of participating bytes;
vsel chooses by Pc; vpcnt, vpfirst and vpany give the count, the first and the any or all of the participating elements whose
bit of Pa is 1. (R171, R172, R181, R182, R180, R183) -/
def Obligations.VectorBitResults : Prop :=
  ∀ (o : VOp) (s : State),
    let N := 8 * o.ty.bytes
    let M := 2 ^ N
    let a := s.elA o
    let b := s.elB o
    let c := s.elC o
    let d := s.elD o
    let n := spanCount o o.ty.bytes
    let bitOf := fun (p : PWord) (k : Nat) => p.getLsbD (spanByte o + o.ty.bytes * k)
    let q := fun k => s.takes o o.ty k && bitOf (s.srcP o.a) k
    let writes := fun (t : ElTy) (part : Nat → Bool) => (vmap (spanByte o) t.bytes (spanCount o t.bytes) part fun _ => 0).mask
    s.givesE (.vand o) o 2 (fun k => a k &&& b k) ∧
    s.givesE (.vor o) o 2 (fun k => a k ||| b k) ∧
    s.givesE (.vxor o) o 2 (fun k => a k ^^^ b k) ∧
    s.givesE (.vandn o) o 2 (fun k => a k &&& (M - 1 - b k)) ∧
    s.givesE (.vshl o) o 2 (fun k => a k * 2 ^ (b k % N) % M) ∧
    s.givesE (.vshr o) o 2 (fun k => a k / 2 ^ (b k % N)) ∧
    s.givesE (.vsar o) o 2 (fun k => ((BitVec.ofNat N (a k)).sshiftRight (b k % N)).toNat) ∧
    s.givesE (.vclz o) o 2 (fun k => ((List.range N).find? fun j => (a k).testBit (N - 1 - j)).getD N) ∧
    s.givesE (.vpopc o) o 2 (fun k => ((List.range N).filter fun j => (a k).testBit j).length) ∧
    s.givesE (.vbsel o) o 2 (fun k => (a k &&& c k) ||| (b k &&& (M - 1 - c k))) ∧
    s.givesE (.vbfx o) o 2 (fun k => eBfx o.ty (a k) (b k) (c k)) ∧
    s.givesE (.vbfi o) o 2 (fun k => eBfi o.ty (d k) (a k) (b k) (c k)) ∧
    (o.ty.isInt = true → ∀ cond, o.sub 0 3 = cond → s.gives (.vcmp o) fun u =>
      u.putP 2 o.dst (writes o.ty (s.takes o o.ty) &&& u.own)
        (writes o.ty fun k => s.takes o o.ty k && eCmp o.ty cond (a k) (b k)) 0) ∧
    (o.ty.isInt = false → s.gives (.vcmp o) fun u =>
      let r := fun k => fCompare (o.sub 0 3) (s.fElem o.ty (a k)) (s.fElem o.ty (b k))
      u.putP 2 o.dst (writes o.ty (s.takes o o.ty) &&& u.own) (writes o.ty fun k => s.takes o o.ty k && (r k).1)
        (((List.range n).filter (s.takes o o.ty)).foldl (fun f k => f ||| (r k).2) 0)) ∧
    s.givesE (.vsel o) o 2 (fun k => if bitOf (s.srcP o.c) k then a k else b k) ∧
    (∃ v : PWord, (∀ j < 128, v.getLsbD j =
        (o.sub 0 4).testBit (2 * ((s.srcP o.a).getLsbD j).toNat + ((s.srcP o.b).getLsbD j).toNat)) ∧
      s.gives (.vplog o) fun u => u.putP 2 o.dst (writes .i8 (s.takes o .i8) &&& u.own) v 0) ∧
    s.gives (.vpcnt o) (fun u => u.putS 2 o.dst (BitVec.ofNat 64 ((List.range n).filter q).length) 0 0) ∧
    s.gives (.vpfirst o) (fun u => u.putS 2 o.dst (BitVec.ofNat 64 (((List.range n).find? q).getD n)) 0 0) ∧
    s.gives (.vpany o) (fun u =>
      let ks := (List.range n).filter (s.takes o o.ty)
      let x := if o.sub 0 1 = 1 then ks.all (bitOf (s.srcP o.a)) else ks.any (bitOf (s.srcP o.a))
      u.putP 2 o.dst u.own (if x then BitVec.allOnes 128 else 0) 0)

/-- With lsb = b mod N and w = min(c mod 2N, N − lsb), vbfx gives the w bits of an N-bit a from lsb, extended by the type, 0 for
w = 0; vbfi gives an N-bit d with bits [lsb+w−1:lsb] replaced by the low w bits of a. (R172) -/
def Obligations.FieldOperations : Prop :=
  ∀ (t : ElTy) (a b c d : Nat),
    let N := 8 * t.bytes
    let lsb := b % N
    let w := min (c % (2 * N)) (N - lsb)
    a < 2 ^ N → d < 2 ^ N →
    (w = 0 → eBfx t a b c = 0) ∧
    (0 < w → ∀ j < N, (eBfx t a b c).testBit j =
      if j < w then a.testBit (lsb + j) else (t.signed && a.testBit (lsb + w - 1))) ∧
    eBfx t a b c < 2 ^ N ∧
    (∀ j < N, (eBfi t d a b c).testBit j = if lsb ≤ j ∧ j < lsb + w then a.testBit (j - lsb) else d.testBit j) ∧
    eBfi t d a b c < 2 ^ N

/-- Each floating-point operation and special function completes: each participating element, after FTZI, gives the format's
result under the operation's effective mode with the element's number in the register, its flags raised, and one SR step for the
operation when it rounds under SR; vfmin and vfmax do not round; vcvt converts each element of its part, without an SR step
between integers. In every format and mode: a NaN operand gives the canonical NaN, with NV exactly for a signalling one; the
difference of equal infinities, zero times infinity, 0 ÷ 0, ∞ ÷ ∞ and the root of a negative number give the canonical NaN with
NV; a finite nonzero number divided by zero gives the infinity of its sign with DZ. (R173, R174, R175, R176, R69, R54, R61, R68)
-/
def Obligations.VectorFloatResults : Prop :=
  (∀ (o : VOp) (s : State),
     let f := ElTy.fmt o.ty
     let e := s.effV o o.ty
     let sr := e.rm == 5
     let j := fun k => spanByte o / o.ty.bytes + k
     let val := fun (x : Nat) => f.decodeIn (modeFtzi s.mode o.ty) x
     let A := fun k => val (s.elA o k)
     let B := fun k => val (s.elB o k)
     let C := fun k => val (s.elC o k)
     let ftzo := modeFtzo s.mode o.ty
     s.givesR (.vfadd o) o 4 sr (fun k => f.add e (j k) (A k) (B k)) ∧
     s.givesR (.vfsub o) o 4 sr (fun k => f.add e (j k) (A k) (B k).negate) ∧
     s.givesR (.vfmul o) o 4 sr (fun k => f.mul e (j k) (A k) (B k)) ∧
     s.givesR (.vffma o) o 4 sr (fun k => f.fma e (j k) (A k) (B k) (C k)) ∧
     s.givesR (.vfmin o) o 4 false (fun k => f.pick ftzo false (A k) (B k)) ∧
     s.givesR (.vfmax o) o 4 false (fun k => f.pick ftzo true (A k) (B k)) ∧
     s.givesR (.vrcp o) o 8 sr (fun k => fnResult f e (j k) 0x28 (A k)) ∧
     s.givesR (.vrsq o) o 8 sr (fun k => fnResult f e (j k) 0x29 (A k)) ∧
     s.givesR (.vsqrt o) o 8 sr (fun k => fnResult f e (j k) 0x2A (A k)) ∧
     s.givesR (.vexp2 o) o 8 sr (fun k => fnResult f e (j k) 0x2B (A k)) ∧
     s.givesR (.vlog2 o) o 8 sr (fun k => fnResult f e (j k) 0x2C (A k)) ∧
     s.givesR (.vsin o) o 8 sr (fun k => fnResult f e (j k) 0x2D (A k)) ∧
     s.givesR (.vcos o) o 8 sr (fun k => fnResult f e (j k) 0x2E (A k)) ∧
     s.givesR (.vtanh o) o 8 sr (fun k => fnResult f e (j k) 0x2F (A k)) ∧
     (let y := VOp.cvtSrc o
      let r := fun k => convertEl s.mode y o.ty e (j (cvtPair o k).2) (elem o y (s.srcV y o.imm o.a) (cvtPair o k).1)
      let ks := (List.range (spanLen o / max y.bytes o.ty.bytes)).filter fun k => s.takes o o.ty (cvtPair o k).2
      s.gives (.vcvt o) fun t =>
        let fl := orFlags (ks.map r)
        let w := ks.foldl (fun w k => w.add (spanByte o + o.ty.bytes * (cvtPair o k).2) o.ty.bytes (r k).bits) VWrite.empty
        let u := t.putElems 3 o.dst w fl.1 fl.2
        if sr && !(y.isInt && o.ty.isInt) then u.stepSr else u)) ∧
  (∀ (f : Fmt) (e : Eff) (j : Nat) (x : FVal) (a b : Bool) (m : Nat) (u : Int),
     let nan := fun (sig : Bool) => (⟨f.nan, if sig then fNV else 0, 0⟩ : FRes)
     (∀ q, x.isNan = false → f.add e j (.nan q) x = nan q ∧ f.add e j x (.nan q) = nan q ∧
       f.mul e j (.nan q) x = nan q ∧ f.mul e j x (.nan q) = nan q ∧
       f.div e j (.nan q) x = nan q ∧ f.div e j x (.nan q) = nan q ∧ f.sqrt e j (.nan q) = nan q) ∧
     f.add e j (.inf a) (.inf (!a)) = nan true ∧
     f.mul e j (.inf a) (.fin b 0 u) = nan true ∧ f.mul e j (.fin b 0 u) (.inf a) = nan true ∧
     f.div e j (.fin a 0 u) (.fin b 0 u) = nan true ∧ f.div e j (.inf a) (.inf b) = nan true ∧
     (0 < m → f.sqrt e j (.fin true m u) = nan true) ∧ f.sqrt e j (.inf true) = nan true ∧
     (0 < m → f.div e j (.fin a m u) (.fin b 0 u) = ⟨f.inf (a ^^ b), fDZ, 0⟩))

/-- On a tile context, or a wave whose issuing path holds every lane, vquant completes, delivering the 8-bit elements to its
destination and the block scale to its Vw register, and vdeq completes, delivering four registers of f32 elements; each takes
one SR step when it rounds under SR. That a scale given as one or idx is filled in f32, and that the scale of vquant lands after
its elements, is read by inference (log entries 45 and 28). On a wave with a partial path both take #CONV with the lanes in
TVAL. (R177, R178, R179) -/
def Obligations.BlockQuantisation : Prop :=
  ∀ (o : VOp) (s : State),
    let st := s.iss.st
    let x := s.stream st
    let whole := st.isWave = true → s.iss.lanes = BitVec.allOnes 32
    (whole → s.gives (.vquant o) fun u =>
      let v := fun j => s.fElem .f32 (elemAt (x.readV (BitVec.ofNat 6 (Src.num o.a + j / 32))) 0 4 (j % 32))
      let ks := (List.range 128).filter (s.takes o o.ty)
      let m := match ks.filterMap fun j => (v j).magnitude with | [] => none | h :: t => some (t.foldl maxMag h)
      let scale := quantScale o.ty (o.sub 5 1 == 1) m
      let e := s.effV o o.ty
      let r := fun j => quantElem o.ty e j (scaleVal scale) (v j)
      let fl := orFlags (ks.map r)
      let w := VWrite.empty.add (4 * o.sub 0 5) 4 scale
      let u := u.putElems 6 o.dst (s.elems o o.ty fun j => (r j).bits) fl.1 fl.2
      let u := u.deliver { u.result 6 (.v (BitVec.ofNat 6 (Src.num o.b))) o.dst.nw w.mask w.val 0 0 with latch := false }
      if e.rm == 5 then u.stepSr else u) ∧
    (whole → s.gives (.vdeq o) fun u =>
      let e := s.effV o .f32
      let scale := elemAt (s.srcV .f32 o.imm o.b) 0 4 (o.sub 0 5)
      let r := fun j => deqElem o.ty e (modeFtzi s.mode o.ty) (j % 32) scale (elemAt (s.vA o) 0 1 j)
      let on := fun j => x.test o.pred j
      let fl := orFlags (((List.range 128).filter on).map r)
      let u := (List.range 4).foldl (fun u q =>
        let w := vmap 0 4 32 (fun k => on (32 * q + k)) fun k => (r (32 * q + k)).bits
        u.deliver { u.result 4 (.v (o.dst.reg + BitVec.ofNat 6 q)) o.dst.nw w.mask w.val
                      (if q = 0 then fl.1 else 0) (if q = 0 then fl.2 else 0) with latch := q == 0 }) u
      if e.rm == 5 then u.stepSr else u) ∧
    (∀ i ∈ [Instr.vquant o, .vdeq o], st.isWave = true → s.iss.lanes ≠ BitVec.allOnes 32 → s.admits i = true →
      exec i s = .next (s.trap 0x07 (s.iss.lanes.setWidth 64) s.iss.slot.code))

/-- vtbl, vperm, vslide, vshfl, vbcast, vext, vins, vzip, vunzip, vmov, vli and vlane complete, and each participating byte or
element of the result is the source byte or element that its rule names. (R184, R185, R186, R187, R188, R189, R194) -/
def Obligations.PermuteResults : Prop :=
  ∀ (o : VOp) (s : State),
    let z := o.ty.bytes
    let n := spanCount o z
    let m := 32 * frets o.width
    let h := o.sub 0 1
    let byte := fun (x : VWord) (j : Nat) => (x.extractLsb' (8 * (spanByte o + j)) 8).toNat
    let A := byte (s.vA o)
    let B := byte (s.vB o)
    let C := byte (s.vC o)
    let a := s.elA o
    let b := s.elB o
    let i := (s.vBs o).toNat % n
    let wid := fun k => s.widOf s.iss.st k
    let x := s.stream s.iss.st
    let mode := o.sub 5 2
    let d := o.sub 0 5
    s.givesE (.vtbl o) o 2 (fun j => B (16 * (j / 16) + if h = 1 then A j / 16 else A j % 16)) ∧
    s.givesE (.vperm o) o 2 (fun j => if C j < m then A (C j) else if C j < 2 * m then B (C j - m) else 0) ∧
    s.givesE (.vslide o) o 2 (fun j => if j + o.sub 0 7 < m then A (j + o.sub 0 7) else B (j + o.sub 0 7 - m)) ∧
    (mode = 0 → s.givesE (.vshfl o) o 3 fun k => a (b k % n)) ∧
    (mode = 1 → s.givesE (.vshfl o) o 3 fun k => a (if k ^^^ d < n then k ^^^ d else k)) ∧
    (mode = 2 → s.givesE (.vshfl o) o 3 fun k => a (if d ≤ k then k - d else k)) ∧
    (mode = 3 → s.givesE (.vshfl o) o 3 fun k => a (if k + d < n then k + d else k)) ∧
    s.givesE (.vbcast o) o 2 (fun _ => a i) ∧
    (x.test o.pred (spanByte o + z * i) = true → s.gives (.vext o) fun u => u.putS 2 o.dst
      (if o.ty.signed then (BitVec.ofNat (8 * z) (a i)).signExtend 64 else BitVec.ofNat 64 (a i)) 0 0) ∧
    (x.test o.pred (spanByte o + z * i) = false → s.gives (.vext o) fun u => u) ∧
    s.gives (.vins o) (fun u => u.putElems 2 o.dst
      (vmap (spanByte o) z n (fun k => k == i && s.takes o o.ty k) fun _ => (s.vAs o).toNat % 2 ^ (8 * z)) 0 0) ∧
    s.givesE (.vzip o) o 2 (fun k => if k % 2 = 0 then a (h * (n / 2) + k / 2) else b (h * (n / 2) + k / 2)) ∧
    s.givesE (.vunzip o) o 2 (fun k => if 2 * k + h < n then a (2 * k + h) else b (2 * k + h - n)) ∧
    s.givesE (.vmov o) o 2 a ∧
    s.givesE (.vmovS o) o 2 (fun _ => (s.vAs o).toNat % 2 ^ (8 * z)) ∧
    (o.ty = .i64 → s.givesE (.vli o) o 2 fun _ => ((BitVec.ofNat 32 (fld o.data 0 32)).signExtend 64).toNat) ∧
    (o.ty ≠ .i64 → s.givesE (.vli o) o 2 fun _ => fld o.data 0 32 % 2 ^ (8 * z)) ∧
    (o.sub 0 4 = 8 → s.givesE (.vlane o) o 2 fun k => k % 2 ^ (8 * z)) ∧
    (∀ c < 6, o.sub 0 4 = c → s.givesE (.vlane o) o 2 fun k =>
      fld (wid k) ((List.range c).map fun i => fld x.csr.widf (6 * i) 6).sum (fld x.csr.widf (6 * c) 6) % 2 ^ (8 * z))

/-- vredadd, vredmin, vredmax and vredlog on integer types combine the participating elements from the identity of R190 and
write the one result to every element of the span; on floating-point types vredmin and vredmax take the minimum or maximum under
the rules of fminmax, +0 of none; vfredadd sums by the tree of R192 and takes one SR step; vscan writes the running combination
to each participating element. (R190, R191, R192, R193) -/
def Obligations.ReductionResults : Prop :=
  ∀ (o : VOp) (s : State),
    let M := 2 ^ (8 * o.ty.bytes)
    let n := spanCount o o.ty.bytes
    let v := ElTy.val o.ty
    let taken := ((List.range n).filter (s.takes o o.ty)).map (s.elA o)
    let before := fun k => ((List.range k).filter (s.takes o o.ty)).map (s.elA o)
    let lesser := fun (a b : Nat) => if v a ≤ v b then a else b
    let greater := fun (a b : Nat) => if v a ≤ v b then b else a
    let op := o.sub 0 2
    s.givesAll (.vredadd o) o 6 (taken.sum % M) 0 ∧
    (o.ty.isFp = false → s.givesAll (.vredmin o) o 6 (taken.foldl lesser (minUnit o.ty)) 0) ∧
    (o.ty.isFp = false → s.givesAll (.vredmax o) o 6 (taken.foldl greater (maxUnit o.ty)) 0) ∧
    (o.ty.isFp = true → let r := s.reducePick o false; s.givesAll (.vredmin o) o 6 r.bits r.ff) ∧
    (o.ty.isFp = true → let r := s.reducePick o true; s.givesAll (.vredmax o) o 6 r.bits r.ff) ∧
    (op = 0 → s.givesAll (.vredlog o) o 6 (taken.foldl (· &&& ·) (M - 1)) 0) ∧
    (op = 1 → s.givesAll (.vredlog o) o 6 (taken.foldl (· ||| ·) 0) 0) ∧
    (op = 2 → s.givesAll (.vredlog o) o 6 (taken.foldl (· ^^^ ·) 0) 0) ∧
    (∀ excl : Bool, o.sub 2 1 = b2n excl →
      let upto := fun k => before (if excl then k else k + 1)
      (op = 0 → s.givesE (.vscan o) o 6 fun k => (upto k).sum % M) ∧
      (op = 1 → s.givesE (.vscan o) o 6 fun k => (upto k).foldl lesser (minUnit o.ty)) ∧
      (op = 2 → s.givesE (.vscan o) o 6 fun k => (upto k).foldl greater (maxUnit o.ty))) ∧
    (let f := ElTy.fmt o.ty
     let e := s.effV o o.ty
     let part := s.takes o o.ty
     let flush := fun (x : Nat) => if modeFtzi s.mode o.ty && f.subnormal x then f.sign (x.testBit (f.ebits + f.mbits)) else x
     let leaves := (List.range n).map fun k => if part k then some (flush (s.elA o k)) else none
     let nv : BitVec 5 := if (s.fTaken o).any fun v => v.isSnan then fNV else 0
     let sum := treeSum f e 8 0 leaves (nv, 0)
     let out : FRes := match sum.1 with
       | none => ⟨0, 0, 0⟩
       | some x => match f.decode x with
         | .nan _ => ⟨f.nan, 0, 0⟩
         | .inf a => ⟨f.inf a, 0, 0⟩
         | .fin a m u => f.round { e with rm := 1 } 0 ⟨a, m, u, false⟩
     s.gives (.vfredadd o) fun t =>
       let u := t.putElems 8 o.dst (vmap (spanByte o) o.ty.bytes n
         (fun k => !s.iss.st.isWave || bit s.iss.lanes ((spanByte o + o.ty.bytes * k) / 4) || s.upper (spanByte o) o.ty.bytes k) fun _ => out.bits)
        (sum.2.1 ||| out.ff) (sum.2.2 ||| out.mf)
       if e.rm == 5 then u.stepSr else u)

/-! ## Loads, stores and atomics -/

/-- A global load whose participating elements, at the addresses of R196 modulo 2^48, are aligned, translated and permitted
completes: its load issues with those elements, due 8 clocks on; lane-wise forms on a shader core have one element a lane; gld
streams, without its elements of DEV pages. A misaligned element takes #ALIGN with its address. (R196, R197, R198, R199, R202,
R206) -/
def Obligations.LoadsComplete : Prop :=
  ∀ (o : LOp) (s : State) (es : List Elem),
    let st := s.iss.st
    let x := s.stream st
    let z := o.ty.bytes
    let base := (s.srcS 0 o.base).toInt
    let off := o.imm.toInt * z
    let lane := st.isWave
    let pitch := if lane then 4 else z
    let n := 32 * frets o.width / z
    let listed := fun (n : Nat) (p : Nat → Bool) (addr : Nat → Int) => ((List.range n).filter p).map fun k => (k, wrap 48 (addr k))
    let part := fun (z k : Nat) => s.part o.pred 0 z k
    let load := fun (lw strm : Bool) (l : List Elem) =>
      (⟨x.time + 8, x.seq, if o.vfile then .v o.reg else .s o.reg, o.nw, o.ty, lw, s.own, l, strm⟩ : Load)
    let gives := fun (i : Instr) (l : List (Nat × Nat)) (lw strm : Bool) =>
      s.judge st z askRead l = .ok es →
      s.gives i fun t => t.issueLoad (load lw strm (es.filter fun e => !(strm && e.x.ty = 3))) o.order o.scope.toNat
    let straight := listed n (part z) fun k => base + (s.srcS 0 o.index).toInt + off + k * z
    let lanes := if lane then 32 else n
    (s.testS o.pred = true → gives (.ld o) [(0, wrap 48 (base + (s.srcS 0 o.index).toInt + off))] false false) ∧
    gives (.vld o) straight false false ∧
    gives (.gld o) straight false true ∧
    gives (.vlds o) (listed lanes (part pitch) fun k => base + off + k * (s.srcS 0 o.index).toInt) lane false ∧
    gives (.vldg o) (listed lanes (part pitch) fun k => base + s.index .perElement (LOp.acc o) k + off) lane false ∧
    (∀ va, va = wrap 48 (base + (s.srcS 0 o.index).toInt + off) → va % z ≠ 0 → s.testS o.pred = true → s.admits (.ld o) = true →
      exec (.ld o) s = .next (s.trap 0x03 (BitVec.ofNat 64 va) s.iss.slot.code))

/-- On a tile core, a scalar or contiguous tld and a tst whose elements are aligned, within the context's window or an attached
sash, and off a tile with an incomplete M operation, complete: tld delivers the elements' bytes after 4 clocks, tst writes the
low bytes of each element, with rel after the context's earlier accesses; an element outside takes #BOUNDS with the space and
offset. (R29, R30, R33, R209) -/
def Obligations.TypedBufferAccesses : Prop :=
  ∀ (s : State) (c : Nat) (b : Bool), s.iss.st = .tile c b →
    let st := s.iss.st
    let start := fun (o : WOp) (f : Form) (l : List Nat) (t : State) =>
      (if orderRel o.order then (t.settle st).release st (min 3 o.scope.toNat) else t).ownClear f o.ty l
    (∀ o : LOp,
      let f : Form := if o.vfile then .contiguous else .scalar
      let sp := fld o.imm 13 2
      let l := s.typedElements f (LOp.acc o) (fld o.imm 0 13 * o.ty.bytes : Nat)
      (f = .scalar → s.testS o.pred = true) → s.tileBusy st sp l = false →
      (s.judgeTyped st sp o.ty.bytes false l = none → s.gives (.tld o) fun t =>
        t.deliver (loadResult (t.loadOf o f 4 false []) .l
          (l.map fun e => (e.1, leNat ((t.tile c).bytes sp e.2.toNat o.ty.bytes))))) ∧
      (∀ r, s.judgeTyped st sp o.ty.bytes false l = some r → s.admits (.tld o) = true →
        exec (.tld o) s = .next (s.raise s.iss.slot.code r))) ∧
    (∀ o : WOp,
      let sp := fld o.imm 13 2
      let l := s.typedElements .contiguous (WOp.acc o) (fld o.imm 0 13 * o.ty.bytes : Nat)
      s.tileBusy st sp l = false → s.judgeTyped st sp o.ty.bytes true l = none → s.gives (.tst o) fun t =>
        l.foldl (fun t e => t.putSpace st sp e.2.toNat
          (leBytes o.ty.bytes (elemAt (s.srcV o.ty 0 o.data) 0 o.ty.bytes e.1 % 2 ^ (8 * o.ty.bytes))))
          (start o .contiguous (l.map (·.1)) t)) ∧
    (∀ (sp z : Nat) (write : Bool) (k : Nat) (off : Int) (l : List (Nat × Int)), off % z = 0 →
      (off < 0 ∨ ∃ j < z, (s.stream st).reaches st sp (off.toNat + j) write = false) →
      s.judgeTyped st sp z write ((k, off) :: l) = some (.service 0x0C (BitVec.ofNat 64 (sp * 2 ^ 62 + wrap 24 off))))

/-- On a wave, a tld or tst whose elements, one for each participating lane at its own offset, are aligned and within the
group's allocation completes: tld delivers the elements of the group store, tst writes them from the group's base, with rel
after the wave's earlier accesses. (R33, R209) -/
def Obligations.GroupStoreAccesses : Prop :=
  ∀ (s : State) (c w : Nat), s.iss.st = .wave c w →
    let st := s.iss.st
    (∀ o : LOp,
      let sp := fld o.imm 13 2
      let l := s.typedElements .perElement (LOp.acc o) (fld o.imm 0 13 * o.ty.bytes : Nat)
      s.judgeTyped st sp o.ty.bytes false l = none → s.gives (.tld o) fun t =>
        t.deliver (loadResult (t.loadOf o .perElement 4 false []) .l (l.map fun e =>
          (e.1, leNat (Mem.bytes (t.shader c).gs (1024 * fld (t.stream st).csr.gswin 0 8 + e.2.toNat) o.ty.bytes))))) ∧
    (∀ o : WOp,
      let sp := fld o.imm 13 2
      let l := s.typedElements .perElement (WOp.acc o) (fld o.imm 0 13 * o.ty.bytes : Nat)
      s.judgeTyped st sp o.ty.bytes true l = none → s.gives (.tst o) fun t =>
        l.foldl (fun t e => t.putSpace st sp e.2.toNat (leBytes o.ty.bytes (s.stored o .perElement e.1)))
          ((if orderRel o.order then (t.settle st).release st (min 3 o.scope.toNat) else t).ownClear .perElement o.ty (l.map (·.1))))

/-- An atomic whose elements pass the checks of a read and a write, and whose release is acknowledged, completes: in increasing
element order the old value is read and the new one of R211 written at the place of execution, and unless nw the old values
return; amcas writes register d + 1 only where the old value equals register d. ldx sets reservations and delivers the values. A
write to the counter region releases at device scope (R448); that nw enters no latch is log entry 54. (R210, R211, R212, R332,
R448) -/
def Obligations.AtomicsComplete : Prop :=
  ∀ (o : LOp) (s : State) (es : List Elem),
    let st := s.iss.st
    let scope := o.scope.toNat
    let f : Form := if o.vfile then .perElement else .scalar
    let m := 2 ^ (8 * o.ty.bytes)
    let v := fun (x : Nat) => ElTy.val o.ty x
    let ord := relOrder o.order es
    let sc := relScope scope es
    let push := fun (t : State) => if orderRel ord then t.release st sc else t
    let gives := fun (i : Instr) (g : Nat → Nat → Option Nat) =>
      s.judge st o.ty.bytes askRmw (s.elements f (LOp.acc o) (o.imm.toInt * o.ty.bytes)) = .ok es →
      (o.vfile = false → s.testS o.pred = true) → (orderRel ord = true → (push s).owes st (ackScope o.order sc) = false) →
      s.gives i fun t =>
        let t := (push (t.settle st)).ownClear f o.ty (es.map (·.k))
        let r := t.atomics st scope o.ty.bytes g es
        let t := (if orderAcq o.order then r.2.acquire st scope else r.2).poisonCheck st es
        if o.nw then t else t.giveBack (loadResult (t.loadOf o f 0 false []) .l r.1)
    let b := s.atomB o f 0
    gives (.amadd o) (fun k old => some ((old + b k) % m)) ∧
    gives (.ammin o) (fun k old => some (if v old ≤ v (b k) then old else b k)) ∧
    gives (.ammax o) (fun k old => some (if v old ≤ v (b k) then b k else old)) ∧
    gives (.amand o) (fun k old => some (old &&& b k)) ∧
    gives (.amor o) (fun k old => some (old ||| b k)) ∧
    gives (.amxor o) (fun k old => some (old ^^^ b k)) ∧
    gives (.amswp o) (fun k _ => some (b k)) ∧
    gives (.amcas o) (fun k old => if old = b k then some (s.atomB o f 1 k) else none) ∧
    gives (.amfadd o) (fun k old => some (sumRne .f32 old (b k))) ∧
    gives (.aminc o) (fun k old => some (if b k ≤ old then 0 else old + 1)) ∧
    (let f : Form := if st.isWave then .perElement else .scalar
     s.judge st o.ty.bytes askRead (s.elements f (LOp.acc o) (o.imm.toInt * o.ty.bytes)) = .ok es →
     (st.isWave = false → s.testS o.pred = true) →
     s.gives (.ldx o) fun t =>
       let t := if orderAcq o.order then (t.settle st).acquire st scope else t.settle st
       let r := t.exclusives st scope o.ty.bytes es
       (r.2.poisonCheck st es).deliver (loadResult (r.2.loadOf o f 8 false []) .l r.1))

/-- A global store whose elements pass the checks of a write, that finds room in the write buffer and whose release is
acknowledged, completes: each element, in order, is stored with the low bytes of its source. stx stores where its thread's
reservation holds, and writes success to its P register; cadd combines each element of a range into the cluster's partial; cwb
writes a line back as far as its scope; lpf of an address that translates fetches its line, and one that does not, or whose page
a walk in flight serves (log entry 18), is dropped. A store to the counter region releases at device scope; a store of more
lines than the buffer holds goes into an empty one (log entry 54). (R196, R201, R208, R217, R219, R343, R214, R207, R448) -/
def Obligations.StoresComplete : Prop :=
  ∀ (o : WOp) (s : State) (es : List Elem),
    let st := s.iss.st
    let z := o.ty.bytes
    let scope := o.scope.toNat
    let off := o.imm.toInt * z
    let a := WOp.acc o
    let start := fun (f : Form) (ord : MemOrder) (sc : Nat) (t : State) => ((t.settle st).pushed st ord sc).ownClear f o.ty (es.map (·.k))
    let ord := relOrder o.order es
    let sc := relScope scope es
    let gives := fun (i : Instr) (f : Form) (strm : Bool) =>
      (f = .scalar → s.testS o.pred = true) → s.judge st z askWrite (s.elements f a off) = .ok es →
      s.unacked st ord sc = false → (strm = false → s.wbFull st es = false) →
      s.gives i fun t => es.foldl (fun t e => t.writeElem st e.x z (s.stored o f e.k) strm) (start f ord sc t)
    gives (.st o) .scalar false ∧ gives (.vst o) .contiguous false ∧ gives (.vsts o) .strided false ∧
    gives (.vsct o) .perElement false ∧ gives (.gst o) .contiguous true ∧
    (let f : Form := if st.isWave then .perElement else .scalar
     (f = .scalar → s.testS o.pred = true) →
     s.judge st z askWrite (s.elements f a ((o.imm.setWidth 11).toInt * z)) = .ok es → s.unacked st o.order scope = false →
     s.gives (.stx o) fun t =>
       let r := ((t.settle st).pushed st o.order scope).storeConds st scope z (s.stored o f) es
       let d : ResDest := .p (BitVec.ofNat 4 (fld o.imm 11 4))
       if st.isWave then
         r.2.giveBack (r.2.result 0 d false (laneBytes (ofLanes (es.map (·.k)))) ((laneBytes (ofLanes r.1)).setWidth 1024) 0 0)
       else r.2.giveBack (r.2.result 0 d false (BitVec.allOnes 128)
         ((if r.1.isEmpty then 0#128 else BitVec.allOnes 128).setWidth 1024) 0 0)) ∧
    (let f : Form := if st.isWave then .perElement else .contiguous
     s.judgeAdd st o.ty (s.elements f a off) = .ok es → s.unacked st o.order scope = false →
     s.gives (.cadd o) fun t => es.foldl (fun t e => t.addPartial st o.ty e.x (s.stored o f e.k)) (start f o.order scope t)) ∧
    (s.testS o.pred = true → s.judge st z askWrite [(0, wrap 48 (s.address .scalar a off 0))] = .ok es →
     s.gives (.cwb o) fun t => es.foldl (fun t e => t.writeBack st e.x scope) (t.settle st)) ∧
    (∀ q : LOp, s.testS q.pred = true →
     s.gives (.lpf q) fun t =>
       let c := (t.stream st).csr
       let va := wrap 48 (s.address .scalar (LOp.acc q) (q.imm.toInt * q.ty.bytes) 0)
       if t.walking st c.asid va then t else match t.xlate st c.priv c.asid va askRead with
       | (.ok x, t) => t.prefetch st va x q.scope.toNat
       | (.error _, t) => t)

/-- After a stream has stored an element of n bytes to memory by a translation of a WB or WT page outside every commutative
range and every host's memory, the same stream's read of the element by that translation gives the low n bytes of the value,
whatever the caches, write buffers and directory hold. (R206, R208, R377, R378) -/
def Obligations.StoreThenLoadReturnsValue : Prop :=
  ∀ (s : State) (st : StreamId) (va n v : Nat) (x : Xl),
    (region x.pa).isMemory = true → s.gone x.pa = false → s.atHomeOnly x = false → x.pa % 128 + n ≤ 128 →
    ((s.writeElem st x n v false).readElem st va x n false).1 = v % 2 ^ (8 * n)

/-- When st, vst, vsts or vsct completes on a stream with a write buffer, relaxed, with no load outstanding and its elements in
memory on WB or WT pages outside the commutative ranges, every byte that the stream's write buffer holds outside the elements'
addresses is as before, memory at its homes and every other agent's view of it are as before, and so are the stream's registers
and every other stream. When tst without rel completes on a tile core, every byte of the three buffers outside its elements'
offsets in their space is as before, with the sideband of every accumulator element that it does not touch, and so are memory,
the stream's registers, every other stream and every other tile core's buffers. When tst without rel completes on a wave, every
byte of its core's group store outside its elements, at their offsets from the group's base, is as before, and so are memory,
the wave's registers, every other stream, every other core's group store and every tile core. When cadd without rel completes
with no load outstanding, no part of the memory system but the partials changes; a partial of another cluster or line is as
before, and in one that it combines into, a byte outside its elements is as before, that of an absent one the range's identity;
the stream's registers and every other stream are as before. When gst, a store of a supervisor core, an atomic, ldx or stx
completes without release and with no load outstanding, on memory lines that no cache, buffer, directory entry or partial holds
and that the caches have room for, every byte outside the written elements, as each cluster finds it, is as before (of ldx every
byte), and so are every register but the destination, the CSRs but LLOST, every other stream, the barriers, the typed buffers
and the sequencer. (R208, R376, R201, R29, R209, R33, R219, R343, R206, R210, R213, R217) -/
def Obligations.StoreFrame : Prop :=
  (∀ (o : WOp) (s : State) (es : List Elem) (t : State) (i : Instr) (f : Form),
     (i, f) ∈ [(.st o, .scalar), (.vst o, .contiguous), (.vsts o, .strided), (.vsct o, .perElement)] →
     let st := s.iss.st
     let x := s.stream st
     let z := o.ty.bytes
     let y := t.stream st
     s.admits i = true → (f = .scalar → s.testS o.pred = true) → st.isSuper = false → o.order = .rlx → x.loads = [] →
     s.judge st z askWrite (s.elements f (WOp.acc o) (o.imm.toInt * z)) = .ok es → s.wbFull st es = false →
     (∀ e ∈ es, (region e.x.pa).isMemory = true ∧ s.gone e.x.pa = false ∧ s.atHomeOnly e.x = false) →
     exec i s = .next t →
     (∀ pa, (∀ e ∈ es, ¬(e.x.pa ≤ pa ∧ pa < e.x.pa + z)) → y.buffered pa = x.buffered pa) ∧
     (∀ pa, Mem.get t.mm.mem pa = Mem.get s.mm.mem pa) ∧ (∀ pa n, t.peek pa n = s.peek pa n) ∧
     y.s = x.s ∧ y.v = x.v ∧ y.p = x.p ∧ y.svcSet = x.svcSet ∧ y.uliSet = x.uliSet ∧ y.pend = x.pend ∧
     y.csr.mode = x.csr.mode ∧ y.csr.fflags = x.csr.fflags ∧ y.csr.mflags = x.csr.mflags ∧
     (∀ u, u ≠ st → t.stream u = s.stream u) ∧ t.barriers = s.barriers ∧ t.sched = s.sched ∧ t.edge = s.edge) ∧
  (∀ (o : WOp) (s t : State) (c : Nat) (b : Bool), s.iss.st = .tile c b →
     let st := s.iss.st
     let z := o.ty.bytes
     let sp := fld o.imm 13 2
     let l := s.typedElements .contiguous (WOp.acc o) (fld o.imm 0 13 * z : Nat)
     s.admits (.tst o) = true → sp < 3 → s.tileBusy st sp l = false → s.judgeTyped st sp z true l = none → orderRel o.order = false →
     Mem.wf (s.tile c).wbuf = true → Mem.wf (s.tile c).abuf = true →
     exec (.tst o) s = .next t →
     let out := fun (k a : Nat) => sp = k → ∀ e ∈ l, ¬(e.2.toNat ≤ a ∧ a < e.2.toNat + z)
     (∀ a, out 0 a → Mem.get (t.tile c).wbuf a = Mem.get (s.tile c).wbuf a) ∧
     (∀ a, out 1 a → Mem.get (t.tile c).abuf a = Mem.get (s.tile c).abuf a) ∧
     (∀ a, out 2 a → (t.tile c).bytes 2 a 1 = (s.tile c).bytes 2 a 1) ∧
     (∀ k, (∀ j < 80, out 2 (80 * k + j)) → Table.get ⟨0, 0⟩ (t.tile c).kbuf k = Table.get ⟨0, 0⟩ (s.tile c).kbuf k) ∧
     (sp ≠ 2 → (t.tile c).kbuf = (s.tile c).kbuf) ∧ t.mm = s.mm ∧
     (t.stream st).s = (s.stream st).s ∧ (t.stream st).v = (s.stream st).v ∧ (t.stream st).p = (s.stream st).p ∧
     (∀ u, u ≠ st → t.stream u = s.stream u) ∧
     (∀ d, d ≠ c → (t.tile d).wbuf = (s.tile d).wbuf ∧ (t.tile d).abuf = (s.tile d).abuf ∧ (t.tile d).kbuf = (s.tile d).kbuf)) ∧
  (∀ (o : WOp) (s t : State) (c w : Nat), s.iss.st = .wave c w →
     let st := s.iss.st
     let z := o.ty.bytes
     let sp := fld o.imm 13 2
     let l := s.typedElements .perElement (WOp.acc o) (fld o.imm 0 13 * z : Nat)
     let g := 1024 * fld (s.stream st).csr.gswin 0 8
     s.admits (.tst o) = true → s.judgeTyped st sp z true l = none → orderRel o.order = false → Mem.wf (s.shader c).gs = true →
     exec (.tst o) s = .next t →
     (∀ a, (∀ e ∈ l, ¬(g + e.2.toNat ≤ a ∧ a < g + e.2.toNat + z)) → Mem.get (t.shader c).gs a = Mem.get (s.shader c).gs a) ∧
     t.mm = s.mm ∧ t.tiles = s.tiles ∧ (∀ d, d ≠ c → (t.shader d).gs = (s.shader d).gs) ∧
     (t.stream st).s = (s.stream st).s ∧ (t.stream st).v = (s.stream st).v ∧ (t.stream st).p = (s.stream st).p ∧
     (∀ u, u ≠ st → t.stream u = s.stream u)) ∧
  (∀ (o : WOp) (s t : State) (es : List Elem),
     let st := s.iss.st
     let z := o.ty.bytes
     let f : Form := if st.isWave then .perElement else .contiguous
     let j := joinIndex st.core
     s.admits (.cadd o) = true → orderRel o.order = false → (s.stream st).loads = [] →
     s.judgeAdd st o.ty (s.elements f (WOp.acc o) (o.imm.toInt * z)) = .ok es → exec (.cadd o) s = .next t →
     t.mm = { s.mm with partials := t.mm.partials } ∧
     (∀ k, (∀ e ∈ es, k ≠ (j, e.x.pa / 128)) → Table.find t.mm.partials k = Table.find s.mm.partials k) ∧
     (∀ ln op k, s.rangeOf ln = some (o.ty, op) → k < 128 → (∀ e ∈ es, ¬(e.x.pa ≤ 128 * ln + k ∧ 128 * ln + k < e.x.pa + z)) →
       let part := fun (u : State) => (Table.get (fillElems z fun _ => rangeUnit o.ty op) u.mm.partials (j, ln)).extractLsb' (8 * k) 8
       part t = part s) ∧
     (t.stream st).s = (s.stream st).s ∧ (t.stream st).v = (s.stream st).v ∧ (t.stream st).p = (s.stream st).p ∧
     (∀ u, u ≠ st → t.stream u = s.stream u) ∧ t.barriers = s.barriers ∧ t.sched = s.sched ∧ t.edge = s.edge) ∧
  (∀ (s t : State) (i : Instr) (es : List Elem),
     let st := s.iss.st
     let x := s.stream st
     let y := t.stream st
     let lines := (es.map fun e => e.x.pa / 128).eraseDups
     let frame := fun (z : Nat) (intoS intoV : BitVec 6 → Prop) (intoP : BitVec 4 → Prop) =>
       s.admits i = true → x.loads = [] → (∀ e ∈ es, (region e.x.pa).isMemory = true) → s.alone lines → (∀ w ∈ x.wbuf, w.line ∉ lines) →
       Mem.wf s.mm.mem = true → exec i s = .next t →
       (∀ c pa, (∀ e ∈ es, ¬(e.x.pa ≤ pa ∧ pa < e.x.pa + z)) → t.view c pa = s.view c pa) ∧
       (∀ k, intoS k ∨ File.get y.s k = File.get x.s k) ∧ (∀ k, intoV k ∨ File.get y.v k = File.get x.v k) ∧
       (∀ k, intoP k ∨ File.get y.p k = File.get x.p k) ∧ y.csr = { x.csr with llost := y.csr.llost } ∧
       (∀ u, u ≠ st → t.stream u = s.stream u) ∧ t.barriers = s.barriers ∧ t.sched = s.sched ∧ t.edge = s.edge ∧
       (∀ c, (t.tile c).wbuf = (s.tile c).wbuf ∧ (t.tile c).abuf = (s.tile c).abuf ∧ (t.tile c).kbuf = (s.tile c).kbuf)
     let none6 := fun (_ : BitVec 6) => False
     (∀ o : WOp, orderRel o.order = false →
       let judged := fun (f : Form) (off : Int) => s.judge st o.ty.bytes askWrite (s.elements f (WOp.acc o) off) = .ok es
       let off := o.imm.toInt * o.ty.bytes
       let f : Form := if st.isWave then .perElement else .scalar
       (i = .gst o → judged .contiguous off → frame o.ty.bytes none6 none6 fun _ => False) ∧
       (∀ g, st.isSuper = true → (i, g) ∈ [(.st o, .scalar), (.vst o, .contiguous), (.vsts o, .strided), (.vsct o, .perElement)] →
         judged g off → frame o.ty.bytes none6 none6 fun _ => False) ∧
       (i = .stx o → judged f ((o.imm.setWidth 11).toInt * o.ty.bytes) →
         frame o.ty.bytes none6 none6 fun k => k = BitVec.ofNat 4 (fld o.imm 11 4))) ∧
     (∀ o : LOp, orderRel o.order = false →
       let judged := fun (f : Form) (a : Ask) => s.judge st o.ty.bytes a (s.elements f (LOp.acc o) (o.imm.toInt * o.ty.bytes)) = .ok es
       let framed := fun (z : Nat) => frame z (fun k => o.vfile = false ∧ k = o.reg) (fun k => o.vfile = true ∧ k = o.reg) fun _ => False
       (i ∈ [.amadd o, .ammin o, .ammax o, .amand o, .amor o, .amxor o, .amswp o, .amcas o, .amfadd o, .aminc o] →
         judged (if o.vfile then .perElement else .scalar) askRmw → framed o.ty.bytes) ∧
       (i = .ldx o → judged (if st.isWave then .perElement else .scalar) askRead → framed 0)))

/-! ## Barriers, fences, tokens, flags, event counters -/

/-- With a legal mask, barph.arrive completes and arrives; bar completes once the instance that its bundle has arrived in is
complete, its wait is forgotten, and with order 011 it acquires; barph.wait completes when the instance of the latest
barph.arrive is complete. While the instance is incomplete a bar bundle is held, and its first presentation has arrived. For a
barrier of tile contexts with no arrival of a later instance, settling it leaves it as it is while some context of the first
arrival's mask has not arrived, and otherwise inverts its phase and clears its arrivals. (R221, R222, R229) -/
def Obligations.BarriersComplete : Prop :=
  (∀ (o : YOp) (s : State),
     let st := s.iss.st
     let acq := fun (t : State) => if orderAcq o.order then (t.settle st).acquire st o.scope.toNat else t
     (s.maskOk o = true → s.gives (.barphArrive o) fun t => t.arrive o true) ∧
     (s.maskOk o = true → (s.barFirst o).barOpen o.id.toNat = false → s.gives (.bar o) fun t =>
       acq ((t.barFirst o).modStream st fun x => { x with waiting := x.waiting.filter fun w => decide (w.pc ≠ s.pcOf st) })) ∧
     (s.maskOk o = true → (s.barFirst o).barOpen o.id.toNat = true → s.opens (.bar o) = true →
       exec (.bar o) s = .next ((s.modStream st fun x => { x with held := true }).barFirst o)) ∧
     (s.phOpen o.id.toNat = false → s.gives (.barphWait o) acq)) ∧
  (∀ (b : Barrier) (live : List StreamId) (n : Nat) (f : Arrival) (rest : List Arrival),
     b.arrivals = f :: rest → f.st.isTile = true → b.next = [] →
     let all := ∀ k < 8, f.n.testBit k = true → ∃ a ∈ b.arrivals, maskBit a.st = k
     (all → b.settle live (n + 1) = { b with phase := !b.phase, arrivals := [], next := [] }) ∧
     (¬all → b.settle live (n + 1) = b))

/-- fence completes once the acknowledgements that its release waits for have come, and orders as its order says; tkwait
completes when its token is not PENDING, acquiring for DONE at the completion scope, and raises what an ERROR token recorded;
tktest writes whether the token is DONE or ERROR; flagw completes when its flag is 1 and clears it unless KEEP; flagset sets a
flag of a core of the casement two clocks on; ulien sets UIE outside a ULI handler. (R223, R224, R225, R226, R227, R228) -/
def Obligations.FencesTokensAndFlags : Prop :=
  ∀ (o : YOp) (s : State),
    let st := s.iss.st
    let sc := o.scope.toNat
    let id := o.id.toNat
    let token := Table.get .idle (s.stream st).tokens id
    let pd : Dst := ⟨false, false, BitVec.ofNat 6 (fld o.imm 0 4)⟩
    (s.unacked st o.order sc = false → s.gives (.fence o) fun t =>
      let t := (t.settle st).pushed st o.order sc
      let t := if orderRel o.order && t.owes st (ackScope o.order sc) then
          t.modStream st fun x => { x with fenced := some (ackScope o.order sc) }
        else t
      if orderAcq o.order then t.acquire st sc else t) ∧
    (token = .idle → s.gives (.tkwait o) fun t => t) ∧
    (∀ c, token = .done c → s.gives (.tkwait o) fun t => (t.settle st).acquire st c) ∧
    (∀ c v, token = .error c v → s.admits (.tkwait o) = true → exec (.tkwait o) s = .next (s.trap c v s.iss.slot.code)) ∧
    (token = .pending → s.opens (.tkwait o) = true →
      exec (.tkwait o) s = .next (s.modStream st fun x => { x with held := true })) ∧
    (token = .idle ∨ token = .pending → s.gives (.tktest o) fun t => t.putP 1 pd t.own 0 0) ∧
    (∀ c, token = .done c → s.gives (.tktest o) fun t =>
      let u := (t.settle st).acquire st c
      u.putP 1 pd t.own (BitVec.allOnes 128) 0) ∧
    (∀ c v, token = .error c v → s.gives (.tktest o) fun t => t.putP 1 pd t.own (BitVec.allOnes 128) 0) ∧
    (∀ c b, st = .tile c b → (s.tile c).flags.getLsbD id = true → s.gives (.flagw o) fun t =>
      let t := if o.imm.getLsbD 0 then t
               else t.modTile c fun k => { k with flags := k.flags &&& ~~~(BitVec.twoPow 32 id) }
      if orderAcq o.order then (t.settle st).acquire st sc else t) ∧
    (∀ c b, st = .tile c b → s.gives (.flagset o) fun t =>
      let t := if orderRel o.order then (t.settle st).release st sc else t
      t.modTile (4 * (c / 4) + fld o.imm 0 2) fun k => { k with flagSets := k.flagSets ++ [(id, t.ltime)] }) ∧
    ((s.stream st).csr.inuli = false → s.gives (.ulien o) fun t =>
      t.modStream st fun x => { x with csr := { x.csr with uie := o.imm.getLsbD 0 } })

/-- On a counter below 4096 that the stream's ASID owns, evadd completes once its release is acknowledged: the counter has B
added and unless nw the old value returns after an acquire; evld returns the value; evarm sets, replaces or clears the trigger
of a target that the ASID may name (of a queue, whose descriptor it reads); evwait completes when the counter is at least B or
its wait was satisfied. A counter id of 4096 or more takes #BOUNDS, another's counter #PERM, with the id, evadd once its release
is acknowledged; that evwait and evarm do so at once, whatever their threshold, is log entry 34. (R155, R156, R157, R158, R160)
-/
def Obligations.EventCounterOperations : Prop :=
  ∀ (o : SOp) (s : State), s.testS o.pred = true →
    let st := s.iss.st
    let x := s.stream st
    let A := s.sA o
    let B := s.sB o
    let n := A.toNat
    let mine := n < 4096 ∧ s.ctrOwner n = x.csr.asid
    let word := fun (u : State) (v : Word) (nw : Bool) =>
      u.giveBack (u.result 0 (if o.dst.qo then .push (o.dst.reg.setWidth 2) else .s o.dst.reg) nw (BitVec.allOnes 128) (v.setWidth 1024) 0 0)
    let kind := o.sub 0 2
    let target := o.sub 2 25
    (mine → s.unacked st .rel 6 = false → s.gives (.evadd o) fun t =>
      let t := (t.settle st).release st 6
      let u := t.ctrAdd n B
      if o.dst.nw then u
      else
        (u.acquire st 6).giveBack (u.result 0 (if o.dst.qo then .push (o.dst.reg.setWidth 2) else .s o.dst.reg) false (BitVec.allOnes 128)
          ((t.ctr n).setWidth 1024) 0 0)) ∧
    (mine → s.gives (.evld o) fun t =>
      let t := (t.settle st).acquire st 6
      word t (t.ctr n) o.dst.nw) ∧
    (mine → s.armRaise kind target = none → s.gives (.evarm o) fun u => (if kind = 0 then u.lookQueue (target % 65536) else u).arm n
      (if kind = 3 then none
       else
         let job := if kind = 1 then (s.stream (ulTarget target)).job else none
         some ⟨B, kind, target, x.csr.asid, job, match job with | some j => s.runOf j | none => 0⟩)) ∧
    (mine → (B.toNat ≤ (s.ctr n).toNat ∨ x.satisfied n B (s.pcOf st) = true) → s.gives (.evwait o) fun t =>
      ((t.settle st).acquire st 6).modStream st fun x => x.dropAwait (s.pcOf st)) ∧
    (∀ i, i ∈ [Instr.evadd o, .evld o, .evarm o, .evwait o] → (i = .evadd o → s.unacked st .rel 6 = false) → s.admits i = true →
      (4096 ≤ n → exec i s = .next (s.trap 0x0C A s.iss.slot.code)) ∧
      (n < 4096 → s.ctrOwner n ≠ x.csr.asid → exec i s = .next (s.trap 0x05 A s.iss.slot.code)))

/-! ## Registers written as events, the control page, the fault rings -/

/-- A value that the register's map accepts is written and nothing else changes: MODE with every RND below 6 and bits [7:6] of
every group zero; FSTAT with [31:5] zero; CAUSE with PLEV not 2 and reserved bits zero; SVEC, on a tile core 3840 to 4095; UVEC,
on a tile core up to 3839; FAIRCFG 16 to 4096; LSTK with BASE[7:0] zero, DEPTH even; CURLIM 96 to 65535; CURWIN 16 to 255; a
16-bit ASID; PTBASE with reserved bits zero. Any other value, unless the register already holds it, takes #ILLOP, as does a
register that the core type lacks; a level that may not write it takes #PRIV. (R46, R59, R69, R141, R144, R257, R352, R353,
R399) -/
def Obligations.CsrWriteEvents : Prop :=
  ∀ (s : State) (st : StreamId) (v : Word) (f : Bool),
    let x := s.stream st
    let own := fun (g : Csrs → Csrs) => s.modStream st fun x => { x with csr := g x.csr }
    let core := fun (g : Common → Common) => s.modCommon st.core g
    let p := s.eventPath st
    let traps := fun (i : Instr) (c : BitVec 8) => x.stop = .running → exec i s = .next (s.service st c 0 false 0 false p.2 p.1)
    let writes := fun (i : Instr) (n : Nat) (ok : Prop) (t : State) =>
      (csrExists st.ctype n = false → traps i 0x01) ∧
      (csrExists st.ctype n = true → csrAllowed x.csr.priv true n = false → traps i 0x02) ∧
      (csrExists st.ctype n = true → csrAllowed x.csr.priv true n = true →
        (ok → exec i s = .next t) ∧ (¬ok → s.csr st 0 n ≠ v → traps i 0x01))
    (s.subject = .streamWord st v →
      writes .modeWrite 0x001 (∀ g < 8, fld v (8 * g) 3 < 6 ∧ fld v (8 * g + 6) 2 = 0) (own fun c => { c with mode := v }) ∧
      writes .fstatWrite 0x002 (fld v 5 27 = 0)
        (own fun c => { c with fflags := v.extractLsb' 0 5, srstep := v.extractLsb' 32 32 }) ∧
      writes .causeWrite 0x004 (v.toNat < 65536 ∧ fld v 8 2 ≠ 2) (own fun c => { c with cause := v.extractLsb' 0 16 }) ∧
      writes .svecWrite 0x007 (v.toNat < 2 ^ 42 ∧ (st.isTile = true → 3840 ≤ v.toNat ∧ v.toNat ≤ 4095))
        (core fun k => { k with svec := v.extractLsb' 0 42 }) ∧
      writes .uvecWrite 0x008 (v.toNat < 2 ^ 42 ∧ (st.isTile = true → v.toNat ≤ 3839))
        (own fun c => { c with uvec := v.extractLsb' 0 42 }) ∧
      writes .faircfgWrite 0x015 (16 ≤ v.toNat ∧ v.toNat ≤ 4096) (own fun c => { c with fair := v.extractLsb' 0 13 }) ∧
      writes .lstkWrite 0x016 (fld v 0 8 = 0 ∧ v.getLsbD 48 = false ∧ fld v 60 4 = 0)
        (own fun c => { c with lstkBase := v.extractLsb' 0 48, lstkDepth := v.extractLsb' 48 12 }) ∧
      writes .curlimWrite 0x020 (96 ≤ v.toNat ∧ v.toNat < 65536) (core fun k => { k with curlim := v.extractLsb' 0 16 }) ∧
      writes .curwinWrite 0x021 (16 ≤ v.toNat ∧ v.toNat < 256) (core fun k => { k with curwin := v.extractLsb' 0 8 })) ∧
    (s.subject = .streamFlagWord st f v →
      (f = true → writes .ptbaseWrite 0x030 (v.toNat < 65536) (own fun c => { c with asid := v.extractLsb' 0 16 })) ∧
      (f = false → writes .ptbaseWrite 0x031 (v.toNat < 2 ^ 52 ∧ fld v 0 19 = 0)
        (core fun k => { k with ptbase := v.extractLsb' 0 52 })))

/-- A range table's word 0 is written, unless the entry is valid or a reserved bit of the value is set, which leaves it as it
is; a word 1 with VALID clear and a reserved bit set is ignored; a legal word 1 over an invalid entry is written and an illegal
one clears VALID; the one waiting record of a die whose ring has room is posted; a TAIL below 2^32 is set and posting comes
next; a resume port's write counts its agent and, at the recorded value, action 0 lets the stream run; control words such as
RESUME's base or LEASE are set; ipi sets PEND bit 2, timerCompare bit 3; a counter's word is read after an acquire, and a write
adds once its release is performed; EPC, TVAL, UEPC and SEED take any value. (R4, R155, R156, R342, R361, R363, R364, R448,
R456) -/
def Obligations.ControlPageEvents : Prop :=
  ∀ (s : State),
    (∀ e v w, s.subject = .range e false v → File.get s.mm.ranges e = w →
      (w.2.getLsbD 38 = false → v.toNat < 2 ^ 52 →
        exec .rangeTableWrite s = .next (s.modMem fun m => { m with ranges := File.set m.ranges e (v, w.2) })) ∧
      (w.2.getLsbD 38 = true ∨ 2 ^ 52 ≤ v.toNat → exec .rangeTableWrite s = .next s)) ∧
    (∀ e v, s.subject = .range e true v → v.getLsbD 38 = false → fld v 39 25 ≠ 0 → exec .rangeTableWrite s = .next s) ∧
    (∀ e v w, s.subject = .range e true v → File.get s.mm.ranges e = w → w.2.getLsbD 38 = false → v.getLsbD 38 = true →
      exec .rangeTableWrite s = .next (s.modMem fun m =>
        { m with ranges := File.set m.ranges e (w.1, if s.rangeOk e w.1 v then v else w.2) })) ∧
    (∀ d r, s.subject = .die d → s.mm.waitingFaults = [r] → r.agent.st.die = b2n d → s.ringOpen (b2n d) = true →
      exec .faultRecordPost s = .next ((s.modMem fun m => { m with waitingFaults := [] }).postRecord r)) ∧
    (∀ d v, s.subject = .dieWord d v → v.toNat < 2 ^ 32 →
      exec .faultRingTailWrite s = .next ((s.setCtl (0x218 + 0x40 * b2n d) v).row .faultRecordPost (.die d))) ∧
    (∀ d v st w, s.subject = .dieWord d v → v.toNat < 2 ^ 19 → agentOfCode (fld v 16 3) (fld v 15 1) (fld v 0 15) = some ⟨st, none⟩ →
      (s.stream st).stop = .fault w → w.resume = some (Table.get 0 s.mm.resumes ⟨st, none⟩ + 1) →
      exec .resumePortWrite s = .next
        ((s.modMem fun m => { m with resumes := Table.put m.resumes ⟨st, none⟩ (Table.get 0 s.mm.resumes ⟨st, none⟩ + 1) }).modStream
          st fun x => { x with stop := .running })) ∧
    (∀ st n v, s.subject = .register (.csr st n) v → n.toNat ∈ [0x005, 0x006, 0x009, 0x00B] →
      csrExists st.ctype n.toNat = true → csrAllowed (s.stream st).csr.priv true n.toNat = true →
      exec .registerWrite s = .next (s.putCsr st n.toNat v)) ∧
    (∀ off v, s.subject = .register (.control off) v → off ∈ [0x100, 0x120] → 256 ≤ v.toNat → v.toNat ≤ 12288 →
      exec .registerWrite s = .next (s.setCtl off v)) ∧
    (∀ off v, s.subject = .register (.control off) v → off ∈ [0x200, 0x240, 0x900, 0xA00] → v.toNat < 2 ^ 52 → v.toNat % 4096 = 0 →
      exec .registerWrite s = .next (s.setCtl off v)) ∧
    (∀ k, s.subject = .num k → k < 32 →
      exec .ipi s = .next (s.setCtl (0x3000 + 8 * k) (s.ctl (0x3000 + 8 * k) ||| 4)) ∧
      exec .timerCompare s = .next (s.setCtl (0x3000 + 8 * k) (s.ctl (0x3000 + 8 * k) ||| 8))) ∧
    (∀ st n, s.subject = .counter st n none → n < 4096 → (s.stream st).csr.priv ≠ 0 →
      exec .counterRegionAccess s = .next (s.acquire st 6)) ∧
    (∀ st n v, s.subject = .counter st n (some v) → n < 4096 → (s.stream st).csr.priv ≠ 0 → (s.release st 6).owes st 6 = false →
      exec .counterRegionAccess s = .next ((s.release st 6).ctrAdd n v))

/-! ## The matrix array and the engine queues -/

/-- On a tile core with a free array, mma and mmas with legal staging, aligned operands within reach and translated pages occupy
the array, for 32 clocks (28 with P7 in effect; 2N for mmas, log entry 54), with their regions' bytes as read at issue, a
cooperative mma with those that the casement's gate gave it; mzero for 8; mdrain and mlacc, when the drain unit too is free, for
8, and the drain unit for its latency, their writes due 128 clocks of the context on: without a residual the tile's elements
drained at the destination's addresses. While the array is occupied each is held. (Log entry 6: a tag wait lengthens an
occupancy.) At the end of its occupancy mzero leaves every element of its tile zero without a sideband bit, mlacc.load the
values with its image's tags (PINF with NINF gives NAN), and mma in classical order, unscaled, on operands that no store has
changed, each element, zero first if ACC = 0, with its products' window promoted; no other tile changes, and a drain changes
none. A promotion adds x truncated to a multiple of 2^-320 modulo 2^640, ORs the outcome of R79 into the sideband, sets PINF or
NINF where the sum leaves the range, and WTRUNC where bits are lost; a window of i8 products is their sum. Without a residual an
element with NAN drains to NaN, with PINF or NINF to that infinity, else its value times α is rounded once. (R230, R231, R236,
R239, R247, R249, R250, R252, R75, R78, R79, R251) -/
def Obligations.MatrixOperationsComplete : Prop :=
  (∀ (o : MOp) (s : State) (c : Nat) (b : Bool), s.iss.st = .tile c b →
     let st := s.iss.st
     let x := s.stream st
     let array := fun (t : State) => (t.tile c).array
     let free := (s.tile c).array = none
     let typed := fun (r : MatRegion) => { r with bytes := r.rows.flatMap fun a => s.spaceBytes st r.space a r.len }
     let work := fun (a b : List MatRegion) (i : Option MatRegion) (sc : Option MatScales) (p7 : Bool) =>
       ArrayWork.products o a b i sc p7 (modeFtzi s.mode (mType o.fmtA)) (modeFtzi s.mode (mType o.fmtB))
     let p7 := sevens o (x.scales o 1)
     let mma := fun (a b : List MatRegion) => s.occupancy st (if p7 then 28 else 32) (work a b none (x.scales o 1) p7) (if o.p7 && !p7 then mP7D else 0)
     (∀ es, free → o.q = false → x.badStaging false = false → x.matRaise st o false = none → s.judgeB st o false = .ok es →
       s.admits (.mma o) = true → ∃ t, exec (.mma o) s = .next t ∧
         let b := x.regionB st o false es
         array t = some (mma [typed (x.regionA st o false)]
           [if b.space = 2 then ((s.taken (.mma o)).readRegion b).1 else typed b] [])) ∧
     (∀ es p v f, free → o.q = true → x.csr.qown = true → (s.tile c).coop = some (p, v, f) → x.badStaging false = false →
       x.matRaise st o false = none → s.judgeB st o false = .ok es → s.admits (.mma o) = true →
       ∃ t, exec (.mma o) s = .next t ∧ array t = some (mma p v f) ∧ (t.tile c).coop = none) ∧
     (∀ es, free → x.badStaging true = false → x.matRaise st o true = none → s.judgeB st o true = .ok es →
       s.admits (.mmas o) = true → ∃ t, exec (.mmas o) s = .next t ∧
         let b := x.regionB st o true es
         array t = some (s.occupancy st (2 * o.sparseN)
           (work [typed (x.regionA st o true)] [if b.space = 2 then ((s.taken (.mmas o)).readRegion b).1 else typed b]
             (some (typed (x.regionIndex st o))) (x.scales o 3) false) (if o.p7 then mP7D else 0) [])) ∧
     (free → x.tileBound st o.tile.toNat = none → s.gives (.mzero o) fun t =>
       t.modTile c fun k => { k with array := some (s.occupancy st 8 (.zero o.tile.toNat) 0 []) }) ∧
     (let z := ((drainType x).getD .f32).bytes
      let rz := (residualType x).bytes
      ∀ ed er, free → (s.tile c).drain = 0 → x.badDrain = false → x.drainRaise st o z rz = none → s.judgeDrain st o z rz = (.ok ed, .ok er) →
       s.admits (.mdrain o) = true → ∃ t, exec (.mdrain o) s = .next t ∧ array t = some (s.occupancy st 8 (.drain o.tile.toNat) 0 []) ∧
         (t.tile c).drain = 135 ∧ ∃ w, (t.tile c).commits = (s.tile c).commits ++ [⟨st, x.time + 128, fld (x.stM 4) 52 2, z, w, ed, none⟩] ∧
         (fld (x.stM 5) 52 2 = 0 → bit o.low 26 = false → o.scl = false → w = (List.range 32768).map fun k =>
           (((x.drainRows o z)[k / 256]?).getD 0 + z * (k % 256),
             (drainElem ((drainType x).getD .f32) (effOf s.mode ((drainType x).getD .f32) 0 false (s.rand fun _ => 0)) k
               (((s.tile c).elems o.tile.toNat).getD k ⟨0, 0⟩) (.fin false 0 0) true
               (some ((scaleVal 0x3F800000).1 * (scaleVal 0x3F800000).1, (scaleVal 0x3F800000).2 + (scaleVal 0x3F800000).2)) false).bits))) ∧
     (let space := fld (x.stM 4) 52 2
      let base := fld (x.stM 4) 0 48
      free → (s.tile c).drain = 0 → fld (x.stM 4) 54 10 = 0 → space < 2 → base % 32 = 0 →
       (x.rowsBound st space [base] 32768 true = none → s.gives (.mlaccSave o) fun t =>
         t.startDrain (s.occupancy st 8 (.drain o.tile.toNat) 0 []) space 1
           ((List.range 32768).map fun n => (base + n, (((s.tile c).elems o.tile.toNat).getD n ⟨0, 0⟩).tags.toNat)) []) ∧
       (x.rowsBound st space [base] 32768 false = none → s.gives (.mlaccLoad o) fun t =>
         t.startDrain (s.occupancy st 8 (.tags o.tile.toNat (t.spaceBytes st space base 32768)) 0 []) space 1 [] [])) ∧
     (∀ i ∈ [Instr.mma o, .mmas o, .mzero o, .mdrain o, .mlaccSave o, .mlaccLoad o], (i = .mma o → o.q = true → x.csr.qown = true) →
       (s.tile c).array.isSome = true → s.admits i = true → exec i s = .next (s.modStream st fun x => { x with held := true }))) ∧
  ((∀ (s : State) (c : Nat) (a : Occupancy), s.subject = .core (.tile c) → (s.tile c).array = some a → a.left = 0 →
     ∃ t, exec .arrayOccupancyEnd s = .next t ∧
       let old := fun (n k : Nat) => ((s.tile c).elems n).getD k ⟨0, 0⟩
       let new := fun (n k : Nat) => ((t.tile c).elems n).getD k ⟨0, 0⟩
       (∀ n, a.work = .zero n → ∀ k < 32768, new n k = ⟨0, 0⟩) ∧
       (∀ n image, a.work = .tags n image → image.length = 32768 → ∀ k, (h : k < image.length) →
         new n k = ⟨(old n k).val, joinTags (image[k].setWidth 3) 0⟩) ∧
       (∀ n, a.work = .drain n → (t.tile c).kbuf = (s.tile c).kbuf) ∧
       (∀ n, (a.work = .drain n ∨ n ≠ a.work.tile) → ∀ k < 32768, new n k = old n k) ∧
       (∀ o ra rb fa fb, a.work = .products o [ra] [rb] none none false fa fb → s.regionNow ra = ra.bytes → s.regionNow rb = rb.bytes →
         ra.len = o.depth * (mType o.fmtA).bytes → ra.rows.length = 128 → ra.bytes.length = 128 * ra.len →
         rb.len = 256 * (mType o.fmtB).bytes → rb.rows.length = o.depth → rb.bytes.length = o.depth * rb.len →
         let el := fun (r : MatRegion) (z row k : Nat) => leNat ((r.bytes.drop (r.len * row + z * k)).take z)
         let A := fun i k => mValue (mType o.fmtA) fa (el ra (mType o.fmtA).bytes i k)
         let B := fun k j => mValue (mType o.fmtB) fb (el rb (mType o.fmtB).bytes k j)
         ∀ i < 128, ∀ j < 256,
           let ps := (List.range o.depth).map fun k => (A i k).mul (B k j)
           new o.tile.toNat (256 * i + j) = ((if o.acc then old o.tile.toNat (256 * i + j) else ⟨0, 0⟩ : Lacc).promote
             (blockWindow ps).1 (blockWindow ps).2.1 (blockOutcome ps)).1)) ∧
   (∀ (l : Lacc) (x e : Int) (oc : BitVec 3),
     let r := l.promote x e oc
     let d : Int := if 0 ≤ e + 320 then x * (2 ^ (e + 320).toNat : Nat) else Int.tdiv x (2 ^ (-(e + 320)).toNat : Nat)
     let sum := l.val.toInt + d
     let on := fun (b k : Nat) => (l.tags ||| oc ||| BitVec.ofNat 3 b).getLsbD k
     let out := if 2 ^ 639 ≤ sum then 1 else if sum < -(2 ^ 639) then 2 else 0
     r.1.val = BitVec.ofInt 640 sum ∧ r.1.tags.getLsbD 0 = on out 0 ∧ r.1.tags.getLsbD 1 = on out 1 ∧
     r.1.tags.getLsbD 2 = (on out 2 || (on out 0 && on out 1)) ∧
     r.2 = if e + 320 < 0 ∧ x.natAbs % 2 ^ (-(e + 320)).toNat ≠ 0 then mWTRUNC else 0) ∧
   (∀ (ps : List FVal),
     (ps.any FVal.isNan = true → blockOutcome ps = 4) ∧
     (FVal.inf false ∈ ps → FVal.inf true ∈ ps → blockOutcome ps = 4) ∧
     (ps.any FVal.isNan = false → FVal.inf false ∈ ps → FVal.inf true ∉ ps → blockOutcome ps = 1) ∧
     (ps.any FVal.isNan = false → FVal.inf false ∉ ps → FVal.inf true ∈ ps → blockOutcome ps = 2) ∧
     (ps.any FVal.isNan = false → FVal.inf false ∉ ps → FVal.inf true ∉ ps → blockOutcome ps = 0)) ∧
   (∀ (xs : List (Nat × Nat)), (∀ p ∈ xs, p.1 < 256 ∧ p.2 < 256) →
     let ps := xs.map fun p => (mValue .i8 false p.1).mul (mValue .i8 false p.2)
     let w := blockWindow ps
     w.2.2 = false ∧ w.2.1 ≤ 0 ∧ w.1 = (xs.map fun p => ElTy.val .i8 p.1 * ElTy.val .i8 p.2).foldl (· + ·) 0 * (2 ^ (-w.2.1).toNat : Nat)) ∧
   (∀ (t : ElTy) (e : Eff) (k : Nat) (l : Lacc) (m : Nat) (x : Int), t.isInt = false →
     let r := drainElem t e k l (.fin false 0 0) true (some (m, x)) false
     let f := ElTy.fmt t
     (l.tags.getLsbD 2 = true → r.bits = f.nan ∧ r.ff = fNV) ∧
     (l.tags = 1 → r = f.convert e k (.inf false)) ∧ (l.tags = 2 → r = f.convert e k (.inf true)) ∧
     (l.tags = 0 → x ≤ 320 → r = f.round e k (Exact.ofInt (zeroSign e.rm false (decide (l.val.toInt * m < 0))) (l.val.toInt * m) (x - 320)))))

/-- On a wave whose issuing path holds every lane, wvmac completes: for each of the eight columns the register of the column
takes in lane r the window of the products of row r and the column added to c and rounded once to f32, with the flags of the
results, and one SR step under SR. On a partial path it takes #CONV with the lanes. (R253, R254, R179) -/
def Obligations.WaveMatrixCompletes : Prop :=
  ∀ (o : MOp) (s : State), s.iss.st.isWave = true →
    let st := s.iss.st
    let x := s.stream st
    let ta := mType o.fmtA
    let tb := mType o.fmtB
    let z := ta.bytes
    let e := effOf s.mode .f32 0 false (s.rand fun k => k)
    let reg := fun (n : Nat) => x.readV (BitVec.ofNat 6 n)
    let a := fun (r k : Nat) => mValue ta (modeFtzi s.mode ta) (fld (reg (o.va + k * z / 4)) (32 * r + 8 * (k * z % 4)) (8 * z))
    let b := fun (k n : Nat) => mValue tb (modeFtzi s.mode tb) (fld (reg (o.vb + n / 4)) (8 * (32 * (n % 4) + k * z)) (8 * z))
    let c := fun (r n : Nat) =>
      if o.acc then (ElTy.fmt .f32).decodeIn (modeFtzi s.mode .f32) (elemAt (reg (o.vc + n)) 0 4 r) else FVal.fin false 0 0
    let el := fun (r n : Nat) => wvElem e r ((List.range (32 / z)).map fun k => (a r k).mul (b k n)) (c r n)
    (s.iss.lanes = BitVec.allOnes 32 → s.gives (.wvmac o) fun t =>
      let t := (List.range 8).foldl (fun t n =>
        let fl := orFlags ((List.range 32).map fun r => el r n)
        t.putV 16 ⟨false, false, BitVec.ofNat 6 (o.vc + n)⟩ (vmap 0 4 32 (fun _ => true) fun r => (el r n).bits) fl.1 fl.2) t
      if e.rm == 5 then t.stepSr else t) ∧
    (s.iss.lanes ≠ BitVec.allOnes 32 → s.admits (.wvmac o) = true →
      exec (.wvmac o) s = .next (s.trap 0x07 (s.iss.lanes.setWidth 64) s.iss.slot.code))

/-- With staging registers that keep to the engine's table, room among the queue's 32 commands and a token that is not PENDING,
each engine command completes: it joins the end of its queue with its staging registers, level and attached sashes as the stream
has them, its token becomes PENDING and its start follows. A PENDING token takes #TOKEN with its number, an invalid staging
value #ILLOP, judged before the token (log entry 29). Once the sash directory has answered, with legal staging, room in the
queue, a token that is not PENDING and none of the precise conditions of R301, R309, R311 or R315, each sash command completes
and enters its queue: sopen reserves its name (log entry 30), srel puts the sash out of the stream's reach. A precise condition
raises its trap. (R23, R24, R259, R260, R262, R263, R268, R301, R305, R309, R311, R315) -/
def Obligations.CommandsEnterTheirQueues : Prop :=
  (∀ (o : COp) (s : State),
     let st := s.iss.st
     let x := s.stream st
     let q := o.queue.toNat
     let staging := fun (eng : Nat) => (List.range 16).map fun k => Table.get 0 x.staging (16 * eng + k)
     let enters := fun (i : Instr) (eng : Nat) (rel : Bool) (fits : List Word → Bool) (regs : List VWord) (info : List Nat) =>
       let c : Command :=
         ⟨i, o, o.token.toNat, if o.qos = 0xF then x.cls else o.qos.toNat, o.ulic, rel, staging eng, regs, s.iss.lanes, x.csr.priv, x.csr.asid,
           x.seq, x.attached, false, false, 0, none, none, info, []⟩
       (x.commands q).length < 32 →
       (fits (staging eng) = true → x.token o.token.toNat ≠ .pending → s.gives i fun t =>
         (t.modStream st fun x =>
           { x with queues := Table.put x.queues q (x.commands q ++ [c]), tokens := Table.put x.tokens o.token.toNat .pending }).row
           .engineCommandStart (.streamNum st q)) ∧
       (fits (staging eng) = true → x.token o.token.toNat = .pending → s.admits i = true →
         exec i s = .next (s.trap 0x0E (o.token.setWidth 64) s.iss.slot.code)) ∧
       (fits (staging eng) = false → s.admits i = true → exec i s = .next (s.trap 0x01 6 s.iss.slot.code))
     let joined := (List.range 16).filter fun k => k = q || bit o.low k
     enters (.copy o) 1 o.rel fitsCopy [] [] ∧ enters (.qbcast o) 1 o.rel fitsCopy [] [] ∧
     enters (.gath o) 2 o.rel fitsGather [] [] ∧ enters (.scat o) 2 o.rel fitsGather [] [] ∧
     enters (.pfb o) 4 o.rel fitsTier [] [] ∧ enters (.drop o) 4 o.rel fitsTier [] [] ∧
     enters (.tmoveMove o) 4 o.rel fitsMove [] [] ∧ enters (.tmoveEvict o) 4 o.rel fitsTier [] [] ∧
     enters (.coll o) 3 o.rel fitsColl [] [] ∧ enters (.xsort o) 7 o.rel fitsSort [] [] ∧
     enters (.tqpush o) 5 true fitsPush [] [] ∧ enters (.rlaunch o) 5 true fitsLaunch [] [] ∧
     enters (.rtrace o) 6 o.rel fitsRay ((List.range 8).map fun k => x.readV (BitVec.ofNat 6 (o.sub 0 6 + k))) [] ∧
     enters (.qfence o) 0 o.rel noStaging [] [(joined.map fun k => Table.get 0 x.widest k).foldl max 0]) ∧
  (∀ (o : COp) (s : State), (s.stream s.iss.st).dirAns = true →
     let st := s.iss.st
     let x := s.stream st
     let staging := (List.range 16).map fun k => Table.get 0 x.staging (80 + k)
     let gone := fun (t : State) => t.modStream st fun x => { x with attached := x.attached.filter fun a => decide (a.name ≠ s.sashNameNow) }
     let enters := fun (i : Instr) (fits : List Word → Bool) (stop : Option Raise) (f : State → State) =>
       (x.commands o.queue.toNat).length < 32 → fits staging = true → x.token o.token.toNat ≠ .pending →
       (stop = none → s.gives i f) ∧
       (∀ r, stop = some r → s.admits i = true → exec i s = .next (s.raise s.iss.slot.code r))
     enters (.sopen o) (fitsOpen false) s.openRaise (fun t => (t.reserveSash o.queue.toNat s.sashNameNow staging).enqueue (.sopen o) o staging false [] []) ∧
     enters (.sopenEvicted o) (fitsOpen true) s.openRaise (fun t => (t.reserveSash o.queue.toNat s.sashNameNow staging).enqueue (.sopenEvicted o) o staging false [] []) ∧
     enters (.satt o) (fitsSash [(10, 32)]) (s.attRefused o) (fun t => t.enqueue (.satt o) o staging false [] []) ∧
     enters (.srel o) (fitsSash []) (if (x.holding s.sashNameNow).isSome then none else some (attMiss 0))
       (fun t => gone (t.enqueue (.srel o) o staging false [] [])) ∧
     enters (.sevict o) (fitsSash []) s.endRaise (fun t => t.enqueue (.sevict o) o staging false [] []) ∧
     enters (.sdrop o) (fitsSash []) s.endRaise (fun t => t.enqueue (.sdrop o) o staging false [] []))

/-! ## Events of the issue of bundles -/

/-- Where both contexts present bundles that go, within the current limit and with the array free, mergeStage has both issue
next if their slots are disjoint and their frets within eight, and c0's alone otherwise, c1 counting a freeze cycle; over the
limit neither issues, both count a current-limit freeze cycle, and no register, latch, queue or program counter changes. In a
partition with one live wave of one path, whose bundle goes and fits the current limit, shaderPartitionSelect has that path
issue next and gives the following slot the next turn. pathWaitLimit puts the one path whose wait count is above FAIRCFG.LIMIT
first. cooperativeMmaIssue opens all four cores' gates where all four would issue, and none where one does not present its mma
and none traps. (R10, R11, R256, R373, R14, R15, R16, R241, R436) -/
def Obligations.MergeStageDecides : Prop :=
  (∀ (s : State) (c : Nat) (m0 m1 : BitVec 8) (n0 n1 d0 d1 : Nat),
     let a : StreamId := .tile c false
     let b : StreamId := .tile c true
     let m := s.merge c
     s.subject = .core (.tile c) → m.t0 = .goes m0 n0 d0 → m.t1 = .goes m1 n1 d1 → (s.tile c).array = none →
     (s.stream a).inHandler = false → (s.stream b).inHandler = false →
     (m.beyond = false → m0 &&& m1 = 0 → n0 + n1 ≤ 8 → ∃ t, exec .mergeStage s = .next t ∧
       t.agenda = .issue a none none :: .issue b none none :: s.agenda ∧ t.stream a = s.stream a ∧ t.stream b = s.stream b) ∧
     (m.beyond = false → ¬(m0 &&& m1 = 0 ∧ n0 + n1 ≤ 8) → ∃ t, exec .mergeStage s = .next t ∧
       t.agenda = .issue a none none :: s.agenda ∧ t.stream a = s.stream a ∧ t.stream b = (s.stream b).counted false true) ∧
     (m.beyond = true → ∃ t, exec .mergeStage s = .next t ∧ t.agenda = s.agenda ∧
       t.stream a = (s.stream a).counted true true ∧ t.stream b = (s.stream b).counted true true ∧
       (t.tile c).inq = (s.tile c).inq ∧ (t.tile c).outq = (s.tile c).outq)) ∧
  (∀ (s : State),
     (∀ c p w pc lanes b, s.subject = .num2 c p → w < 16 →
       let st : StreamId := .wave c (16 * p + w)
       let q := BitVec.ofNat 2 p
       let k := s.shader c
       let sh := s.present st lanes pc
       File.get (s.shader c).turn q = w → (∀ v < 16, v ≠ w → (s.stream (.wave c (16 * p + v))).thr.active = 0) →
       (s.stream st).stop = .running → (s.stream st).blocked = false → (s.stream st).thr.active ≠ 0 → (s.stream st).thr.paths = [(pc, lanes)] →
       s.fetch st pc = .bundle b → sh.verdict.goes = true →
       ((k.com.currents.drop 1).take (k.len.toNat - 1)).foldl (· + ·) 0 + k.com.currents.headD 0 + drawOf true sh.ops ≤ k.lim.toNat →
       ∃ t, exec .shaderPartitionSelect s = .next t ∧ t.agenda = .issue st (some pc) none :: s.agenda ∧
         File.get (t.shader c).turn q = (w + 1) % 16) ∧
     (∀ st pc lanes, s.subject = .stream st → (s.stream st).thr.paths = [(pc, lanes)] →
       (s.stream st).csr.fair.toNat < Table.get 0 (s.stream st).thr.waits pc →
       exec .pathWaitLimit s = .next (s.modStream st fun x => { x with thr := { x.thr with first := some pc } })) ∧
     (∀ k, s.subject = .num k →
       let offer := fun (p : Nat) => (s.gate k (some ([], [], []))).coopOffer (4 * k + p)
       ((∀ p < 4, ∃ st o r, offer p = some (st, o, true, r)) → ∃ t, exec .cooperativeMmaIssue s = .next t ∧
         ∀ p < 4, (t.tile (4 * k + p)).coop.isSome = true) ∧
       ((∃ p < 4, offer p = none) → (∀ p < 4, ∀ st o g, offer p ≠ some (st, o, g, true)) →
         exec .cooperativeMmaIssue s = .next (s.gate k none))))

/-- The last idle cycle passes with context time; resultLanding and shutterDelivery land what is due; an entry pushed two tile
clocks before moves to the partner's inbound queue if there is room, a later one stays; a flag set two clocks before is set, a
later one not yet; an array whose occupancy is over frees; a drain's results are committed once its context's time has come, and
not before. (R7, R8, R25, R27, R28, R89, R227, R230, R231, R251, R355) -/
def Obligations.ClockEventsComplete : Prop :=
  ∀ (s : State),
    (∀ st, s.subject = .stream st → (s.stream st).idle ≠ 0 → exec .idleCountExpiry s =
      .next (s.setStream st { s.stream st with idle := 0, time := (s.stream st).time + 1 })) ∧
    (∀ st, s.subject = .stream st → exec .resultLanding s = .next (s.landDue st) ∧ exec .shutterDelivery s = .next (s.landDue st)) ∧
    (∀ c o v k, s.subject = .core (.tile c) → o < 3 →
      (∀ j < 3, File.get (s.tile c).outq (BitVec.ofNat 2 j) = if j = o then [(v, k)] else []) →
      let p := 4 * (c / 4) + ((c % 4) ^^^ (o + 1))
      let q := BitVec.ofNat 3 o
      (2 ≤ (s.ltime - k).toNat → (File.get (s.tile p).inq q).length < 16 → ∃ t, exec .queueEntryArrival s = .next t ∧
        File.get (t.tile p).inq q = File.get (s.tile p).inq q ++ [v] ∧ File.get (t.tile c).outq (BitVec.ofNat 2 o) = []) ∧
      ((s.ltime - k).toNat < 2 ∨ (File.get (s.tile p).inq q).length = 16 → ∃ t, exec .queueEntryArrival s = .next t ∧
        File.get (t.tile p).inq q = File.get (s.tile p).inq q ∧ File.get (t.tile c).outq (BitVec.ofNat 2 o) = [(v, k)])) ∧
    (∀ c n k, s.subject = .core (.tile c) → (s.tile c).flagSets = [(n, k)] → exec .flagSetArrival s =
      .next (s.modTile c fun t => if 2 ≤ (s.ltime - k).toNat then { t with flags := t.flags ||| BitVec.twoPow 32 n, flagSets := [] } else t)) ∧
    (∀ c a, s.subject = .core (.tile c) → (s.tile c).array = some a →
      (a.left = 0 → ∃ t, exec .arrayOccupancyEnd s = .next t ∧ (t.tile c).array = none) ∧
      (a.left ≠ 0 → exec .arrayOccupancyEnd s = .next s)) ∧
    (∀ c d, s.subject = .core (.tile c) → (s.tile c).commits = [d] →
      (d.due ≤ (s.stream d.st).time → exec .drainCommit s = .next ((s.modTile c fun t => { t with commits := [] }).commitDrain d)) ∧
      ((s.stream d.st).time < d.due → exec .drainCommit s = .next (s.modTile c fun t => t)))

/-- An enabled pending counter ULI enters at UVEC with UEPC the program counter, INULI set, UIE cleared, s56 the counter and s57
the argument of the ULI set, and the reservation cleared. A debug halt stops a running stream and its resumption lets it run. A
supervisor core takes its lowest pending enabled source (log entry 21) with CAUSE code and INT, at SVEC and K. An uncorrectable
error ends the task of a tile context or wave, and is a service trap #ECC on a supervisor core. (R48, R267, R346, R349, R350,
R359, R360, R456) -/
def Obligations.BoundaryEntries : Prop :=
  ∀ (s : State) (st : StreamId),
    let x := s.stream st
    (∀ u rest, s.subject = .stream st → st.isTile = true → x.csr.uie = true → x.csr.insvc = false → x.csr.inuli = false →
      x.stop = .running → x.ulis = u :: rest → ∃ t, exec .uliEntry s = .next t ∧
        let y := t.stream st
        y.pc = x.csr.uvec.setWidth 64 ∧ y.csr.uepc = x.pc ∧ y.csr.inuli = true ∧ y.csr.uie = false ∧ y.ulis = rest ∧
        y.readS 56 = BitVec.ofNat 64 u.ctr ∧ y.readS 57 = BitVec.ofNat 64 u.arg ∧ y.s = x.s ∧ y.pend = x.pend ∧
        (t.common st.core).reservations = (s.common st.core).reservations.filter fun r => decide (r.st ≠ st)) ∧
    (s.subject = .stream st → x.stop = .running → exec .debugHalt s =
      .next (s.setStream st { x with stop := .debug, debugReq := false, thr := { x.thr with wfi := 0 } })) ∧
    (s.subject = .stream st → x.stop = .debug → exec .debugResume s = .next (s.setStream st { x with stop := .running })) ∧
    (∀ n c rest, st = .super n → s.subject = .num n → s.sources n = c :: rest → x.csr.insvc = false → x.stop ≠ .debug →
      ∃ t, exec .supervisorInterrupt s = .next t ∧
        let y := t.stream st
        y.pc = (s.super n).com.svec.setWidth 64 ∧ y.csr.epc = x.pc ∧ y.csr.priv = 1 ∧ y.csr.insvc = true ∧
        (y.csr.cause.extractLsb' 0 8).toNat = c ∧ y.csr.cause.getLsbD 10 = true ∧ y.csr.cause.extractLsb' 8 2 = x.csr.priv) ∧
    (∀ k v, s.subject = .error st k v →
      (st.isSuper = false → x.stop ≠ .halted → ∃ t, exec .uncorrectableError s = .next t ∧
        (t.stream st).stop = .halted ∧ (t.stream st).thr.active = 0 ∧ (t.stream st).pend = [] ∧
        t.sched.ending = s.sched.ending ++ [(st, true, 0x0F)]) ∧
      (st.isSuper = true → x.csr.insvc = false → ∃ t, exec .uncorrectableError s = .next t ∧
        (t.stream st).csr.cause.extractLsb' 0 8 = 0x0F#8 ∧ (t.stream st).csr.epc = x.pc ∧
        ((t.stream st).csr.tval.extractLsb' 60 4).toNat = k.toNat % 16))

/-! ## Events of the memory system -/

/-- The oldest outstanding load returns; the oldest returned value lands; the oldest write-buffer line leaves the buffer and its
bytes stand in the cluster cache (that they go one at a time, the oldest first, is log entries 4 and 18); a kill clears the
core's reservations on the granule, age those more than 4096 clocks old; the oldest tlbi drops its translations and is no longer
waited for; a cmaint whose acknowledgements have all come no longer holds it, one that is owed some asks again. A cluster
cache's dirty bytes of a line stand in the die L2's M line after its write-back and are clean; an expired line loses its clean
bytes; a sweep inverts the epoch and leaves no L1 line of the die with the new one; retention marks the cluster, waking empties
its caches; a partial joins the home value by the range's operation; a host's bytes that its port takes, and a peer's, stand at
home where they reach memory, others are dropped and noted, and a port in reset or whose window does not hold them takes none;
the scrub changes no byte; a refill adds RATE lines up to BURST. (R151, R152, R204, R208, R212, R215, R383, R338, R343, R344,
R381, R395) -/
def Obligations.ReturnsAndDrains : Prop :=
  (∀ (s : State),
     (∀ st, s.subject = .stream st →
       let x := s.stream st
       (∀ l rest, x.loads = l :: rest →
         exec .loadDataReturn s = .next ((s.setStream st { x with loads := rest }).returnLoad st l)) ∧
       (∀ r rest, x.returns = r :: rest →
         exec .memoryValueReturn s = .next ((s.setStream st { x with returns := rest }).landAt s.ltime st r)) ∧
       (∀ w rest, st.isSuper = false → x.wbuf = w :: rest → ∃ t, exec .writeBufferDrain s = .next t ∧ (t.stream st).wbuf = rest ∧
         ∀ j < 128, w.mask.getLsbD j = true →
           (t.clData (clusterOf st.core) w.line).extractLsb' (8 * j) 8 = w.val.extractLsb' (8 * j) 8) ∧
       (∀ w rest, x.tlbiWait = w :: rest → exec .tlbiCompletion s =
         .next ((s.tlbiAct st w).modStream st fun y => { y with tlbiWait := rest })) ∧
       (x.cmaintWait = true → exec .cmaintCompletion s = .next
         (if Table.get 0 s.mm.owed (agentOf st.core) = 0 then s.setStream st { x with cmaintWait := false }
          else s.row .cmaintCompletion (.stream st)))) ∧
     (∀ c ln, s.subject = .kill c ln → exec .reservationKill s =
       .next (s.modCommon c fun k => { k with reservations := k.reservations.filter fun r => decide (r.granule ≠ ln) })) ∧
     (∀ c, s.subject = .core c → exec .reservationAgeExpiry s =
       .next (s.modCommon c fun k => { k with reservations := k.reservations.filter fun r => decide (k.cycle.toNat ≤ r.made + 4096) }))) ∧
  (∀ (s : State),
     (∀ c ln l, s.subject = .num2 c ln → s.clLine c ln = some l → l.dirty ≠ 0 → ∃ t, exec .clusterCacheWriteback s = .next t ∧
       t.clLine c ln = some { l with dirty := 0 } ∧ ∃ a, t.mm.agentLine (c / 16) ln = some a ∧ a.st = .m ∧
         ∀ j < 128, l.dirty.getLsbD j = true → a.data.extractLsb' (8 * j) 8 = l.data.extractLsb' (8 * j) 8) ∧
     (∀ n ln, s.subject = .lease (.cluster n) ln → exec .leaseExpiry s =
       .next (s.clClean n fun l => l.line = ln && !s.inLease (n / 16) l.stamp)) ∧
     (∀ n ln, s.subject = .lease (.l1 (.tile n)) ln → ∃ t, exec .leaseExpiry s = .next t ∧
       (t.tile n).com.l1 = (s.tile n).com.l1.filter fun l => decide (l.pline ≠ ln) || s.inLease (n / 32) l.stamp) ∧
     (∀ d, s.subject = .die d → ∃ t, exec .epochSweep s = .next t ∧ t.epoch (b2n d) = !s.epoch (b2n d) ∧
       ∀ n, n / 32 = b2n d → ∀ l ∈ (t.tile n).com.l1, l.epoch = s.epoch (b2n d)) ∧
     (∀ k, s.subject = .num k →
       (k ∈ s.mm.retained → exec .retentionEntry s = .next s) ∧
       (k ∉ s.mm.retained → ∃ t, exec .retentionEntry s = .next t ∧ k ∈ t.mm.retained) ∧
       (k ∈ s.mm.retained → ∃ t, exec .retentionWake s = .next t ∧ k ∉ t.mm.retained ∧ t.cluster k = [] ∧
         ∀ c ∈ coresOf k, (t.common c).l1 = [])) ∧
     (∀ j ln ty op p, s.subject = .num2 j ln → s.rangeOf ln = some (ty, op) → Table.find s.mm.partials (j, ln) = some p →
       ∃ t, exec .partialJoinOnArrival s = .next t ∧ t.mm.atHome ln = rangeLine ty op ((s.recall ln).mm.atHome ln) p ∧
         t.mm.partials = Table.drop s.mm.partials (j, ln)) ∧
     (∀ d pa l, s.subject = .bytes d pa l → s.hostWrites d pa l.length = false → exec .hostWrite s = .next s) ∧
     (∀ d pa l, (s.subject = .bytes d pa l ∧ s.hostWrites d pa l.length = true) ∨ s.subject = .peerBytes pa l → ∃ t, exec .hostWrite s = .next t ∧
       ((region pa).isMemory = true → ∀ k, (h : k < l.length) → Mem.get t.mm.mem (pa + k) = l[k]) ∧
       ((region pa).isMemory = false → t.mm.mem = s.mm.mem ∧ t.edge.recCount = s.edge.recCount + 1)) ∧
     (∀ ln, s.subject = .num ln → ∃ t, exec .patrolScrub s = .next t ∧ t.mm.mem = s.mm.mem ∧ t.streams = s.streams) ∧
     (∃ t, exec .tokenBucketRefill s = .next t ∧ ∀ d, ∀ c < 8,
       let w := s.ctl (0x808 + 0x20 * c)
       let b := Table.get 0 s.mm.buckets (d, c)
       Table.get 0 t.mm.buckets (d, c) = if fld w 0 16 = 0 then b else min (fld w 16 16) (b + fld w 0 16)))

/-- A read of an untracked line gives the agent E with the home's data; a read by a holder changes nothing. An upgrade from S
that no invalidation overtakes makes the line E with the home's data, owes the agent one acknowledgement per target and sends
the invalidations. An owner's dirty eviction puts the data home; an untracked agent's notice is discarded. A forwarded read
gives the requester S and leaves the owner O or S; where a remote agent asks or shares, the owner writes a dirty line back and
keeps S. A forwarded ownership moves the line, dirty as M. An invalidation drops the line and acknowledges; acknowledgements
count down and release the fences that are owed none any more; a grant gives E, M to a dirty line, and owes its count; a push
gives remote sharers the home's bytes; an attached host is present. tableWalk of a page with no walk in flight for its TLB and
ASID starts one for the stream, or waits for one of the 16 or 2 walkers; where one is in flight the stream joins its waiters.
tableWalkComplete removes the walk; its waiters, in order of arrival, go on with the translation installed where the walk finds
a leaf, take their faults where it does not, and walk again, with nothing installed, where a tlbi killed it. (R336, R384, R385,
R387, R388, R389, R390, R392, R398, R405, R410) -/
def Obligations.DirectoryMessages : Prop :=
  (∀ (s : State) (a ln : Nat),
     let own := (s.mm.victims.any fun l => l.agent = a && l.line = ln) = false
     (s.subject = .num2 a ln →
       ((s.mm.agentLine a ln).isSome = true → own → exec .directoryReadRequest s = .next s) ∧
       (s.mm.agentLine a ln = none → s.mm.entry ln = DirEntry.empty → s.admitsAgent a ln = true →
         (s.mm.lines.filter fun l => l.agent = a && agentSet a l.line = agentSet a ln).length < agentWays a →
         (s.mm.dir.filter fun e => dirSet e.1 = dirSet ln).length < 16 → ∃ t, exec .directoryReadRequest s = .next t ∧
         t.mm.agentLine a ln = some ⟨a, ln, .e, s.mm.atHome ln⟩ ∧ t.mm.mem = s.mm.mem) ∧
       (∀ l, s.mm.agentLine a ln = some l → (l.st = .m ∨ l.st = .o) → (s.mm.entry ln).st = .e → (s.mm.entry ln).owner.toNat = a →
         (s.mm.entry ln).sharerList s.mm.present = [] → ∃ t, exec .evictionNotice s = .next t ∧
         t.mm.agentLine a ln = none ∧ t.mm.atHome ln = l.data) ∧
       (s.mm.agentLine a ln = none → s.mm.entry ln = DirEntry.empty → exec .evictionNotice s = .next s) ∧
       (∀ n, Table.get 0 s.mm.owed a = n + 1 → ∃ t, exec .invalidationAck s = .next t ∧ Table.get 0 t.mm.owed a = n ∧
         ∀ st sc, (s.stream st).fenced = some sc → (t.stream st).fenced = if t.owes st sc then some sc else none)) ∧
     (∀ l, s.subject = .numFlag a ln false → s.mm.agentLine a ln = some l →
       (l.st = .m ∨ l.st = .e → own → exec .directoryOwnershipRequest s = .next s) ∧
       (l.st = .s → own → s.admitsAgent a ln = true → (∀ w, Item.row .invalidation (.num3 a ln w) ∉ s.agenda) →
         (s.mm.dir.any fun e => decide (e.1 = ln)) = true → (s.mm.entry ln).st = .s → ∃ t, exec .directoryOwnershipRequest s = .next t ∧
         t.mm.agentLine a ln = some ⟨a, ln, .e, s.mm.atHome ln⟩ ∧ Table.get 0 t.mm.owed a = Table.get 0 s.mm.owed a + (s.targets a ln).length ∧
         t.agenda = s.agenda ++ (s.targets a ln).map fun b => .row .invalidation (.num3 b ln a))) ∧
     (∀ o l own, s.subject = .forward o a ln own → s.mm.agentLine o ln = some l → o ≠ a → ∃ t, exec .forward s = .next t ∧
       let far := remoteAgent a = true ∨ s.remoteSharers ln ≠ []
       t.mm.agentLine a ln = some ⟨a, ln, if own then (if l.st.dirty then .m else .e) else .s, l.data⟩ ∧
       (own = true → t.mm.agentLine o ln = none) ∧
       (own = false → ¬far → t.mm.agentLine o ln = some ⟨o, ln, if l.st.dirty then .o else .s, l.data⟩) ∧
       (own = false → far → t.mm.agentLine o ln = some ⟨o, ln, .s, l.data⟩ ∧ (l.st.dirty = true → t.mm.atHome ln = l.data))) ∧
     (∀ b, s.subject = .num3 b ln a → ∃ t, exec .invalidation s = .next t ∧ t.mm.agentLine b ln = none ∧
       t.agenda = s.agenda ++ [.row .invalidationAck (.num2 a ln)] ∧
       ∀ l, s.mm.agentLine b ln = some l → (l.st = .m ∨ l.st = .o) → t.mm.atHome ln = l.data) ∧
     (∀ n l, s.subject = .grant a ln n → s.mm.agentLine a ln = some l → ∃ t, exec .ownershipGrant s = .next t ∧
       t.mm.agentLine a ln = some ⟨a, ln, if l.st.dirty then .m else .e, l.data⟩ ∧ Table.get 0 t.mm.owed a = Table.get 0 s.mm.owed a + n) ∧
     (s.subject = .update ln a →
       let targets := ((s.mm.entry ln).sharerList s.mm.present).filter fun b => remoteAgent b && decide (b ≠ a)
       ∃ t, exec .writeUpdatePush s = .next t ∧ Table.get 0 t.mm.owed a = Table.get 0 s.mm.owed a + targets.length ∧
         ∀ b ∈ targets, t.mm.agentLine b ln = some ⟨b, ln, .s, s.mm.atHome ln⟩) ∧
     (∀ d, s.subject = .die d → ((s.port d).resetting = true → exec .hostAttach s = .next s) ∧
       ((s.port d).resetting = false → ∃ t, exec .hostAttach s = .next t ∧ 2 + b2n d ∈ t.mm.present ∧
         ∀ k, region (128 * k) = .lpddr → (t.port d).covers k = true))) ∧
  (∀ (s : State) (st : StreamId),
     (∀ va acc, s.subject = .walk st va acc →
       let page : BitVec 36 := va.extractLsb' 12 36
       let asid := (s.stream st).csr.asid
       let key := fun (w : Walk) => w.tlb = tlbOf st.core && w.asid = asid && w.page = page
       let busy := (s.mm.walks.filter fun w => w.tlb = tlbOf st.core).length
       ((s.mm.walks.any key) = false → busy < walkersOf (tlbOf st.core) → exec .tableWalk s =
         .next ((s.modMem fun m =>
           { m with walks := m.walks ++ [⟨tlbOf st.core, asid, page, decide (acc = .write), decide (acc = .exec), [.stream st], false⟩] }).row
           .tableWalkComplete (.walkEnd (tlbOf st.core) asid page))) ∧
       ((s.mm.walks.any key) = false → walkersOf (tlbOf st.core) ≤ busy → exec .tableWalk s = .next (s.row .tableWalk (.walk st va acc))) ∧
       (∀ w, s.mm.walks = [w] → key w = true → exec .tableWalk s =
         .next (s.modMem fun m => { m with walks := [{ w with waiters := w.waiters ++ [.stream st] }] }))) ∧
     (∀ tlb asid page w fe others killed, s.subject = .walkEnd tlb asid page →
       s.mm.walks = [⟨tlb, asid, page, w, fe, .stream st :: others, killed⟩] →
       let base := (s.common st.core).ptbase
       let va := 4096 * page.toNat
       let u := s.modMem fun m => { m with walks := [] }
       let t := u.walked tlb base asid va
       (∀ f, killed = false → u.walk tlb base asid va = some f →
         exec .tableWalkComplete s = .next (others.foldl State.walkOver ((t.installFound st.core asid w fe f).missOver st))) ∧
       (killed = false → u.walk tlb base asid va = none →
         exec .tableWalkComplete s = .next (others.foldl State.walkFault (t.missFaults st))) ∧
       (killed = true → exec .tableWalkComplete s = .next (others.foldl State.walkOver (t.missOver st)))))

/-- In every state each message completes. After a read request the agent holds the line; after an ownership request or a grant
it holds it in M or E, and a grant owes its count; a host agent's request for a line that its port does not cover changes
nothing; after its eviction notice or an invalidation it holds none; a forward with ownership leaves the requester the line of
an owner that holds it; an acknowledgement counts one down; a push owes its writer one for each remote sharer; a host attached
at a port that is not in reset is present. tableWalk leaves the stream a waiter of its page's walk, or asks again;
tableWalkComplete ends the walk of its page. (R336, R384, R387, R388, R389, R390, R392, R398, R410) -/
def Obligations.DirectoryEventsComplete : Prop :=
  ∀ (s : State) (a ln : Nat),
    let writes := fun (t : State) => ∃ l, t.mm.agentLine a ln = some l ∧ (l.st = .m ∨ l.st = .e)
    let owed := fun (t : State) => Table.get 0 t.mm.owed a
    (s.subject = .num2 a ln →
      (∃ t, exec .directoryReadRequest s = .next t ∧ (s.admitsAgent a ln = true → (t.mm.agentLine a ln).isSome = true) ∧
        (s.admitsAgent a ln = false → t = s)) ∧
      (∃ t, exec .evictionNotice s = .next t ∧ t.mm.agentLine a ln = none) ∧
      (∃ t, exec .invalidationAck s = .next t ∧ owed t = owed s - 1)) ∧
    (∀ sync, s.subject = .numFlag a ln sync → ∃ t, exec .directoryOwnershipRequest s = .next t ∧
      (s.admitsAgent a ln = true → writes t) ∧ (s.admitsAgent a ln = false → t = s)) ∧
    (∀ o own, s.subject = .forward o a ln own → ∃ t, exec .forward s = .next t ∧
      ((s.mm.agentLine o ln).isSome = true → (t.mm.agentLine a ln).isSome = true) ∧ (s.mm.agentLine o ln = none → t = s)) ∧
    (∀ w, s.subject = .num3 a ln w → ∃ t, exec .invalidation s = .next t ∧ t.mm.agentLine a ln = none) ∧
    (∀ n, s.subject = .grant a ln n → ∃ t, exec .ownershipGrant s = .next t ∧ writes t ∧ owed t = owed s + n) ∧
    (s.subject = .update ln a → ∃ t, exec .writeUpdatePush s = .next t ∧
      owed t = owed s + (((s.mm.entry ln).sharerList s.mm.present).filter fun b => remoteAgent b && decide (b ≠ a)).length) ∧
    (∀ d, s.subject = .die d → (s.port d).resetting = false → ∃ t, exec .hostAttach s = .next t ∧ 2 + b2n d ∈ t.mm.present) ∧
    (∀ st va acc, s.subject = .walk st va acc → ∃ t, exec .tableWalk s = .next t ∧
      ((∃ w ∈ t.mm.walks, w.page = va.extractLsb' 12 36 ∧ .stream st ∈ w.waiters) ∨ t = s.row .tableWalk (.walk st va acc))) ∧
    (∀ tlb asid page, s.subject = .walkEnd tlb asid page → ∃ t, exec .tableWalkComplete s = .next t ∧
      ∀ w ∈ t.mm.walks, ¬(w.tlb = tlb ∧ w.asid = asid ∧ w.page = page))

/-! ## Events of engines and sashes -/

/-- A command that is not held by a fault starts, at no earlier time than now; one with a release starts once its release is
acknowledged. One that is due does its work, keeping its completion scope, fails with its error, takes its queue's fault or
waits for a later clock; with the work done and nothing owed its token is DONE with the scope, it leaves the queue and its ULI
is pending with that final state if it asked for one; before its time nothing changes. That the time is free, and what of the
work one step does, is log entry 20. (R259, R260, R262, R264, R265, R267, R269, R270) -/
def Obligations.CommandsStartAndEnd : Prop :=
  ∀ (s : State) (st : StreamId) (q : Nat) (c : Command) (rest : List Command),
    let x := s.stream st
    s.subject = .streamNum st q → x.commands q = c :: rest → Table.find x.faultQ q = none → c.fail = none →
    (c.started = false → c.rel = false → ∃ t d, exec .engineCommandStart s = .next t ∧ s.clocks ≤ d ∧
      (t.stream st).commands q = { c with started := true, due := d } :: rest ∧ (t.stream st).tokens = x.tokens) ∧
    (c.started = false → c.rel = true →
      let u := (s.settle st).release st 6
      (u.owes st 6 = true → exec .engineCommandStart s = .next (u.row .engineCommandStart (.streamNum st q))) ∧
      (u.owes st 6 = false → exec .engineCommandStart s =
        .next (u.modCommand st q fun d => { d with started := true, due := u.clocks + u.pick 0 }).picked)) ∧
    (c.started = true → s.clocks < c.due → exec .engineCommandComplete s = .next s) ∧
    (c.started = true → c.due ≤ s.clocks → c.moved = none →
      (∀ k t, s.workOf st q c = (.ok k, t) → exec .engineCommandComplete s =
        .next ((t.modCommand st q fun d => { d with moved := some k }).picked.row .engineCommandComplete (.streamNum st q))) ∧
      (∀ e v t, s.workOf st q c = (.error (.error e v), t) → exec .engineCommandComplete s = .next (t.picked.failCommand st q c e v)) ∧
      (∀ e va a t, s.workOf st q c = (.error (.fault e va a), t) →
        exec .engineCommandComplete s = .next (t.picked.engineFault st q e va a)) ∧
      (∀ t, s.workOf st q c = (.error .wait, t) → exec .engineCommandComplete s =
        .next ((t.modCommand st q fun d => { d with due := max d.due (t.clocks + 1) }).picked))) ∧
    (∀ k, c.started = true → c.due ≤ s.clocks → c.moved = some k → Table.get 0 s.mm.owed st.die = 0 →
      ∃ t, exec .engineCommandComplete s = .next t ∧ (t.stream st).token c.token = .done k ∧
        ((t.stream st).commands q).length = rest.length ∧ (c.ulic = true → (c.token, 2) ∈ (t.stream st).tokenUlis))

/-- A collective whose other members have all come takes them and may go on at once. A remote task's end writes its status word
first and then, with nothing owed, adds to the counter, where the launching ASID owns it (log entry 29). A remote launch for an
exported queue with room is appended and its doorbell follows; for a full queue it waits; for one that is not exported to its
tenant namespace it is refused. A copy under way completes, and a move of the sequencer's own (log entry 6) takes its place in
order. A fired trigger gives its credit, or its ULI to the bound task, or notifies the open ports bound to its ASID. (R160,
R283, R290, R414, R430, R453) -/
def Obligations.EngineEvents : Prop :=
  ∀ (s : State),
    (∀ st q ms c rest o me, s.subject = .collective st q ms → (s.stream st).commands q = c :: rest → c.op = .coll o → c.members = [me] →
      let ranks := (List.range me.size).filter fun r => decide (r ≠ me.rank)
      ms.length = ranks.length → (∀ r ∈ ranks, ∃ m ∈ ms, m.rank = r) →
      exec .collectiveMatch s = .next (s.modCommand st q fun d => { d with members := me :: ms, due := s.clocks })) ∧
    (∀ n v r, s.subject = .remoteEnd n v → s.sched.sent = [r] → r.serial = n →
      (r.rstat = none → Table.get 0 s.mm.owed r.st.die = 0 →
        let t := s.modSched fun d => { d with sent := [] }
        exec .rlaunchRemoteEnd s = .next (if s.ctrOwner r.ctr = r.asid then t.ctrAdd r.ctr r.inc else t)) ∧
      (∀ x, r.rstat = some x → exec .rlaunchRemoteEnd s = .next
        (((s.enginePut r.st 7 x (inLine x.pa 8 v.toNat).1 (inLine x.pa 8 v.toNat).2).modSched fun d =>
          { d with sent := d.sent.map fun p => if p.serial = n then { p with rstat := none } else p }).row
            .rlaunchRemoteEnd (.remoteEnd n v)))) ∧
    (∀ l a, s.subject = .remote l →
      let w := s.qword l.queue 1
      let exported := w.testBit 18 = true ∧ w / 2 ^ 32 % 65536 = l.space.toNat
      (s.qOwner l.queue = none → exec .remoteLaunchReceive s = .next s) ∧
      (s.qOwner l.queue = some a → ¬exported → exec .remoteLaunchReceive s = .next s) ∧
      (s.qOwner l.queue = some a → exported → s.ringFull l.queue = true →
        exec .remoteLaunchReceive s = .next (s.modSched fun d => { d with arriving := d.arriving ++ [l] })) ∧
      (s.qOwner l.queue = some a → exported → s.ringFull l.queue = false → l.payload = [] →
        ∃ t, exec .remoteLaunchReceive s = .next t ∧ t.agenda = s.agenda ++ [.row .doorbell (.num l.queue)] ∧
          t.sched.received = s.sched.received ++ [⟨l.peer, l.serial, l.queue, BitVec.ofNat 32 (s.qword l.queue 4)⟩])) ∧
    (∀ obj r, s.subject = .num obj → (s.mm.tier.find? fun p => decide (p.obj = obj) && p.active) = some r →
      exec .tmoveCopyComplete s = .next (s.lookObjects.moveDone r)) ∧
    (∀ obj v, s.subject = .numWord obj v → s.objPages obj ≠ 0 → (ownMove obj v).place ≠ 1 → exec .tmoveCopyComplete s = .next
      ((s.modMem fun m => { m with tier := m.tier ++ [ownMove obj v] }).serveTier obj (s.mm.tier.length + 2))) ∧
    (∀ n t, s.subject = .num n → s.mm.delayed = [(n, t)] →
      (t.kind = 0 → exec .delayedTriggerAction s = .next (s.credit n t)) ∧
      (t.kind = 1 → ∀ st x, s.streams = [(st, x)] → x.job.isSome = true → x.job = t.job → x.job.map s.runOf = some t.run →
        x.stop = .running → x.ulis.length < 16 →
        ∃ u, exec .delayedTriggerAction s = .next u ∧ (u.stream st).ulis = x.ulis ++ [⟨n, t.target / 1024 % 256⟩] ∧ u.mm.delayed = []) ∧
      (t.kind = 2 → ∃ u, exec .delayedTriggerAction s = .next u ∧ u.mm.delayed = [] ∧ ∀ d, u.port d =
        if s.open_ d && (s.port d).binds t.asid then (s.port d).notify t.target else s.port d))

/-- A directory that was asked answers. A satt whose conditions hold attaches. An srel whose earlier writes are done lowers the
attachment count and, of an RW attachment, raises the generation. An acknowledged write-back leaves the sash EVICTED. A move
that is over leaves it RESIDENT at its new core and pages, and the waiting satt goes on. A fault of the sequencer's own eviction
leaves it RESIDENT. A base whose command has ended lands: it is in its S register and in the C latch, and its sash is reachable.
(R304, R305, R308, R313, R314, R318) -/
def Obligations.SashEvents : Prop :=
  ∀ (s : State),
    (∀ st, s.subject = .stream st → (s.stream st).dirAsk.isSome = true → ∃ t, exec .sashDirectoryAnswer s = .next t ∧
      (t.stream st).dirAns = true) ∧
    (∀ st q c rest o key, s.subject = .streamNum st q → (s.stream st).commands q = c :: rest → c.op = .satt o →
      s.sashLive (sashName c.priv c.asid (c.sg 8)) = some key → c.moved = none →
      (c.attStep st q o (s.sash key) = .attach → exec .sattAttach s = .next (s.attachDone st q c o key)) ∧
      (c.attStep st q o (s.sash key) ≠ .attach → exec .sattAttach s = .next s)) ∧
    (∀ st q c rest o a, s.subject = .streamNum st q → (s.stream st).commands q = c :: rest → c.op = .srel o → c.moved = none →
      c.released = some a → c.info ≠ [] → s.writesTo st a c.seq = false → c.addr 12 = 0 →
      (s.sash a.key).st ≠ .dead → ∃ t, exec .srelComplete s = .next t ∧
        (t.sash a.key).attach = (s.sash a.key).attach - 1 ∧ (t.sash a.key).lastrel = s.ltime ∧
        (t.sash a.key).gen = (if a.rw then (s.sash a.key).gen + 1 else (s.sash a.key).gen) ∧
        (a.rw = true → (t.sash a.key).rwh = false)) ∧
    (∀ key, s.subject = .sash key →
      let e := s.sash key
      (e.st = .evicting → e.wrote = true → e.dropping = false → Table.get 0 s.mm.owed (e.tile / 32) = 0 →
        ∃ t, exec .sashWritebackAck s = .next t ∧ (t.sash key).st = .evicted ∧ (t.sash key).own = false ∧
          ∀ k < e.pages.toNat, t.owner e.tile e.space.toNat (e.base.toNat + k) = .free) ∧
      (e.st ≠ .evicting → exec .sashWritebackAck s = .next s) ∧
      (∀ st q, e.st = .restoring → e.creating = false → e.moving = true → e.client = some (st, q) → e.dropping = false →
        ∃ t, exec .sashRestoreComplete s = .next t ∧ (t.sash key).st = .resident ∧ (t.sash key).core = e.toCore ∧
          (t.sash key).base = e.toBase ∧ t.agenda = .row .sattAttach (.streamNum st q) :: s.agenda)) ∧
    (∀ key va, s.subject = .num2 key va → (s.sash key).st = .evicting → (s.sash key).dropping = false →
      ∃ t, exec .evictionWritebackFault s = .next t ∧ (t.sash key).st = .resident ∧
        t.sched.faulted = ((s.sash key).request, key) :: s.sched.faulted) ∧
    (∀ st b r, s.subject = .stream st → (s.stream st).bases = [b] → (∀ q ∈ (s.stream st).queues, ∀ c ∈ q.2, c.seq ≠ b.seq) → b.dest = .s r →
      ∃ t, exec .baseLanding s = .next t ∧
      (t.stream st).bases = [] ∧ File.get (t.stream st).s r = b.val ∧
      (t.stream st).latches.c.head? = some ⟨b.val.setWidth 1024, false⟩ ∧
      ∀ a ∈ (t.stream st).attached, a.name = b.name → a.landed = true)

/-! ## Events of the sequencer -/

/-- A doorbell brings TAIL. A free slot goes to the best waiting queue. A record that may begin and validates is in its slot,
RUNNING; one at DISP of a mapped queue that may not begin yet shows WAITDEP; a cancelled record at DISP, mapped or not (log
entry 19), ends without running: DISP passes it, its STATE is 6, its CODE CANCEL, NEXT and DONE are 0; one behind it is noted. A
reclaim starts to unmap the victim and asks its core-tasks to be preempted; once it has drained it has no slot. A unit whose
members have all ended is counted, a failed one too (log entry 19), and adds GRPINC unless it failed, and with the last one the
launch ends; a kind 4 record ends with its copy. (R429, R430, R431, R432, R433, R434, R438, R439, R440) -/
def Obligations.QueueEvents : Prop :=
  ∀ (s : State) (q n : Nat),
    (s.subject = .num q →
      (let u := s.lookQueue q
       (∀ a, u.qOwner q = some a → (u.qword q 4) % 2 ^ 32 ≠ u.tailOf q →
         ∃ t, exec .doorbell s = .next t ∧ t.tailOf q = u.qword q 4 % 2 ^ 32) ∧
       (∀ a, u.qOwner q = some a → (u.qword q 4) % 2 ^ 32 = u.tailOf q → exec .doorbell s = .next u)) ∧
      (s.mayBegin q = true → s.depends q = true →
        let u := s.lookRecord q (s.dispOf q)
        (u.qword q 1).testBit 17 = false → u.launch q (u.dispOf q) = none →
        ∀ a secs ras v, u.qOwner q = some a → u.judgeRecord (u.ringRecord q (u.dispOf q)) a = ([], secs, ras, v) →
          ∃ t l, exec .recordBegin s = .next t ∧ t.launch q (u.dispOf q) = some l ∧ l.copy = u.ringRecord q (u.dispOf q) ∧
            l.code = none ∧ l.asid = a ∧ l.sections = secs) ∧
      ((s.mayBegin q && s.depends q) = false → exec .recordBegin s =
        .next (if s.unshown q then s.putStatus_ q (s.dispOf q) 1 0 0 0 else s))) ∧
    (∀ k, s.freeSlot = some k → bestBy s.waitingQueues s.waitPrio (after s.sched.lastMapped) = some q →
      ∃ t e, exec .queueMap s = .next t ∧ Table.find t.sched.slots k = some e ∧ e.queue = q ∧ Table.find t.sched.waits q = none) ∧
    (s.subject = .num2 q n → s.launch q n = none → s.atDisp q = true →
      (n = s.dispOf q → exec .recordCancel s = .next ((s.lookRecord q n).cancelNow q) ∧
        let d := fld (s.ctl 0xA00) 0 52 + 64 * q
        let r := s.recordAddr q n
        Mem.wf s.mm.mem = true → d % 64 = 0 → (region d).isMemory = true → s.rangeOf (d / 128) = none → (d + 64 ≤ r ∨ r + 256 ≤ d) →
        (∀ k < 256, (region (r + k)).isMemory = true ∧ s.rangeOf ((r + k) / 128) = none) →
        ∃ t, exec .recordCancel s = .next t ∧ t.dispOf q = (n + 1) % 2 ^ 32 ∧ t.phys (r + 0x50) 8 = 0 ∧
          t.phys (r + 0x58) 8 = 6 + 256 * cCANCEL.toNat ∧ t.launch q n = none) ∧
      (n < 2 ^ 32 → n ≠ s.dispOf q →
        (n + 2 ^ 32 - s.dispOf q) % 2 ^ 32 < (s.tailOf q + 2 ^ 32 - s.dispOf q) % 2 ^ 32 →
        ∃ t, exec .recordCancel s = .next t ∧ (q, BitVec.ofNat 32 n) ∈ t.sched.cancels)) ∧
    (∀ c, s.subject = .num c →
      ((∀ e ∈ s.sched.draining, e.2 ≠ c) → s.reclaims c = true → s.victim = some q → ∃ t, exec .slotReclaim s = .next t ∧
        (q, c) ∈ t.sched.draining ∧ ∀ st j, st.isTile = true → (s.stream st).stop ≠ .halted → (s.stream st).stop ≠ .saved →
          (s.stream st).job = some j → j.queue = q → (t.stream st).preempt.isSome = true) ∧
      (∀ d, (s.sched.draining.find? fun e => e.2 = c && s.drained e.1) = some (q, d) → ∃ t, exec .slotReclaim s = .next t ∧
        ∀ e ∈ t.sched.slots, e.2.queue ≠ q)) ∧
    (∀ u l p, s.subject = .unit ⟨q, n, u⟩ → s.launch q n = some l → l.copy.kind ≠ 4 → (l.placed.find? fun p => p.unit = u) = some p →
      (∀ m ∈ p.members, m.1 ∈ p.ended) → (∀ e ∈ s.sched.requeued, ¬(e.1.queue = q ∧ e.1.record = n)) →
      (∀ e ∈ s.sched.parked, ¬(e.job.queue = q ∧ e.job.record = n)) →
      (l.code = none → l.next < l.units → ∃ t m, exec .groupEnd s = .next t ∧ t.launch q n = some m ∧ m.done = l.done + 1 ∧
        (∀ r ∈ m.placed, r.unit ≠ u) ∧
        (p.failed = false → t.ctr l.copy.grpctr = s.ctr l.copy.grpctr + BitVec.ofNat 64 l.copy.grpinc)) ∧
      ((l.code.isSome = true ∨ l.units ≤ l.next) → l.placed = [p] → ∃ t, exec .groupEnd s = .next t ∧ t.launch q n = none)) ∧
    (∀ u l t, s.subject = .unit ⟨q, n, u⟩ → s.launch q n = some l → l.copy.kind = 4 → l.placed ≠ [] →
      s.copyRecord l.copy l.asid = (none, t) → exec .groupEnd s =
        .next ((((t.modLaunch q n fun l => { l with placed := [], done := 1 }).groupAdd l.copy).showLaunch q n).closeLaunch q n))

/-- A group goes to the core with the most free waves and its waves start with s0, s1, WID and their lanes; the scores are
halved. A gang is loaded, staged; a die reports ready and the last report fixes T, 8 or 128 clocks later; at T its core-tasks
run, not before. A task that a cause has ended stands again at the head of its queue where it may be rerun, else its launch
fails. The next core-task is parked on a core with room, and takes the context that becomes free. That waves take the lowest
free slots is log entry 19, what is preloaded log entry 47. (R34, R426, R435, R436, R437, R441, R442) -/
def Obligations.PlacementEvents : Prop :=
  ∀ (s : State) (q n : Nat) (l : Launch),
    (s.subject = .num2 q n → s.launch q n = some l → s.mayPlace l = true →
      (l.copy.kind = 1 → l.copy.clevel = 0 → l.copy.dlevel = 0 → l.raster = none → ∀ k,
        bestBy (((l.copy.clusters (l.copy.dies l.next 0)).flatMap id).filter fun i => s.fitsCore l.copy i)
          (fun i => (s.freeWaves i).length) id = some k →
        ∃ t m, exec .groupDispatch s = .next t ∧ t.launch q n = some m ∧ m.next = l.next + 1 ∧
          ∀ i w, ((s.freeWaves k).take l.copy.size)[i]? = some w →
            let x := t.stream (.wave k w)
            File.get x.s 0 = BitVec.ofNat 64 l.copy.args ∧ File.get x.s 1 = s.recordWord l ∧
            x.csr.wid = l.copy.wid (l.copy.fields l.next i) ∧ x.csr.asid = l.asid ∧ x.thr.regs = l.copy.vregs ∧
            (∀ j < 32, x.thr.active.getLsbD j = decide (j < l.copy.extent 0)) ∧ x.job = some ⟨q, n, l.next, i⟩) ∧
      (l.copy.kind = 2 → ∀ ps ws cs t u, s.seatGang l l.next = some ps → s.takeAll l l.next ps = (some ws, t) →
        t.readCodes l (ps.map (·.1)) = (.ok cs, u) → ∃ v m, exec .gangLaunch s = .next v ∧ v.launch q n = some m ∧
          m.next = l.next + 1 ∧ ∀ p ∈ ps, (v.stream (.tile p.2.1 p.2.2)).stop = .staged) ∧
      (l.preloads = true → ∀ c w t code u, s.parkCore l = some c → s.takeWindows l.copy c l.order (l.job l.next 0) = (some w, t) →
        t.readCode l 0 = (.ok code, u) → ∃ v m, exec .preload s = .next v ∧ v.launch q n = some m ∧ m.next = l.next + 1 ∧
          ∃ p ∈ v.sched.parked, p.core = c ∧ p.job = l.job l.next 0)) ∧
    (∀ i, s.subject = .num i → (∃ t, exec .localityScoreDecay s = .next t ∧
      ∀ c w, Table.get 0 (t.shader c).scores w = Table.get 0 (s.shader c).scores w / 2)) ∧
    (∀ u d p, s.subject = .unitDie ⟨q, n, u⟩ d → s.launch q n = some l → (l.placed.find? fun p => p.unit = u) = some p →
      p.failed = false → l.copy.sashList = [] → (if d then p.ready1 else p.ready0) = false →
      ∃ t m r, exec .gangReadyReport s = .next t ∧ t.launch q n = some m ∧ (m.placed.find? fun p => p.unit = u) = some r ∧
        (if d then r.ready1 else r.ready0) = true ∧
        ((if d then p.ready0 else p.ready1) = true → r.release =
          some (s.ltime + if !(s.stagedOn p 0).isEmpty && !(s.stagedOn p 1).isEmpty then 128 else 8))) ∧
    (∀ u p T, s.subject = .unit ⟨q, n, u⟩ → s.launch q n = some l → (l.placed.find? fun p => p.unit = u) = some p →
      p.release = some T →
      (s.reached T = true → ∃ t, exec .gangRelease s = .next t ∧ ∀ m ∈ p.members, (s.stream m.2).stop = .staged →
        (t.stream m.2).stop = .running) ∧
      (s.reached T = false → exec .gangRelease s = .next s)) ∧
    (∀ st again code j, s.subject = .streamFlagWord st again code → (s.stream st).job = some j → s.launchOf j = some l →
      let u := s.haltUnit st
      let key := (j.unit, if st.isWave then 0 else j.member)
      let may := again && l.copy.rerun && decide (Table.get 0 l.reruns key < l.copy.reruns) && l.code.isNone
      (may = true → ((u.unitStreams st).all fun w => (u.stream w).settled) = true → ∃ t r, exec .rerun s = .next t ∧
        (⟨j.queue, j.record, key.1, key.2⟩, .rerun r) ∈ t.sched.requeued) ∧
      (may = false → ∃ t m, exec .rerun s = .next t ∧ t.launch j.queue j.record = some m ∧
        m.code = some (l.code.getD (code.setWidth 8)))) ∧
    (∀ c p b, s.subject = .num c → (s.sched.parked.find? fun p => p.core = c) = some p → s.launchOf p.job = some l →
      (s.ctxsFor l.copy c []).head? = some b → ∃ t, exec .parkedTaskStart s = .next t ∧
        (t.stream (.tile c b)).job = some p.job ∧ (t.stream (.tile c b)).stop = .staged ∧ p ∉ t.sched.parked)

/-- A preemption request is kept by a core-task and stops the dispatch of a shader launch. A save, unless an error is about to
end the task, puts a context into a free area of its queue and its task at the queue's head. A restore brings it back on its
core with its program counter, registers and WID as they were and its latches lost, and frees the area. A budget that runs out
asks for preemption or stops dispatch; a further one ends the core-task, unless it presents an eligible SB bundle. (R365, R366,
R367, R368, R370, R371, R372) -/
def Obligations.PreemptionEvents : Prop :=
  ∀ (s : State) (st : StreamId) (j : Job),
    (∀ r, s.subject = .request st r → (s.stream st).job = some j →
      (st.isTile = true → st ∈ s.together st → (s.stream st).stop ≠ .halted → (s.stream st).stop ≠ .saved →
        ∃ t, exec .preemptionRequest s = .next t ∧ (t.stream st).preempt.isSome = true) ∧
      (∀ l, st.isWave = true → s.launchOf j = some l → ∃ t m, exec .preemptionRequest s = .next t ∧ t.launchOf j = some m ∧
        m.paused = true)) ∧
    (∀ r k, s.subject = .stream st → st.isTile = true → (s.stream st).stop = .running → (s.stream st).preempt = some r →
      let u := ((s.settle st).wbDrain st fun _ => true).clearReservations st (BitVec.allOnes 32)
      (u.stream st).job = some j → (u.stream st).preempt = some r → u.dying st = false → u.freeArea j.queue = some k →
      ∃ t a, exec .preemptionSave s = .next t ∧ a ∈ t.sched.saves ∧ a.queue = j.queue ∧ a.area = k ∧ a.job = j ∧
        a.core = st.tileOf ∧ a.stream.pc = (u.stream st).pc ∧ a.stream.v = (u.stream st).v ∧
        (j, .saved k) ∈ t.sched.requeued) ∧
    (∀ q k a b l code u, s.subject = .num2 q k → (s.sched.saves.find? fun a => a.queue = q && a.area = k) = some a →
      a.stream.csr.qown = false → s.stillAt a = none → (s.qslot q).isSome = true → s.isDraining q = false → s.backSeat a = some b →
      s.launchOf a.job = some l → s.readCode l a.job.member = (.ok code, u) →
      ∃ t, exec .contextRestore s = .next t ∧ a ∉ t.sched.saves ∧
        let x := t.stream (.tile a.core b)
        x.stop = .running ∧ x.pc = a.stream.pc ∧ x.s = a.stream.s ∧ x.p = a.stream.p ∧ x.v = a.stream.v ∧
        x.csr.wid = a.stream.csr.wid ∧ x.job = a.stream.job ∧ x.latches = Latches.lost) ∧
    (∀ l, s.subject = .stream st → (s.stream st).job = some j → s.launchOf j = some l → st.isTile = true →
      (s.stream st).stop ≠ .halted → (s.stream st).stop ≠ .saved →
      (overBudget l.copy (s.spent st) 1 = true → st ∈ s.together st →
        ∃ t, exec .budgetExpiry s = .next t ∧ (t.stream st).preempt.isSome = true) ∧
      (overBudget l.copy (s.spent st) 1 = false → exec .budgetExpiry s = .next s) ∧
      (overBudget l.copy (s.spent st) 2 = true → s.presentsSave st = true → exec .budgetFinalExpiry s = .next s) ∧
      (overBudget l.copy (s.spent st) 2 = true → s.presentsSave st = false → ∃ t, exec .budgetFinalExpiry s = .next t ∧ (t.stream st).stop = .halted ∧
        (st, false, cBUDGET.toNat) ∈ t.sched.ending)) ∧
    (∀ q n l, s.subject = .num2 q n → s.launch q n = some l →
      (overBudget l.copy (s.groupsSpent l) 1 = true → ∃ t m, exec .budgetExpiry s = .next t ∧ t.launch q n = some m ∧
        m.paused = true) ∧
      (overBudget l.copy (s.groupsSpent l) 2 = true → exec .budgetFinalExpiry s = .next (s.endGroups q n l)))

/-- On an open port: a grant binds its context to its ASID once; an append to the context's own queue with room takes its bytes
there; a cancel may be obeyed (log entry 12); a blob access writes or reads its bytes; the counter page reads bound counters and
adds to them. A port's reset records its kind and drops its cache agent, then its contexts, blobs and submissions (what it keeps
is log entry 33); a notification of a virtqueue that the operating system serves raises source 1. A good flit in order is
accepted and held, a bad one asks for a NAK. A retrain, whose outcome is free (log entry 32), sends the buffer again, fails, or
takes the port down. Boot (log entry 33) ends in recovery or with the operating system on every supervisor core. Limits fall by
an eighth and come back. (R289, R402, R432, R451, R452, R453, R454, R456, R458, R459, R460, R462) -/
def Obligations.HostEvents : Prop :=
  ∀ (s : State) (d : Bool),
    (s.open_ d = true →
      (∀ ctx grant x y, s.subject = .host d ctx grant x y →
        (((s.port d).asidOf ctx).isSome = true → exec .bind s = .next (s.answer d .invalidParameter)) ∧
        ((s.port d).asidOf ctx = none → ∃ t, exec .bind s = .next t ∧
          (∀ a, Config.grantAsid s.free grant = some a → (t.port d).asidOf ctx = some a ∧ (t.port d).answer = .ok) ∧
          (Config.grantAsid s.free grant = none → t = (s.answer d .invalidParameter).picked))) ∧
      (∀ q b off a ps u, s.subject = .append d q b off → (s.port d).asidOf b.ctx = some a → (s.port d).knows b = true →
        off + 256 ≤ b.size → s.qOwner q = some a → s.ringFull q = false → (s.port d).waiting = [] →
        (s.modPort d fun p => p.withBlob b).blobPages a b off 256 false = (.ok ps, u) →
        let r := u.readThrough 5 ps (b.addr.toNat + off) 256
        exec .append s = .next ((r.2.appendRecord q r.1).answer d .ok)) ∧
      (∀ ctx q n x a, s.subject = .host d ctx q n x → (s.port d).asidOf ctx = some a →
        ∃ t, exec .cancel s = .next t ∧ (t.port d).answer = .ok ∧
          (s.pickBit 0 = true → t.agenda = s.agenda ++ [.row .recordCancel (.num2 q n)])) ∧
      (∀ b off n a ps u, (s.port d).asidOf b.ctx = some a → (s.port d).knows b = true → b.mapped = true →
        let v := s.modPort d fun p => p.withBlob b
        (∀ data, s.subject = .blob d b off (some data) n → off + data.length ≤ b.size →
          v.blobPages a b off data.length true = (.ok ps, u) →
          exec .hostBlobAccess s = .next (u.putThrough 5 ps (b.addr.toNat + off) data)) ∧
        (s.subject = .blob d b off none n → off + n ≤ b.size → v.blobPages a b off n false = (.ok ps, u) →
          ∃ t, exec .hostBlobAccess s = .next t ∧ (t.port d).read = (u.readThrough 5 ps (b.addr.toNat + off) n).1)) ∧
      (∀ off x y z, s.subject = .host d off x y z → ∃ t, exec .hostCounterRead s = .next t ∧ ∀ k < 4096,
        (off = 8 * k → (t.port d).read = leBytes 8 (if (s.port d).binds (s.ctrOwner k) then (s.ctr k).toNat else 0))) ∧
      (∀ k v, s.subject = .hostWord d (8 * k) v → k < 4096 →
        ((s.port d).binds (s.ctrOwner k) = true → ∃ t, exec .hostCounterWrite s = .next t ∧ t.ctr k = s.ctr k + v) ∧
        ((s.port d).binds (s.ctrOwner k) = false → exec .hostCounterWrite s = .next s))) ∧
    (s.subject = .die d →
      ((s.port d).resetting = false → ∃ t, exec .portReset s = .next t ∧ (t.port d).resetting = true ∧ 2 + b2n d ∉ t.mm.present) ∧
      ((s.port d).resetting = false → exec .virtqueueNotification s = .next (s.raiseSource 1)) ∧
      ((s.port d).resetting = true → exec .portReset s = .next s ∧ exec .virtqueueNotification s = .next s) ∧
      (let n := Table.get 0 s.edge.lowered d
       ∃ t, exec .thermalLimit s = .next t ∧ Table.get 0 t.edge.lowered d = min 8 (n + 1) ∧
        (n = 0 → ∀ c ∈ coresOfDie (b2n d), (t.common c).curlim = steppedLimit (s.common c).curlim 1)) ∧
      (∃ t, exec .thermalRecover s = .next t ∧ Table.get 0 t.edge.lowered d = Table.get 0 s.edge.lowered d - 1 ∧
        (Table.get 0 s.edge.lowered d = 1 → ∀ c ∈ coresOfDie (b2n d),
          (t.common c).curlim = Table.get (s.common c).curlim s.edge.configured c))) ∧
    (∀ k x y z, s.subject = .host d k x y z → (s.port d).resetting = false →
      (∃ t, exec .portReset s = .next t ∧ (t.port d).resetting = true ∧ (t.port d).kind = ResetKind.ofNum k ∧ (t.port d).window = (0, 0)) ∧
      (∀ f, PortFunction.ofNum k = some f → exec .virtqueueNotification s = .next (if f.served x then s.raiseSource 1 else s))) ∧
    (s.subject = .num2 (b2n d) 1 → (s.port d).resetting = true → ∃ t, exec .portReset s = .next t ∧
      (t.port d).ctxs = [] ∧ (t.port d).blobs = [] ∧ (t.port d).subs = [] ∧ (t.port d).resetting = false ∧ (t.port d).count = (s.port d).count) ∧
    (∀ p f, s.subject = .flit p f → f.length = 256 → (s.link p).down = false →
      let h := leNat (f.take 8)
      let good := decide (crc64 (f.take 248) = leNat (f.drop 248))
      (good = false → ∃ t, exec .flitReceive s = .next t ∧ (t.link p).nak = true ∧ (t.link p).expected = (s.link p).expected) ∧
      (good = true → h % 16 ≠ 0 → h % 16 < 5 → h / 2 ^ 53 = 0 → BitVec.ofNat 12 (h / 2 ^ 16) = (s.link p).expected →
        File.get (s.link p).held (BitVec.ofNat 2 (h / 16 % 4)) < 512 → ∃ t, exec .flitReceive s = .next t ∧
        (t.link p).expected = (s.link p).expected + 1 ∧ File.get (t.link p).held (BitVec.ofNat 2 (h / 16 % 4)) =
          File.get (s.link p).held (BitVec.ofNat 2 (h / 16 % 4)) + 1 ∧
        (t.link p).got = (s.link p).got ++ [Flit.read (BitVec.ofNat 64 h) ((f.take 248).drop 8)])) ∧
    (∀ p, s.subject = .num p → (s.link p).down = false → ∃ t, exec .linkRetrain s = .next t ∧
      (s.pickBit 0 = true → (t.link p).fails = 0 ∧ (t.link p).resend = (s.link p).retry.map (·.1)) ∧
      (s.pickBit 0 = false → 2 ≤ (s.link p).fails → (t.link p).down = true) ∧
      (s.pickBit 0 = false → (s.link p).fails < 2 → (t.link p).fails = (s.link p).fails + 1)) ∧
    (∃ t, exec .boot s = .next t ∧
      let runs := (Config.bootVerdict 2 || Config.bootVerdict 3) && (Config.bootVerdict 4 || Config.bootVerdict 5)
      (runs = false → t.edge.boot = .recovery) ∧
      (runs = true → t.edge.boot = .done ∧ ∀ n < 32, t.stream (.super n) = Stream.osStart))

/-! ## Frames and the invariant -/

/-- When an admitted operation that writes an S, V or P register gives a next state: memory, caches, every other stream, every
tile core but for the inbound queues that the header pops and, in handler mode, the outbound queue that the destination names,
every other core, barrier, sash, queue and control word are as before; of the stream every register but the destination, and on
a tile context outside handler mode every register; of its CSRs only LLOST, the flags and SRSTEP may change; on such a context
the flags too are as before, and the result is the last of those that are to land. (R8, R19, R22, R71, R93, R95, R127, R164,
R347) -/
def Obligations.RegisterFrame : Prop :=
  ∀ (s t : State) (i : Instr),
    let st := s.iss.st
    let x := s.stream st
    let y := t.stream st
    let intoS := fun (r : BitVec 6) => (∃ o : SOp, o.dst.reg = r ∧ i ∈ [Instr.add o, .sub o, .mul o, .mulh o, .mulhn o, .div o, .divn o,
      .rem o, .remn o, .and o, .or o, .xor o, .andn o, .shl o, .shr o, .sar o, .rol o, .min o, .minn o, .max o, .maxn o, .clz o, .ctz o,
      .popc o, .sext o, .zext o, .bfx o, .bfi o, .sel o, .li o, .lih o, .pmovHToS o, .fadd o, .fsub o, .fmul o, .fdiv o, .fsqrt o,
      .ffma o, .fcvt o, .fminmax o, .mfs o, .lea o, .addpc o, .wid o]) ∨
      ∃ o : VOp, o.dst.reg = r ∧ i ∈ [Instr.vext o, .vpcnt o, .vpfirst o]
    let intoV := fun (r : BitVec 6) => ∃ o : VOp, o.dst.reg = r ∧ i ∈ [Instr.vadd o, .vsub o, .vmul o, .vmulh o, .vmad o, .vabs o, .vneg o,
      .vmin o, .vmax o, .vadds o, .vsubs o, .vavg o, .vsad o, .vand o, .vor o, .vxor o, .vandn o, .vshl o, .vshr o, .vsar o, .vclz o,
      .vpopc o, .vbsel o, .vbfx o, .vbfi o, .vsel o, .vfadd o, .vfsub o, .vfmul o, .vffma o, .vfmin o, .vfmax o, .vrcp o, .vrsq o,
      .vsqrt o, .vexp2 o, .vlog2 o, .vsin o, .vcos o, .vtanh o, .vcvt o, .vtbl o, .vperm o, .vslide o, .vshfl o, .vbcast o, .vins o,
      .vzip o, .vunzip o, .vmov o, .vmovS o, .vli o, .vlane o, .vredadd o, .vredmin o, .vredmax o, .vredlog o, .vscan o, .vfredadd o]
    let intoP := fun (r : BitVec 4) => (∃ o : SOp, o.dst.reg.setWidth 4 = r ∧ i ∈ [Instr.cmp o, .plog o, .pmov o, .pmovHFromS o, .pmovB o,
      .fcmp o]) ∨ ∃ o : VOp, o.dst.reg.setWidth 4 = r ∧ i ∈ [Instr.vcmp o, .vplog o, .vpany o]
    s.admits i = true → exec i s = .next t →
    ((∃ r, intoS r) ∨ (∃ r, intoV r) ∨ (∃ r, intoP r) →
      (t.mm = s.mm ∧ (∀ u, u ≠ st → t.stream u = s.stream u) ∧ t.shaders = s.shaders ∧ t.supers = s.supers ∧
        t.barriers = s.barriers ∧ t.sched = s.sched ∧ t.edge = s.edge ∧ t.agenda = s.agenda ∧
        (∀ c, t.tile c = { s.tile c with inq := (t.tile c).inq, outq := (t.tile c).outq }) ∧
        ∀ c q, (s.timed st = false ∧ Shape.out (i.shape st.ctype) = some q ∧ st.core = .tile c) ∨
          File.get (t.tile c).outq q = File.get (s.tile c).outq q) ∧
      y.csr = { x.csr with llost := y.csr.llost, fflags := y.csr.fflags, mflags := y.csr.mflags, srstep := y.csr.srstep } ∧
      (s.timed st = true → y.s = x.s ∧ y.v = x.v ∧ y.p = x.p ∧ y.uliSet = x.uliSet ∧ y.svcSet = x.svcSet ∧ y.latches = x.latches ∧
        y.csr.fflags = x.csr.fflags ∧ y.csr.mflags = x.csr.mflags ∧
        (y.pend = x.pend ∨ ∃ r, y.pend = x.pend ++ [r] ∧ r.seq = x.seq))) ∧
    (∀ r, intoS r → y.v = x.v ∧ y.p = x.p ∧ ∀ k, k ≠ r → y.readS k = x.readS k ∧ File.get y.s k = File.get x.s k) ∧
    (∀ r, intoV r → y.s = x.s ∧ y.p = x.p ∧ ∀ k, k ≠ r → File.get y.v k = File.get x.v k) ∧
    (∀ r, intoP r → y.s = x.s ∧ y.v = x.v ∧ ∀ k, k ≠ r → File.get y.p k = File.get x.p k)

/-- When jmp, call, ret, loop, brk, bru, brl or jmpl gives a next state, memory at its homes, every other stream, the tile
cores' buffers, the barriers and the event counters are as before, and of the stream every V and P register and every S register
but the destination of call and loop; that holds also where it takes a trap. (R136, R137, R139, R350) -/
def Obligations.ControlFrame : Prop :=
  ∀ (s t : State) (i : Instr) (o : SOp),
    i ∈ [Instr.jmp o, .call o, .ret o, .loop o, .brk o, .bru o, .brl o, .jmpl o] → exec i s = .next t →
    let x := s.stream s.iss.st
    let y := t.stream s.iss.st
    t.mm = s.mm ∧ (∀ u, u ≠ s.iss.st → t.stream u = s.stream u) ∧ t.barriers = s.barriers ∧
    (∀ c, (t.tile c).wbuf = (s.tile c).wbuf ∧ (t.tile c).abuf = (s.tile c).abuf ∧ (t.tile c).kbuf = (s.tile c).kbuf) ∧
    y.v = x.v ∧ y.p = x.p ∧ (∀ k, (i = .call o ∨ i = .loop o) ∧ k = o.dst.reg ∨ File.get y.s k = File.get x.s k)

/-- In every state whose memory lists its bytes in rising order of their addresses, and no byte that is 0, a step that answers a
next state leaves it so; equal memories are therefore equal lists. The canonical form is the model's (log entry 1). (R2, R338)
-/
def Obligations.MemoryStaysCanonical : Prop :=
  ∀ (s t : State), Mem.wf s.mm.mem = true → step s = .next t → Mem.wf t.mm.mem = true
end

