-- ==== Sys2Proof/Laws/Mem.lean ====
section
/-! SUPPORT. Memory in canonical form: what a byte reads as after a write, and that every operation keeps the form. -/

namespace Sys2Proof.Machine

/-! ## The canonical form -/

/-- A lower bound may be lowered. -/
theorem Mem.above_mono {m : List Host.Cell} {lo lo' : Nat} (h : lo' ≤ lo) (hm : Mem.above lo m = true) : Mem.above lo' m = true := by
  cases m with
  | nil => rfl
  | cons e t =>
    simp only [Mem.above, Bool.and_eq_true, decide_eq_true_eq] at hm ⊢
    exact ⟨⟨Nat.le_trans h hm.1.1, hm.1.2⟩, hm.2⟩

/-- An address below every listed one reads as 0. -/
theorem Mem.get_below {m : List Host.Cell} {lo k : Nat} (hm : Mem.above lo m = true) (h : k < lo) : Mem.get m k = 0 := by
  cases m with
  | nil => rfl
  | cons e t =>
    obtain ⟨a, b⟩ := e
    simp only [Mem.above, Bool.and_eq_true, decide_eq_true_eq] at hm
    have : k < a := Nat.lt_of_lt_of_le h hm.1.1
    simp [Mem.get, Nat.ne_of_gt this, this]

/-- A write keeps the form, above a bound that is no higher than its address. -/
theorem Mem.above_put {m : List Host.Cell} {lo k : Nat} (v : Byte) (hm : Mem.above lo m = true) (h : lo ≤ k) :
    Mem.above lo (Mem.put m k v) = true := by
  induction m generalizing lo with
  | nil => by_cases hv : v = 0#8 <;> simp [Mem.put, Mem.above, hv, h]
  | cons e t ih =>
    obtain ⟨a, b⟩ := e
    simp only [Mem.above, Bool.and_eq_true, decide_eq_true_eq] at hm
    obtain ⟨⟨ha, hb⟩, ht⟩ := hm
    have hb : b ≠ 0#8 := hb
    simp only [Mem.put]
    split
    · next hk =>
      by_cases hv : v = 0#8
      · simp [hv, Mem.above, ha, hb, ht]
      · simp [hv, Mem.above, h, Nat.succ_le_of_lt hk, hb, ht]
    · next hk =>
      split
      · next he =>
        subst he
        by_cases hv : v = 0#8
        · simpa [hv] using Mem.above_mono (by omega) ht
        · simp [hv, Mem.above, h, ht]
      · next he => simp [Mem.above, ha, hb, ih ht (by omega)]

/-- A write of one byte keeps the canonical form. -/
theorem Mem.wf_put {m : List Host.Cell} (k : Nat) (v : Byte) (hm : Mem.wf m = true) : Mem.wf (Mem.put m k v) = true :=
  Mem.above_put v hm (Nat.zero_le k)

/-- A byte written reads back; every other byte is as it was. -/
theorem Mem.get_put {m : List Host.Cell} {lo : Nat} (k j : Nat) (v : Byte) (hm : Mem.above lo m = true) :
    Mem.get (Mem.put m k v) j = if j = k then v else Mem.get m j := by
  induction m generalizing lo with
  | nil =>
    by_cases hv : v = 0#8
    · simp [Mem.put, hv, Mem.get]
    · by_cases hj : j = k
      · simp [Mem.put, hv, Mem.get, hj]
      · simp [Mem.put, hv, Mem.get, hj, Ne.symm hj]
  | cons e t ih =>
    obtain ⟨a, b⟩ := e
    simp only [Mem.above, Bool.and_eq_true, decide_eq_true_eq] at hm
    obtain ⟨⟨-, -⟩, ht⟩ := hm
    simp only [Mem.put]
    split
    · next hk =>
      by_cases hv : v = 0#8
      · by_cases hj : j = k
        · subst hj; simp [hv, Mem.get, Nat.ne_of_gt hk, hk]
        · simp [hv, hj]
      · by_cases hj : j = k
        · simp [hv, Mem.get, hj]
        · by_cases hlt : j < k
          · have : j < a := by omega
            simp [hv, Mem.get, hj, Ne.symm hj, hlt, Nat.ne_of_gt this, this]
          · simp [hv, Mem.get, hj, Ne.symm hj, hlt]
    · next hk =>
      split
      · next he =>
        subst he
        by_cases hv : v = 0#8
        · by_cases hj : j = k
          · subst hj
            simpa [hv] using Mem.get_below ht (Nat.lt_succ_self j)
          · by_cases hlt : j < k
            · simp [hv, hj, Mem.get, Ne.symm hj, hlt, Mem.get_below ht (by omega : j < k + 1)]
            · simp [hv, hj, Mem.get, Ne.symm hj, hlt]
        · by_cases hj : j = k
          · simp [hv, Mem.get, hj]
          · simp [hv, Mem.get, hj, Ne.symm hj]
      · next he =>
        by_cases hja : j = a
        · subst hja
          simp [Mem.get, Ne.symm he]
        · by_cases hlt : j < a
          · have : j ≠ k := by omega
            simp [Mem.get, Ne.symm hja, hlt, this]
          · simp only [Mem.get, Ne.symm hja, hlt, if_false]
            exact ih ht

/-! ## Filters, and runs of bytes -/

/-- A part of a memory is in form. -/
theorem Mem.above_filter {m : List Host.Cell} {lo : Nat} (p : Host.Cell → Bool) (hm : Mem.above lo m = true) :
    Mem.above lo (m.filter p) = true := by
  induction m generalizing lo with
  | nil => rfl
  | cons e t ih =>
    obtain ⟨a, b⟩ := e
    simp only [Mem.above, Bool.and_eq_true, decide_eq_true_eq] at hm
    obtain ⟨⟨ha, hb⟩, ht⟩ := hm
    have hb : b ≠ 0#8 := hb
    by_cases hp : p (a, b) = true
    · simp [hp, Mem.above, ha, hb, ih ht]
    · simp only [List.filter_cons, hp]
      exact Mem.above_mono (by omega) (ih ht)

/-- A part of a memory above a bound is above it. -/
theorem Mem.above_filter_le {m : List Host.Cell} {lo a : Nat} (hm : Mem.above lo m = true) :
    Mem.above a (m.filter fun c => decide (a ≤ c.1)) = true := by
  induction m generalizing lo with
  | nil => rfl
  | cons e t ih =>
    obtain ⟨k, b⟩ := e
    simp only [Mem.above, Bool.and_eq_true, decide_eq_true_eq] at hm
    obtain ⟨⟨-, hb⟩, ht⟩ := hm
    have hb : b ≠ 0#8 := hb
    by_cases hp : a ≤ k
    · simp [hp, Mem.above, hb, Mem.above_filter _ ht]
    · simpa [hp] using ih ht

/-- Two memories in form, one below an address and the other from it, are in form together. -/
theorem Mem.above_append {x y : List Host.Cell} {lo a : Nat} (hx : Mem.above lo x = true) (hlt : ∀ c ∈ x, c.1 < a) (hlo : lo ≤ a)
    (hy : Mem.above a y = true) : Mem.above lo (x ++ y) = true := by
  induction x generalizing lo with
  | nil => exact Mem.above_mono hlo hy
  | cons e t ih =>
    obtain ⟨k, b⟩ := e
    simp only [Mem.above, Bool.and_eq_true, decide_eq_true_eq] at hx
    obtain ⟨⟨hk, hb⟩, ht⟩ := hx
    have hb : b ≠ 0#8 := hb
    have : k < a := hlt (k, b) (by simp)
    simp [Mem.above, hk, hb, ih ht (fun c hc => hlt c (by simp [hc])) (by omega)]

/-- The cells of a run of bytes lie within it, and are in form. -/
theorem Mem.cells_lt {a : Nat} {l : List Byte} : ∀ c ∈ Mem.cells a l, c.1 < a + l.length := by
  induction l generalizing a with
  | nil => simp [Mem.cells]
  | cons b t ih =>
    intro c hc
    by_cases hb : b = 0#8
    · have := ih c (by simpa [Mem.cells, hb] using hc)
      simp only [List.length_cons]; omega
    · rw [Mem.cells, if_neg (show ¬b = 0 from hb), List.mem_cons] at hc
      rcases hc with rfl | hc
      · simp
      · have := ih c hc
        simp only [List.length_cons]; omega
theorem Mem.above_cells {a : Nat} {l : List Byte} : Mem.above a (Mem.cells a l) = true := by
  induction l generalizing a with
  | nil => rfl
  | cons b t ih =>
    by_cases hb : b = 0#8
    · simpa [Mem.cells, hb] using Mem.above_mono (Nat.le_succ a) ih
    · simp [Mem.cells, hb, Mem.above, ih]

/-- A write of a run of bytes keeps the canonical form. -/
theorem Mem.wf_putBytes {m : List Host.Cell} (a : Nat) (l : List Byte) (hm : Mem.wf m = true) :
    Mem.wf (Mem.putBytes m a l) = true := by
  have hy : Mem.above (a + l.length) (m.filter fun c => decide (a + l.length ≤ c.1)) = true := Mem.above_filter_le hm
  have hcy : Mem.above a (Mem.cells a l ++ m.filter fun c => decide (a + l.length ≤ c.1)) = true :=
    Mem.above_append Mem.above_cells Mem.cells_lt (Nat.le_add_right _ _) hy
  have := Mem.above_append (Mem.above_filter (fun c => decide (c.1 < a)) hm) (a := a) (by simp) (Nat.zero_le a) hcy
  simpa [Mem.wf, Mem.putBytes, List.append_assoc] using this

/-- A write of a number keeps the canonical form. -/
theorem Mem.wf_putNum {m : List Host.Cell} (a n x : Nat) (hm : Mem.wf m = true) : Mem.wf (Mem.putNum m a n x) = true :=
  Mem.wf_putBytes a _ hm

/-- The empty memory is in form. -/
@[simp] theorem Mem.wf_nil : Mem.wf [] = true := rfl

/-! ## Bytes of numbers -/

theorem length_leBytes (n x : Nat) : (leBytes n x).length = n := by
  induction n generalizing x with
  | zero => rfl
  | succ n ih => simp [leBytes, ih]

theorem leNat_leBytes (n x : Nat) : leNat (leBytes n x) = x % 256 ^ n := by
  induction n generalizing x with
  | zero => simp [leBytes, leNat, Nat.mod_one]
  | succ n ih =>
    rw [leBytes, leNat, ih, BitVec.toNat_ofNat, show 256 ^ (n + 1) = 256 * 256 ^ n from Nat.pow_succ', Nat.mod_mul]

end Sys2Proof.Machine
end

