-- ==== Sys2Proof/Laws/Canon.lean ====
section
/-! SUPPORT. Every operation over the state keeps the memory's canonical form: one lemma for each. -/

namespace Sys2Proof.Machine

/-- The memory of a state is in its canonical form. -/
def State.Canon (s : State) : Prop := Mem.wf s.mm.mem = true

/-- A function of the state keeps the form. -/
def Keeps (f : State → State) : Prop := ∀ s : State, s.Canon → (f s).Canon

/-- What asks for a translation keeps the form. -/
def Reach.Keeps (r : Reach) : Prop := ∀ f, r = .ask f → Machine.Keeps f

/-- What a plan does keeps the form. -/
def Plan.Keeps (p : Plan) : Prop :=
  (Machine.Keeps p.eff ∧ Machine.Keeps p.fin) ∧ Machine.Keeps p.wait ∧ p.addr.Keeps

theorem State.canon_iff {s : State} : s.Canon ↔ Mem.wf s.mm.mem = true := Iff.rfl

/-! ## Ways to a state -/

theorem State.Canon.of_mem {s t : State} (e : t.mm.mem = s.mm.mem) (h : s.Canon) : t.Canon := by
  unfold State.Canon; rw [e]; exact h
/-- The state of a pair is in form. -/
def SndCanon {α : Type} (p : α × State) : Prop := p.2.Canon
def FstCanon {α : Type} (p : State × α) : Prop := p.1.Canon
theorem SndCanon.mk {α : Type} {a : α} {s : State} (h : s.Canon) : SndCanon (a, s) := h
theorem FstCanon.mk {α : Type} {a : α} {s : State} (h : s.Canon) : FstCanon (s, a) := h
theorem SndCanon.snd {α : Type} {p : α × State} (h : SndCanon p) : p.2.Canon := h
theorem FstCanon.fst {α : Type} {p : State × α} (h : FstCanon p) : p.1.Canon := h
theorem SndCanon.of_eq {α : Type} {p : α × State} {a : α} {t : State} (e : p = (a, t)) (h : SndCanon p) : t.Canon := by
  subst e; exact h
theorem FstCanon.of_eq {α : Type} {p : State × α} {a : α} {t : State} (e : p = (t, a)) (h : FstCanon p) : t.Canon := by
  subst e; exact h
theorem SndCanon.ite {α : Type} {c : Prop} [Decidable c] {a b : α × State} (ha : SndCanon a) (hb : SndCanon b) :
    SndCanon (if c then a else b) := by
  split <;> assumption
theorem FstCanon.ite {α : Type} {c : Prop} [Decidable c] {a b : State × α} (ha : FstCanon a) (hb : FstCanon b) :
    FstCanon (if c then a else b) := by
  split <;> assumption
theorem State.canon_foldl {α : Type} {f : State → α → State} {l : List α} {s : State} (h : s.Canon)
    (k : ∀ s x, s.Canon → (f s x).Canon) : (l.foldl f s).Canon := by
  induction l generalizing s with
  | nil => exact h
  | cons x t ih => exact ih (k s x h)
theorem SndCanon.foldl {α β : Type} {f : β × State → α → β × State} {l : List α} {p : β × State} (h : SndCanon p)
    (k : ∀ p x, SndCanon p → SndCanon (f p x)) : SndCanon (l.foldl f p) := by
  induction l generalizing p with
  | nil => exact h
  | cons x t ih => exact ih (k p x h)
theorem FstCanon.foldl {α β : Type} {f : State × β → α → State × β} {l : List α} {p : State × β} (h : FstCanon p)
    (k : ∀ p x, FstCanon p → FstCanon (f p x)) : FstCanon (l.foldl f p) := by
  induction l generalizing p with
  | nil => exact h
  | cons x t ih => exact ih (k p x h)
theorem State.Canon.mem {s : State} (h : s.Canon) : Mem.wf s.mm.mem = true := h
theorem State.canon_mk {a : Table StreamId Stream} {b : Table BarKey Barrier} {c : Table Nat TileCore} {d : Table Nat ShaderCore}
    {e : Table Nat SuperCore} {m : MemSys} {f : Sched} {g : Edge} {i : BitVec 48} {j k l n : Nat} {o : Subject} {p : List Item}
    {q : Issue} (h : Mem.wf m.mem = true) : (State.mk a b c d e m f g i j k l n o p q).Canon := h
theorem State.canon_ite {c : Prop} [Decidable c] {a b : State} (ha : a.Canon) (hb : b.Canon) : (if c then a else b).Canon := by
  split <;> assumption
theorem State.modMem_canon {s : State} {f : MemSys → MemSys} (h : s.Canon)
    (k : ∀ m : MemSys, Mem.wf m.mem = true → Mem.wf (f m).mem = true) : (s.modMem f).Canon := k s.mm h
theorem Eng.andThen_canon {α β : Type} {r : Eng α} {f : α → State → Eng β} (h : SndCanon r)
    (k : ∀ a s, s.Canon → SndCanon (f a s)) : SndCanon (r.andThen f) := by
  obtain ⟨_ | a, s⟩ := r
  · exact h
  · exact k a s h
theorem Keeps.intro {f : State → State} (h : ∀ s, s.Canon → (f s).Canon) : Keeps f := h
theorem Keeps.id : Keeps id := fun _ h => h
theorem Keeps.const_id : Keeps (fun s => s) := fun _ h => h
theorem Reach.keeps_ok : Reach.ok.Keeps := fun _ e => nomatch e
theorem Reach.keeps_raise (r : Raise) : (Reach.raise r).Keeps := fun _ e => nomatch e
theorem Reach.keeps_ask {f : State → State} (h : Machine.Keeps f) : (Reach.ask f).Keeps := by
  intro g e; cases e; exact h

theorem Plan.keeps_mk {sl : Slot} {e pr h sr lo : Bool} {ou : Option (BitVec 2)} {cw : Option CsrWrite}
    {w eff fin : State → State} {v : Option Raise} {a : Reach}
    (he : Machine.Keeps eff) (hf : Machine.Keeps fin) (hw : Machine.Keeps w) (ha : a.Keeps) :
    (Plan.mk sl e pr h ou cw w v a sr lo eff fin).Keeps := ⟨⟨he, hf⟩, hw, ha⟩
theorem Plan.Keeps.eff {p : Plan} (h : p.Keeps) : Machine.Keeps p.eff := h.1.1
theorem Plan.Keeps.fin {p : Plan} (h : p.Keeps) : Machine.Keeps p.fin := h.1.2
theorem Plan.Keeps.wait {p : Plan} (h : p.Keeps) : Machine.Keeps p.wait := h.2.1
theorem Plan.Keeps.addr {p : Plan} (h : p.Keeps) : p.addr.Keeps := h.2.2
theorem Plan.Keeps.eff_canon {p : Plan} {s : State} (h : p.Keeps) (hs : s.Canon) : (p.eff s).Canon := h.1.1 s hs
theorem Plan.Keeps.fin_canon {p : Plan} {s : State} (h : p.Keeps) (hs : s.Canon) : (p.fin s).Canon := h.1.2 s hs
theorem Plan.Keeps.wait_canon {p : Plan} {s : State} (h : p.Keeps) (hs : s.Canon) : (p.wait s).Canon := h.2.1 s hs
theorem State.canon_foldl_mem {α : Type} {f : State → α → State} {l : List α} {s : State} (h : s.Canon)
    (k : ∀ s, ∀ x ∈ l, s.Canon → (f s x).Canon) : (l.foldl f s).Canon := by
  induction l generalizing s with
  | nil => exact h
  | cons x t ih => exact ih (k s x (by simp) h) fun s y hy => k s y (by simp [hy])
theorem Mem.wf_putMasked {m : List Host.Cell} (ln : Nat) (mask : PWord) (v : VWord) (h : Mem.wf m = true) :
    Mem.wf (putMasked m ln mask v) = true := Mem.wf_putNum _ _ _ h

theorem Plan.keeps_ite {c : Prop} [Decidable c] {a b : Plan} (ha : a.Keeps) (hb : b.Keeps) : (if c then a else b).Keeps := by
  split <;> assumption
theorem Reach.keeps_ite {c : Prop} [Decidable c] {a b : Reach} (ha : a.Keeps) (hb : b.Keeps) : (if c then a else b).Keeps := by
  split <;> assumption

/-- A state, if there is one, is in form. -/
def OptCanon (o : Option State) : Prop := ∀ t, o = some t → t.Canon
theorem OptCanon.none : OptCanon none := fun _ e => nomatch e
theorem OptCanon.some {s : State} (h : s.Canon) : OptCanon (some s) := by
  intro t e; cases e; exact h
theorem OptCanon.ite {c : Prop} [Decidable c] {a b : Option State} (ha : OptCanon a) (hb : OptCanon b) :
    OptCanon (if c then a else b) := by
  split <;> assumption
theorem OptCanon.getD {o : Option State} {s : State} (h : OptCanon o) (hs : s.Canon) : (o.getD s).Canon := by
  cases o with
  | none => exact hs
  | some t => exact h t rfl
theorem OptCanon.of_eq {o : Option State} {t : State} (e : o = Option.some t) (h : OptCanon o) : t.Canon := h t e
theorem OptCanon.bind {o : Option State} {f : State → Option State} (h : OptCanon o) (k : ∀ s, s.Canon → OptCanon (f s)) :
    OptCanon (o.bind f) := by
  cases o with
  | none => exact OptCanon.none
  | some t => exact k t (h t rfl)
theorem OptCanon.foldl {α : Type} {f : Option State → α → Option State} {l : List α} {o : Option State} (h : OptCanon o)
    (k : ∀ o x, OptCanon o → OptCanon (f o x)) : OptCanon (l.foldl f o) := by
  induction l generalizing o with
  | nil => exact h
  | cons x t ih => exact ih (k o x h)

/-- The next state of an outcome is in form. -/
def OutCanon (o : Out) : Prop := ∀ t, o = .next t → t.Canon
theorem OutCanon.next {s : State} (h : s.Canon) : OutCanon (.next s) := by
  intro t e; cases e; exact h
theorem OutCanon.ite {c : Prop} [Decidable c] {a b : Out} (ha : OutCanon a) (hb : OutCanon b) : OutCanon (if c then a else b) := by
  split <;> assumption


/-! ## Ops -/

theorem State.setStream_canon (s : State) (st : StreamId) (x : Stream) (hcan : s.Canon) : (s.setStream st x).Canon := by
  unfold State.setStream
  repeat' (show Mem.wf _ = true; exact hcan)
theorem State.modStream_canon (s : State) (st : StreamId) (f : Stream → Stream) (hcan : s.Canon) : (s.modStream st f).Canon := by
  unfold State.modStream
  repeat' with_reducible first
    | assumption | apply State.setStream_canon
theorem State.modTile_canon (s : State) (n : Nat) (f : TileCore → TileCore) (hcan : s.Canon) : (s.modTile n f).Canon := by
  unfold State.modTile
  repeat' (show Mem.wf _ = true; exact hcan)
theorem State.modShader_canon (s : State) (n : Nat) (f : ShaderCore → ShaderCore) (hcan : s.Canon) : (s.modShader n f).Canon := by
  unfold State.modShader
  repeat' (show Mem.wf _ = true; exact hcan)
theorem State.modSuper_canon (s : State) (n : Nat) (f : SuperCore → SuperCore) (hcan : s.Canon) : (s.modSuper n f).Canon := by
  unfold State.modSuper
  repeat' (show Mem.wf _ = true; exact hcan)
theorem State.modCommon_canon (s : State) (c : CoreId) (f : Common → Common) (hcan : s.Canon) : (s.modCommon c f).Canon := by
  unfold State.modCommon
  repeat' first
    | with_reducible first
      | assumption | apply State.modTile_canon | apply State.modShader_canon | apply State.modSuper_canon
    | split
theorem State.modSched_canon (s : State) (f : Sched → Sched) (hcan : s.Canon) : (s.modSched f).Canon := by
  unfold State.modSched
  repeat' (show Mem.wf _ = true; exact hcan)
theorem State.modEdge_canon (s : State) (f : Edge → Edge) (hcan : s.Canon) : (s.modEdge f).Canon := by
  unfold State.modEdge
  repeat' (show Mem.wf _ = true; exact hcan)
theorem State.post_canon (s : State) (l : List Item) (hcan : s.Canon) : (s.post l).Canon := by
  unfold State.post
  repeat' (show Mem.wf _ = true; exact hcan)
theorem State.row_canon (s : State) (i : Instr) (x : Subject) (hcan : s.Canon) : (s.row i x).Canon := by
  unfold State.row
  repeat' with_reducible first
    | assumption | apply State.post_canon
theorem State.next_canon (s : State) (l : List Item) (hcan : s.Canon) : (s.next l).Canon := by
  unfold State.next
  repeat' (show Mem.wf _ = true; exact hcan)
theorem State.picked_canon (s : State) (hcan : s.Canon) : (s.picked).Canon := by
  unfold State.picked
  repeat' (show Mem.wf _ = true; exact hcan)
theorem State.setCtl_canon (s : State) (off : Nat) (v : Word) (hcan : s.Canon) : (s.setCtl off v).Canon := by
  unfold State.setCtl
  repeat' with_reducible first
    | assumption | apply State.modEdge_canon
theorem State.note_canon (s : State) (k : Source) (die unit : Nat) (event : Nat) (asid : BitVec 16) (p q : Word) (hcan : s.Canon) :
    (s.note k die unit event asid p q).Canon := by
  unfold State.note
  repeat' with_reducible first
    | assumption | apply State.modEdge_canon
theorem State.pushAt_canon (s : State) (clock : BitVec 48) (core : Nat) (o : BitVec 2) (v : VWord) (hcan : s.Canon) :
    (s.pushAt clock core o v).Canon := by
  unfold State.pushAt
  repeat' with_reducible first
    | assumption | apply State.modTile_canon
theorem State.pushOut_canon (s : State) (core : Nat) (o : BitVec 2) (v : VWord) (hcan : s.Canon) : (s.pushOut core o v).Canon := by
  unfold State.pushOut
  repeat' with_reducible first
    | assumption | apply State.pushAt_canon
theorem State.takeNow_canon (s : State) (st : StreamId) (r : Result) (hcan : s.Canon) : (s.takeNow st r).Canon := by
  unfold State.takeNow
  repeat' first
    | with_reducible first
      | assumption | apply State.modStream_canon | apply State.pushOut_canon
    | dsimp only | split
theorem State.landAt_canon (s : State) (clock : BitVec 48) (st : StreamId) (r : Result) (hcan : s.Canon) :
    (s.landAt clock st r).Canon := by
  unfold State.landAt
  repeat' first
    | with_reducible first
      | assumption | apply State.modStream_canon | apply State.pushAt_canon
    | dsimp only | split
theorem State.landOne_canon (s : State) (st : StreamId) (r : Result) (hcan : s.Canon) : (s.landOne st r).Canon := by
  unfold State.landOne
  repeat' with_reducible first
    | assumption | apply State.landAt_canon
theorem State.landDue_canon (s : State) (st : StreamId) (hcan : s.Canon) : (s.landDue st).Canon := by
  unfold State.landDue
  repeat' with_reducible first
    | assumption | intro _ | apply State.setStream_canon | apply State.landOne_canon | apply State.canon_foldl
theorem State.deliver_canon (s : State) (r : Result) (hcan : s.Canon) : (s.deliver r).Canon := by
  unfold State.deliver
  repeat' first
    | with_reducible first
      | assumption | apply State.canon_ite | apply State.modStream_canon
    | dsimp only | (with_reducible apply State.canon_mk; with_reducible apply State.Canon.mem; with_reducible apply State.takeNow_canon)
theorem State.flagged_canon (s : State) (hcan : s.Canon) : (s.flagged).Canon := by
  unfold State.flagged
  repeat' with_reducible first
    | assumption | apply State.modStream_canon
theorem State.putS_canon (s : State) (lat : Nat) (d : Dst) (v : Word) (ff : BitVec 5) (mf : BitVec 4) (hcan : s.Canon) :
    (s.putS lat d v ff mf).Canon := by
  unfold State.putS
  repeat' with_reducible first
    | assumption | apply State.deliver_canon
theorem State.putV_canon (s : State) (lat : Nat) (d : Dst) (w : VWrite) (ff : BitVec 5) (mf : BitVec 4) (hcan : s.Canon) :
    (s.putV lat d w ff mf).Canon := by
  unfold State.putV
  repeat' with_reducible first
    | assumption | apply State.deliver_canon
theorem State.putP_canon (s : State) (lat : Nat) (d : Dst) (mask v : PWord) (ff : BitVec 5) (hcan : s.Canon) :
    (s.putP lat d mask v ff).Canon := by
  unfold State.putP
  repeat' with_reducible first
    | assumption | apply State.deliver_canon
theorem State.putFlags_canon (s : State) (lat : Nat) (ff : BitVec 5) (mf : BitVec 4) (hcan : s.Canon) : (s.putFlags lat ff mf).Canon := by
  unfold State.putFlags
  repeat' with_reducible first
    | assumption | apply State.deliver_canon
theorem State.clearReservations_canon (s : State) (st : StreamId) (lanes : Lanes) (hcan : s.Canon) :
    (s.clearReservations st lanes).Canon := by
  unfold State.clearReservations
  repeat' with_reducible first
    | assumption | apply State.modCommon_canon
theorem State.dropArray_canon (s : State) (st : StreamId) (hcan : s.Canon) : (s.dropArray st).Canon := by
  unfold State.dropArray
  repeat' with_reducible first
    | assumption | apply State.canon_ite | apply State.modTile_canon
theorem State.halt_canon (s : State) (st : StreamId) (hcan : s.Canon) : (s.halt st).Canon := by
  unfold State.halt
  repeat' with_reducible first
    | assumption | apply State.modStream_canon | apply State.dropArray_canon
theorem State.endTask_canon (s : State) (st : StreamId) (code : BitVec 8) (tval : Word) (again : Bool) (hcan : s.Canon) :
    (s.endTask st code tval again).Canon := by
  unfold State.endTask
  repeat' with_reducible first
    | assumption | apply State.modSched_canon | apply State.row_canon | apply State.note_canon | apply State.halt_canon
theorem State.service_canon (s : State) (st : StreamId) (code : BitVec 8) (tval : Word) (int : Bool) (slot : Nat) (recov : Bool)
    (lanes : Lanes) (epc : Word) (hcan : s.Canon) : (s.service st code tval int slot recov lanes epc).Canon := by
  unfold State.service
  repeat' with_reducible first
    | assumption | apply State.canon_ite | apply State.setStream_canon | apply State.modStream_canon | apply State.note_canon
    | apply State.clearReservations_canon | apply State.endTask_canon
theorem State.trap_canon (s : State) (code : BitVec 8) (tval : Word) (slot : Nat) (hcan : s.Canon) : (s.trap code tval slot).Canon := by
  unfold State.trap
  repeat' with_reducible first
    | assumption | apply State.service_canon
theorem State.forget_canon (s : State) (st : StreamId) (asid : BitVec 16) (va : Nat) (hcan : s.Canon) : (s.forget st asid va).Canon := by
  unfold State.forget
  repeat' with_reducible first
    | assumption | intro _ | apply State.modCommon_canon | apply State.modMem_canon
theorem State.fault_canon (s : State) (st : StreamId) (code : BitVec 8) (va access slot : Nat) (lanes : Lanes) (epc : Word)
    (hcan : s.Canon) : (s.fault st code va access slot lanes epc).Canon := by
  unfold State.fault
  repeat' with_reducible first
    | assumption | intro _ | apply State.canon_ite | apply State.setStream_canon | apply State.modMem_canon | apply State.row_canon
    | apply State.clearReservations_canon | apply State.service_canon | apply State.forget_canon
theorem State.pend_canon (s : State) (core src : Nat) (hcan : s.Canon) : (s.pend core src).Canon := by
  unfold State.pend
  repeat' with_reducible first
    | assumption | apply State.setCtl_canon
theorem State.raiseSource_canon (s : State) (src : Nat) (hcan : s.Canon) : (s.raiseSource src).Canon := by
  unfold State.raiseSource
  repeat' with_reducible first
    | assumption | apply State.pend_canon
theorem State.ignored_canon (s : State) (off : Nat) (v : Word) (hcan : s.Canon) : (s.ignored off v).Canon := by
  unfold State.ignored
  repeat' with_reducible first
    | assumption | apply State.note_canon | apply State.raiseSource_canon

/-! ## Operands -/

theorem State.putElems_canon (s : State) (lat : Nat) (d : Dst) (w : VWrite) (ff : BitVec 5) (mf : BitVec 4) (hcan : s.Canon) :
    (s.putElems lat d w ff mf).Canon := by
  unfold State.putElems
  repeat' with_reducible first
    | assumption | apply State.putV_canon

/-! ## Flags -/

theorem State.stepSr_canon (s : State) (hcan : s.Canon) : (s.stepSr).Canon := by
  unfold State.stepSr
  repeat' with_reducible first
    | assumption | apply State.modStream_canon
theorem State.base_canon (s : State) (i : Instr) : (s.base i).Keeps :=
  Plan.keeps_mk Keeps.id Keeps.id Keeps.id Reach.keeps_ok
theorem State.plan_canon (s : State) (i : Instr) (eff : State → State) (h : Keeps eff) : (s.plan i eff).Keeps :=
  Plan.keeps_mk h Keeps.id Keeps.id Reach.keeps_ok
theorem State.scalar_canon (s : State) (i : Instr) (o : SOp) (p : Plan) (h : p.Keeps) : (s.scalar i o p).Keeps := by
  unfold State.scalar
  split
  · exact h
  · exact Plan.keeps_mk Keeps.id Keeps.id Keeps.id Reach.keeps_ok
theorem State.raise_canon (s : State) (slot : Nat) (r : Raise) (hcan : s.Canon) : (s.raise slot r).Canon := by
  unfold State.raise
  repeat' first
    | with_reducible first
      | assumption | apply State.trap_canon | apply State.fault_canon
    | split
theorem State.popQueue_canon (s : State) (st : StreamId) (q : BitVec 3) (hcan : s.Canon) : (s.popQueue st q).Canon := by
  unfold State.popQueue
  repeat' first
    | with_reducible assumption | with_reducible apply State.modTile_canon | split
theorem State.finish_canon (s : State) (hcan : s.Canon) : (s.finish).Canon := by
  unfold State.finish
  repeat' with_reducible first
    | assumption | intro _ | apply State.modStream_canon | apply State.picked_canon | apply State.popQueue_canon | apply State.canon_foldl
theorem State.fresh_canon (s : State) (hcan : s.Canon) : (s.fresh).Canon := by
  unfold State.fresh
  repeat' first
    | dsimp only | (show Mem.wf _ = true; exact hcan)
theorem State.effects_canon (s : State) (ps : List Plan) (k : ∀ p ∈ ps, p.Keeps) (h : s.Canon) : (s.effects ps).Canon := by
  unfold State.effects
  refine State.canon_foldl_mem ?_ fun t p hp ht => (k p hp).eff _ ht
  split
  · exact h
  · exact h
theorem State.finals_canon (s : State) (ps : List Plan) (k : ∀ p ∈ ps, p.Keeps) (h : s.Canon) : (s.finals ps).Canon :=
  State.canon_foldl_mem h fun t p hp ht => (k p hp).fin _ ht
/-- A verdict that asks, asks what an operation's address asks. -/
theorem State.verdict_ask {s : State} {ps : List Plan} {f : State → State} (h : s.verdict ps = .ask f) :
    ∃ p ∈ ps, p.addr = .ask f := by
  unfold State.verdict at h
  repeat' split at h
  all_goals first | (cases h; done) | skip
  rename_i hv
  subst h
  obtain ⟨p, hp, e⟩ := List.exists_of_findSome?_eq_some hv
  refine ⟨p, hp, ?_⟩
  unfold Plan.reaches at e
  split at e <;> simp_all
theorem State.run_canon (s : State) (ps : List Plan) (k : ∀ p ∈ ps, p.Keeps) (h : s.Canon) : (s.run ps).Canon := by
  unfold State.run
  split
  · exact State.finals_canon _ _ k (State.finish_canon _ (State.effects_canon _ _ k h))
  · exact State.canon_foldl_mem (State.modStream_canon _ _ _ h) fun t p hp ht => (k p hp).wait _ ht
  · next f e =>
    obtain ⟨p, hp, ha⟩ := State.verdict_ask e
    exact (k p hp).addr f ha _ (State.modStream_canon _ _ _ h)
  · exact State.raise_canon _ _ _ h

/-! ## Hierarchy -/

theorem State.modLink_canon (s : State) (p : Nat) (f : Link → Link) (hcan : s.Canon) : (s.modLink p f).Canon := by
  unfold State.modLink
  repeat' with_reducible first
    | assumption | apply State.modEdge_canon
theorem State.spend_canon (s : State) (d c : Nat) (hcan : s.Canon) : (s.spend d c).Canon := by
  unfold State.spend
  repeat' with_reducible first
    | assumption | intro _ | apply State.canon_ite | apply State.modMem_canon
theorem State.homeUse_canon (s : State) (ln : Nat) (write : Bool) (hcan : s.Canon) : (s.homeUse ln write).Canon := by
  unfold State.homeUse
  repeat' first
    | with_reducible first
      | assumption | intro _ | apply State.canon_ite | apply State.modMem_canon | apply State.spend_canon
    | dsimp only | split
theorem State.putHome_canon (s : State) (ln : Nat) (mask : PWord) (v : VWord) (hcan : s.Canon) : (s.putHome ln mask v).Canon := by
  unfold State.putHome
  repeat' first
    | with_reducible first
      | assumption | intro _ | apply State.modMem_canon | apply State.homeUse_canon
    | dsimp only | with_reducible apply Mem.wf_putMasked
theorem State.killAt_canon (s : State) (place ln : Nat) (hcan : s.Canon) : (s.killAt place ln).Canon := by
  unfold State.killAt
  repeat' first
    | dsimp only | (show Mem.wf _ = true; exact hcan)
theorem State.killAll_canon (s : State) (ln : Nat) (hcan : s.Canon) : (s.killAll ln).Canon := by
  unfold State.killAll
  repeat' first
    | dsimp only | (show Mem.wf _ = true; exact hcan)
theorem State.l1Keep_canon (s : State) (c : CoreId) (f : L1Line → Bool) (hcan : s.Canon) : (s.l1Keep c f).Canon := by
  unfold State.l1Keep
  repeat' with_reducible first
    | assumption | apply State.modCommon_canon
theorem State.l1Fill_canon (s : State) (c : CoreId) (x : L1Line) (hcan : s.Canon) : (s.l1Fill c x).Canon := by
  unfold State.l1Fill
  repeat' with_reducible first
    | assumption | apply State.modCommon_canon
theorem State.l1Update_canon (s : State) (c : CoreId) (ln : Nat) (mask : PWord) (v : VWord) (hcan : s.Canon) :
    (s.l1Update c ln mask v).Canon := by
  unfold State.l1Update
  repeat' with_reducible first
    | assumption | apply State.modCommon_canon
theorem State.loseLine_canon (s : State) (a ln : Nat) (hcan : s.Canon) : (s.loseLine a ln).Canon := by
  unfold State.loseLine
  repeat' first
    | with_reducible first
      | assumption | intro _ | apply State.modMem_canon | apply State.killAt_canon | apply State.l1Keep_canon
    | dsimp only | split | (show Mem.wf _ = true; assumption)
theorem State.recall_canon (s : State) (ln : Nat) (hcan : s.Canon) : (s.recall ln).Canon := by
  unfold State.recall
  repeat' first
    | with_reducible first
      | assumption | intro _ | apply State.modMem_canon | apply State.putHome_canon | apply State.killAt_canon
      | apply State.loseLine_canon | apply State.canon_foldl
    | split
theorem State.dirRoom_canon (s : State) (ln : Nat) (hcan : s.Canon) : (s.dirRoom ln).Canon := by
  unfold State.dirRoom
  repeat' first
    | with_reducible first
      | assumption | apply State.canon_ite | apply State.killAll_canon | apply State.recall_canon
    | dsimp only | split
theorem State.setEntry_canon (s : State) (ln : Nat) (e : DirEntry) (hcan : s.Canon) : (s.setEntry ln e).Canon := by
  unfold State.setEntry
  repeat' with_reducible first
    | assumption | intro _ | apply State.canon_ite | apply State.modMem_canon
theorem State.fromHome_canon (s : State) (ln : Nat) (hcan : s.Canon) : FstCanon (s.fromHome ln) := by
  unfold State.fromHome
  repeat' with_reducible first
    | assumption | apply State.homeUse_canon | apply FstCanon.mk
theorem State.homeUses_canon (s : State) (l : List Nat) (write : Bool) (hcan : s.Canon) : (s.homeUses l write).Canon := by
  unfold State.homeUses
  repeat' with_reducible first
    | assumption | intro _ | apply State.modMem_canon
theorem State.raiseLost_canon (s : State) (st : StreamId) (pa : Nat) (hcan : s.Canon) : (s.raiseLost st pa).Canon := by
  unfold State.raiseLost
  repeat' first
    | with_reducible assumption | with_reducible apply State.next_canon | split
theorem State.tellRemote_canon (s : State) (a ln : Nat) (hcan : s.Canon) : (s.tellRemote a ln).Canon := by
  unfold State.tellRemote
  repeat' with_reducible first
    | assumption | apply State.canon_ite | apply State.row_canon
theorem State.arriveHome_canon (s : State) (a ln : Nat) (v : VWord) (hcan : s.Canon) : (s.arriveHome a ln v).Canon := by
  unfold State.arriveHome
  repeat' with_reducible first
    | assumption | apply State.tellRemote_canon | apply State.putHome_canon | apply State.killAt_canon
theorem State.forwardRead_canon (s : State) (owner ln : Nat) (hcan : s.Canon) : (s.forwardRead owner ln).Canon := by
  unfold State.forwardRead
  repeat' first
    | with_reducible first
      | assumption | intro _ | apply State.modMem_canon | apply State.killAt_canon
    | split | (show Mem.wf _ = true; assumption)
theorem State.cleanOwner_canon (s : State) (owner ln : Nat) (hcan : s.Canon) : (s.cleanOwner owner ln).Canon := by
  unfold State.cleanOwner
  repeat' first
    | with_reducible first
      | assumption | intro _ | apply State.canon_ite | apply State.modMem_canon | apply State.killAt_canon | apply State.arriveHome_canon
    | split | (show Mem.wf _ = true; assumption)
theorem State.arriveFirst_canon (s : State) (a ln : Nat) (hcan : s.Canon) : (s.arriveFirst a ln).Canon := by
  unfold State.arriveFirst
  repeat' first
    | with_reducible assumption | with_reducible apply State.canon_ite | dsimp only
    | (with_reducible apply State.canon_mk; with_reducible apply State.Canon.mem; with_reducible apply State.loseLine_canon)
theorem State.dirRead_canon (s : State) (a ln : Nat) (hcan : s.Canon) : (s.dirRead a ln).Canon := by
  unfold State.dirRead
  repeat' first
    | with_reducible first
      | assumption | intro _ | apply State.canon_ite | apply State.modMem_canon | apply State.dirRoom_canon | apply State.setEntry_canon
      | refine FstCanon.fst (State.fromHome_canon _ _ ?_) | apply State.forwardRead_canon | apply State.cleanOwner_canon
      | apply State.arriveFirst_canon
    | dsimp only | split | (show Mem.wf _ = true; assumption)
theorem State.dirOwn_canon (s : State) (a ln : Nat) (syncv : Bool) (hcan : s.Canon) : (s.dirOwn a ln syncv).Canon := by
  unfold State.dirOwn
  repeat' first
    | with_reducible first
      | assumption | intro _ | apply State.canon_ite | apply State.modMem_canon | apply State.post_canon | apply State.loseLine_canon
      | apply State.dirRoom_canon | apply State.setEntry_canon | refine FstCanon.fst (State.fromHome_canon _ _ ?_)
      | apply State.arriveFirst_canon
    | dsimp only | split | (show Mem.wf _ = true; assumption)
theorem State.notice_canon (s : State) (a ln : Nat) (dirty : Option VWord) (hcan : s.Canon) : (s.notice a ln dirty).Canon := by
  unfold State.notice
  repeat' first
    | with_reducible first
      | assumption | apply State.canon_ite | apply State.setEntry_canon | apply State.arriveHome_canon
    | split
theorem State.evictLine_canon (s : State) (a ln : Nat) (hcan : s.Canon) : (s.evictLine a ln).Canon := by
  unfold State.evictLine
  repeat' first
    | with_reducible first
      | assumption | apply State.loseLine_canon | apply State.notice_canon
    | split
theorem State.toVictims_canon (s : State) (l : AgentLine) (hcan : s.Canon) : (s.toVictims l).Canon := by
  unfold State.toVictims
  repeat' first
    | with_reducible first
      | assumption | intro _ | apply State.canon_ite | apply State.modMem_canon | apply State.evictLine_canon
    | dsimp only | split | (show Mem.wf _ = true; assumption)
theorem State.agentRoom_canon (s : State) (a ln : Nat) (hcan : s.Canon) : (s.agentRoom a ln).Canon := by
  unfold State.agentRoom
  repeat' first
    | with_reducible first
      | assumption | apply State.canon_ite | apply State.l1Keep_canon | apply State.evictLine_canon | apply State.toVictims_canon
    | split
theorem State.agentRead_canon (s : State) (a ln : Nat) (hcan : s.Canon) : (s.agentRead a ln).Canon := by
  unfold State.agentRead
  repeat' first
    | with_reducible first
      | assumption | intro _ | apply State.canon_ite | apply State.modMem_canon | apply State.dirRead_canon | apply State.agentRoom_canon
    | split | (show Mem.wf _ = true; assumption)
theorem State.agentOwn_canon (s : State) (a ln : Nat) (syncv : Bool) (hcan : s.Canon) : (s.agentOwn a ln syncv).Canon := by
  unfold State.agentOwn
  repeat' first
    | with_reducible first
      | assumption | apply State.canon_ite | apply State.dirOwn_canon | apply State.agentRoom_canon | apply State.agentRead_canon
    | dsimp only | split
theorem State.agentHold_canon (s : State) (a ln : Nat) (syncv : Bool) (hcan : s.Canon) : (s.agentHold a ln syncv).Canon := by
  unfold State.agentHold
  repeat' first
    | with_reducible first
      | assumption | intro _ | apply State.modMem_canon | apply State.agentOwn_canon
    | (show Mem.wf _ = true; assumption)
theorem State.agentWrite_canon (s : State) (a ln : Nat) (mask : PWord) (v : VWord) (syncv : Bool) (hcan : s.Canon) :
    (s.agentWrite a ln mask v syncv).Canon := by
  unfold State.agentWrite
  repeat' first
    | with_reducible first
      | assumption | intro _ | apply State.canon_ite | apply State.tellRemote_canon | apply State.modMem_canon | apply State.killAt_canon
      | apply State.l1Update_canon | apply State.agentOwn_canon
    | dsimp only | split | (show Mem.wf _ = true; assumption)
theorem State.agentClean_canon (s : State) (a ln : Nat) (hcan : s.Canon) : (s.agentClean a ln).Canon := by
  unfold State.agentClean
  repeat' first
    | with_reducible first
      | assumption | intro _ | apply State.canon_ite | apply State.modMem_canon | apply State.killAt_canon | apply State.setEntry_canon
      | apply State.arriveHome_canon
    | dsimp only | split | (show Mem.wf _ = true; assumption)
theorem State.joinOne_canon (s : State) (ln : Nat) (t : ElTy) (op j : Nat) (hcan : s.Canon) : (s.joinOne ln t op j).Canon := by
  unfold State.joinOne
  repeat' first
    | with_reducible first
      | assumption | intro _ | apply State.modMem_canon | apply State.putHome_canon | apply State.killAt_canon
    | dsimp only | split
theorem State.joinLine_canon (s : State) (ln : Nat) (hcan : s.Canon) : (s.joinLine ln).Canon := by
  unfold State.joinLine
  repeat' first
    | with_reducible first
      | assumption | intro _ | apply State.recall_canon | apply State.joinOne_canon | apply State.canon_foldl
    | split
theorem State.toHome_canon (s : State) (ln : Nat) (hcan : s.Canon) : (s.toHome ln).Canon := by
  unfold State.toHome
  repeat' with_reducible first
    | assumption | apply State.recall_canon | apply State.joinLine_canon
theorem State.toHomeFor_canon (s : State) (ln : Nat) (sync : Bool) (hcan : s.Canon) : (s.toHomeFor ln sync).Canon := by
  unfold State.toHomeFor
  repeat' first
    | with_reducible first
      | assumption | intro _ | apply State.canon_ite | apply State.toHome_canon | apply State.joinLine_canon | apply State.setEntry_canon
      | apply State.canon_foldl | apply State.loseLine_canon | apply State.killAt_canon | apply State.putHome_canon
    | dsimp only | split
theorem State.joinBytes_canon (s : State) (pa n : Nat) (hcan : s.Canon) : (s.joinBytes pa n).Canon := by
  unfold State.joinBytes
  repeat' with_reducible first
    | assumption | intro _ | apply State.joinLine_canon | apply State.canon_foldl
theorem State.noteHole_canon (s : State) (pa : Nat) (hcan : s.Canon) : (s.noteHole pa).Canon := by
  unfold State.noteHole
  repeat' with_reducible first
    | assumption | apply State.note_canon
theorem State.looked_canon (s : State) (l : List Nat) (hcan : s.Canon) : (s.looked l).Canon := by
  unfold State.looked
  repeat' with_reducible first
    | assumption | intro _ | apply State.canon_foldl | apply State.canon_ite | apply State.joinLine_canon | apply State.noteHole_canon
theorem State.putPhys_canon (s : State) (pa n x : Nat) (hcan : s.Canon) : (s.putPhys pa n x).Canon := by
  unfold State.putPhys
  repeat' first
    | with_reducible first
      | assumption | intro _ | apply State.canon_ite | apply State.modMem_canon | apply State.killAt_canon | apply State.toHome_canon
      | apply State.noteHole_canon
    | dsimp only | with_reducible apply Mem.wf_putNum
theorem State.putPhysBytes_canon (s : State) (pa : Nat) (l : List Byte) (hcan : s.Canon) : (s.putPhysBytes pa l).Canon := by
  unfold State.putPhysBytes
  repeat' first
    | with_reducible first
      | assumption | intro _ | apply State.canon_ite | apply State.modMem_canon | apply State.killAt_canon | apply State.toHome_canon
      | apply State.noteHole_canon | apply State.canon_foldl
    | dsimp only | with_reducible apply Mem.wf_putBytes
theorem State.setCluster_canon (s : State) (c : Nat) (l : List ClLine) (hcan : s.Canon) : (s.setCluster c l).Canon := by
  unfold State.setCluster
  repeat' with_reducible first
    | assumption | intro _ | apply State.modMem_canon
theorem State.putClLine_canon (s : State) (c : Nat) (x : ClLine) (hcan : s.Canon) : (s.putClLine c x).Canon := by
  unfold State.putClLine
  repeat' with_reducible first
    | assumption | apply State.setCluster_canon
theorem State.clCleaned_canon (s : State) (c : Nat) (l : ClLine) (hcan : s.Canon) : (s.clCleaned c l).Canon := by
  unfold State.clCleaned
  repeat' with_reducible first
    | assumption | apply State.setCluster_canon
theorem State.inClass_canon (s : State) (k : Nat) (f : State → State) (hf : ∀ s : State, s.Canon → (f s).Canon) (hcan : s.Canon) :
    (s.inClass k f).Canon := by
  unfold State.inClass
  repeat' with_reducible first
    | assumption | intro _ | apply State.modMem_canon | apply hf
theorem State.clWriteback_canon (s : State) (c ln : Nat) (hcan : s.Canon) : (s.clWriteback c ln).Canon := by
  unfold State.clWriteback
  repeat' first
    | with_reducible first
      | assumption | intro _ | apply State.canon_ite | apply State.clCleaned_canon | apply State.inClass_canon
      | apply State.agentWrite_canon
    | split
theorem State.clSend_canon (s : State) (c ln scope : Nat) (hcan : s.Canon) : (s.clSend c ln scope).Canon := by
  unfold State.clSend
  repeat' first
    | with_reducible first
      | assumption | intro _ | apply State.canon_ite | apply State.clCleaned_canon | apply State.inClass_canon
      | apply State.tellRemote_canon | apply State.putHome_canon | apply State.killAt_canon
      | apply State.toHomeFor_canon | apply State.evictLine_canon | apply State.agentWrite_canon
      | apply State.clWriteback_canon
    | dsimp only | split
theorem State.clEvict_canon (s : State) (c ln : Nat) (hcan : s.Canon) : (s.clEvict c ln).Canon := by
  unfold State.clEvict
  repeat' with_reducible first
    | assumption | apply State.setCluster_canon | apply State.clWriteback_canon
theorem State.clRoom_canon (s : State) (c ln : Nat) (hcan : s.Canon) : (s.clRoom c ln).Canon := by
  unfold State.clRoom
  repeat' first
    | with_reducible first
      | assumption | apply State.canon_ite | apply State.clEvict_canon
    | split
theorem State.clFetch_canon (s : State) (c ln : Nat) (hcan : s.Canon) : (s.clFetch c ln).Canon := by
  unfold State.clFetch
  repeat' with_reducible first
    | assumption | apply State.canon_ite | apply State.agentRead_canon | apply State.putClLine_canon | apply State.clRoom_canon
theorem State.clWrite_canon (s : State) (c ln : Nat) (mask : PWord) (v : VWord) (wt sync : Bool) (hcan : s.Canon) :
    (s.clWrite c ln mask v wt sync).Canon := by
  unfold State.clWrite
  repeat' with_reducible first
    | assumption | apply State.canon_ite | apply State.killAt_canon | apply State.putClLine_canon | apply State.clWriteback_canon
    | apply State.clRoom_canon
theorem State.clClean_canon (s : State) (c : Nat) (f : ClLine → Bool) (hcan : s.Canon) : (s.clClean c f).Canon := by
  unfold State.clClean
  repeat' with_reducible first
    | assumption | apply State.setCluster_canon
theorem State.clPush_canon (s : State) (c scope : Nat) (hcan : s.Canon) : (s.clPush c scope).Canon := by
  unfold State.clPush
  repeat' with_reducible first
    | assumption | intro _ | apply State.clSend_canon | apply State.canon_foldl
theorem State.wbPass_canon (s : State) (st : StreamId) (w : WbLine) (hcan : s.Canon) : (s.wbPass st w).Canon := by
  unfold State.wbPass
  repeat' with_reducible first
    | assumption | intro _ | apply State.inClass_canon | apply State.killAt_canon | apply State.l1Update_canon | apply State.clWrite_canon
theorem State.wbDrain_canon (s : State) (st : StreamId) (f : WbLine → Bool) (hcan : s.Canon) : (s.wbDrain st f).Canon := by
  unfold State.wbDrain
  repeat' with_reducible first
    | assumption | intro _ | apply State.setStream_canon | apply State.wbPass_canon | apply State.canon_foldl
theorem State.wbPut_canon (s : State) (st : StreamId) (ln : Nat) (wt sync : Bool) (mask : PWord) (v : VWord) (hcan : s.Canon) :
    (s.wbPut st ln wt sync mask v).Canon := by
  unfold State.wbPut
  repeat' with_reducible first
    | assumption | apply State.modStream_canon
theorem State.acquire_canon (s : State) (st : StreamId) (scope : Nat) (hcan : s.Canon) : (s.acquire st scope).Canon := by
  unfold State.acquire
  repeat' with_reducible first
    | assumption | apply State.canon_ite | apply State.l1Keep_canon | apply State.clClean_canon
theorem State.release_canon (s : State) (st : StreamId) (scope : Nat) (hcan : s.Canon) : (s.release st scope).Canon := by
  unfold State.release
  repeat' with_reducible first
    | assumption | apply State.canon_ite | apply State.clPush_canon | apply State.wbDrain_canon

/-! ## Translate -/

theorem State.walked_canon (s : State) (tlb : Nat) (ptbase : BitVec 52) (asid : BitVec 16) (va : Nat) (hcan : s.Canon) :
    (s.walked tlb ptbase asid va).Canon := by
  unfold State.walked
  repeat' with_reducible first
    | assumption | apply State.looked_canon
theorem State.joinWalk_canon (s : State) (st : StreamId) (asid : BitVec 16) (va : Nat) (r : WalkWaiter) (hcan : s.Canon) :
    (s.joinWalk st asid va r).Canon := by
  unfold State.joinWalk
  repeat' with_reducible first
    | assumption | intro _ | apply State.modMem_canon
theorem State.setEntryBits_canon (s : State) (addr bits_ : Nat) (hcan : s.Canon) : (s.setEntryBits addr bits_).Canon := by
  unfold State.setEntryBits
  repeat' first
    | with_reducible first
      | assumption | intro _ | apply State.killAt_canon | apply State.modMem_canon | apply State.toHome_canon
    | dsimp only | with_reducible apply Mem.wf_putNum
theorem State.install_canon (s : State) (c : CoreId) (fetch : Bool) (e : TlbEntry) (ps : List WalkPtr) (hcan : s.Canon) :
    (s.install c fetch e ps).Canon := by
  unfold State.install
  repeat' first
    | with_reducible first
      | assumption | intro _ | apply State.modMem_canon
    | dsimp only | split
theorem State.installFound_canon (s : State) (c : CoreId) (asid : BitVec 16) (write fetch : Bool) (f : Found) (hcan : s.Canon) :
    (s.installFound c asid write fetch f).Canon := by
  unfold State.installFound
  repeat' with_reducible first
    | assumption | apply State.canon_ite | apply State.setEntryBits_canon | apply State.install_canon
theorem State.xlate_canon (s : State) (st : StreamId) (priv : BitVec 2) (asid : BitVec 16) (va : Nat) (a : Ask) (hcan : s.Canon) :
    SndCanon (s.xlate st priv asid va a) := by
  unfold State.xlate
  repeat' first
    | with_reducible assumption | with_reducible apply State.installFound_canon | with_reducible apply State.walked_canon
    | dsimp only | split | with_reducible apply SndCanon.mk
theorem State.askWalk_canon (s : State) (st : StreamId) (va : Nat) (a : Ask) (slot : Nat) (hcan : s.Canon) :
    (s.askWalk st va a slot).Canon := by
  unfold State.askWalk
  repeat' first
    | with_reducible first
      | assumption | apply State.setStream_canon | apply State.row_canon
    | dsimp only | split
theorem State.missOver_canon (s : State) (st : StreamId) (hcan : s.Canon) : (s.missOver st).Canon := by
  unfold State.missOver
  repeat' with_reducible first
    | assumption | apply State.modStream_canon
theorem State.missFaults_canon (s : State) (st : StreamId) (hcan : s.Canon) : (s.missFaults st).Canon := by
  unfold State.missFaults
  repeat' first
    | with_reducible assumption | with_reducible apply State.fault_canon | split

/-! ## Page -/

theorem State.fire_canon (s : State) (n : Nat) (hcan : s.Canon) : (s.fire n).Canon := by
  unfold State.fire
  repeat' first
    | with_reducible first
      | assumption | intro _ | apply State.canon_ite | apply State.modMem_canon | apply State.next_canon
    | split
theorem State.ctrAdd_canon (s : State) (n : Nat) (v : Word) (hcan : s.Canon) : (s.ctrAdd n v).Canon := by
  unfold State.ctrAdd
  repeat' first
    | with_reducible apply State.fire_canon | (show Mem.wf _ = true; assumption)
theorem State.arm_canon (s : State) (n : Nat) (t : Option Trigger) (hcan : s.Canon) : (s.arm n t).Canon := by
  unfold State.arm
  repeat' with_reducible first
    | assumption | intro _ | apply State.modMem_canon | apply State.fire_canon
theorem State.joinRange_canon (s : State) (e : BitVec 4) (hcan : s.Canon) : (s.joinRange e).Canon := by
  unfold State.joinRange
  repeat' with_reducible first
    | assumption | intro _ | apply State.canon_ite | apply State.joinLine_canon | apply State.canon_foldl
theorem State.rangeWrite_canon (s : State) (e : BitVec 4) (hi : Bool) (v : Word) (hcan : s.Canon) : (s.rangeWrite e hi v).Canon := by
  unfold State.rangeWrite
  repeat' with_reducible first
    | assumption | intro _ | apply State.canon_ite | apply State.modMem_canon | apply State.joinRange_canon
theorem State.postRecord_canon (s : State) (r : FaultRecord) (hcan : s.Canon) : (s.postRecord r).Canon := by
  unfold State.postRecord
  repeat' first
    | with_reducible first
      | assumption | intro _ | apply State.modStream_canon | apply State.modMem_canon | apply State.note_canon | apply State.putPhys_canon
      | apply State.ctrAdd_canon | apply State.canon_foldl
    | split
theorem State.postRecords_canon (s : State) (d : Nat) (x0 : Nat) (hcan : s.Canon) : (s.postRecords d x0).Canon := by
  induction x0 generalizing s with
  | zero => exact hcan
  | succ n ih =>
    unfold State.postRecords
    repeat' first
      | with_reducible first
        | assumption | intro _ | apply State.canon_ite | apply State.modMem_canon | apply State.postRecord_canon | apply ih
      | split
theorem State.tailWrite_canon (s : State) (d : Nat) (v : Word) (hcan : s.Canon) : (s.tailWrite d v).Canon := by
  unfold State.tailWrite
  repeat' with_reducible first
    | assumption | apply State.canon_ite | apply State.row_canon | apply State.setCtl_canon | apply State.ignored_canon
theorem State.resumeStream_canon (s : State) (st : StreamId) (w : FaultWait) (action : Nat) (hcan : s.Canon) :
    (s.resumeStream st w action).Canon := by
  unfold State.resumeStream
  repeat' first
    | with_reducible first
      | assumption | apply State.modStream_canon | apply State.endTask_canon | apply State.service_canon
    | dsimp only | split
theorem State.resumeQueue_canon (s : State) (st : StreamId) (q : Nat) (w : FaultWait) (action : Nat) (hcan : s.Canon) :
    (s.resumeQueue st q w action).Canon := by
  unfold State.resumeQueue
  repeat' with_reducible first
    | assumption | apply State.modStream_canon | apply State.row_canon
theorem State.resumeWrite_canon (s : State) (d : Nat) (v : Word) (hcan : s.Canon) : (s.resumeWrite d v).Canon := by
  unfold State.resumeWrite
  repeat' first
    | with_reducible first
      | assumption | intro _ | apply State.canon_ite | apply State.modMem_canon | apply State.ignored_canon
      | apply State.resumeStream_canon | apply State.resumeQueue_canon
    | dsimp only | split
theorem State.ctlWrite_canon (s : State) (off : Nat) (v : Word) (hcan : s.Canon) : (s.ctlWrite off v).Canon := by
  unfold State.ctlWrite
  repeat' with_reducible first
    | assumption | intro _ | apply State.canon_ite | apply State.modMem_canon | apply State.row_canon | apply State.setCtl_canon
    | apply State.pend_canon | apply State.ignored_canon | apply State.rangeWrite_canon | apply State.tailWrite_canon
    | apply State.resumeWrite_canon
theorem State.deviceRead_canon (s : State) (st : StreamId) (x : Xl) (n : Nat) (hcan : s.Canon) : SndCanon (s.deviceRead st x n) := by
  unfold State.deviceRead
  repeat' first
    | with_reducible first
      | assumption | apply SndCanon.ite | apply State.note_canon | apply State.acquire_canon
    | split | with_reducible apply SndCanon.mk
theorem State.deviceWrite_canon (s : State) (st : StreamId) (x : Xl) (n v : Nat) (hcan : s.Canon) : (s.deviceWrite st x n v).Canon := by
  unfold State.deviceWrite
  repeat' first
    | with_reducible first
      | assumption | apply State.canon_ite | apply State.note_canon | apply State.release_canon | apply State.ctrAdd_canon
      | apply State.ctlWrite_canon | apply State.ignored_canon
    | split

/-! ## Access -/

theorem State.classed_canon (s : State) (cls : Nat) (x : Xl) (hcan : s.Canon) : (s.classed cls x).Canon := by
  unfold State.classed
  repeat' with_reducible first
    | assumption | intro _ | apply State.modMem_canon
theorem State.waveMiss_canon (s : State) (st : StreamId) (vline : Nat) (hcan : s.Canon) : (s.waveMiss st vline).Canon := by
  unfold State.waveMiss
  repeat' first
    | with_reducible assumption | with_reducible apply State.modShader_canon | dsimp only | split
theorem State.l1Put_canon (s : State) (st : StreamId) (va : Nat) (x : Xl) (v : VWord) (hcan : s.Canon) : (s.l1Put st va x v).Canon := by
  unfold State.l1Put
  repeat' with_reducible first
    | assumption | apply State.l1Fill_canon
theorem State.l1Get_canon (s : State) (st : StreamId) (va : Nat) (x : Xl) (hcan : s.Canon) : SndCanon (s.l1Get st va x) := by
  unfold State.l1Get
  repeat' first
    | with_reducible first
      | assumption | apply State.clFetch_canon | apply State.l1Put_canon
    | dsimp only | split | with_reducible apply SndCanon.mk
theorem State.ownHome_canon (s : State) (st : StreamId) (ln : Nat) (hcan : s.Canon) : (s.ownHome st ln).Canon := by
  unfold State.ownHome
  repeat' with_reducible first
    | assumption | apply State.canon_ite | apply State.toHome_canon | apply State.clEvict_canon | apply State.wbDrain_canon
theorem State.ownHomeFor_canon (s : State) (st : StreamId) (ln : Nat) (sync : Bool) (hcan : s.Canon) :
    (s.ownHomeFor st ln sync).Canon := by
  unfold State.ownHomeFor
  repeat' with_reducible first
    | assumption | apply State.canon_ite | apply State.toHomeFor_canon | apply State.clEvict_canon | apply State.wbDrain_canon
theorem State.l1Seen_canon (s : State) (st : StreamId) (ln : Nat) (mask : PWord) (v : VWord) (hcan : s.Canon) :
    (s.l1Seen st ln mask v).Canon := by
  unfold State.l1Seen
  repeat' with_reducible first
    | assumption | apply State.canon_ite | apply State.l1Update_canon
theorem State.readLine_canon (s : State) (st : StreamId) (va : Nat) (x : Xl) (strm : Bool) (hcan : s.Canon) :
    SndCanon (s.readLine st va x strm) := by
  unfold State.readLine
  repeat' first
    | with_reducible first
      | assumption | apply State.canon_ite | apply SndCanon.ite | apply State.l1Update_canon | apply State.agentRead_canon
      | apply State.clClean_canon | apply State.waveMiss_canon | apply State.l1Put_canon | apply State.l1Get_canon
      | refine SndCanon.snd (State.l1Get_canon _ _ _ _ ?_) | apply State.ownHome_canon | apply State.l1Seen_canon
    | dsimp only | split | with_reducible apply SndCanon.mk
theorem State.readElem_canon (s : State) (st : StreamId) (va : Nat) (x : Xl) (n : Nat) (strm : Bool) (hcan : s.Canon) :
    SndCanon (s.readElem st va x n strm) := by
  unfold State.readElem
  repeat' first
    | with_reducible first
      | assumption | apply SndCanon.ite | apply State.deviceRead_canon | apply State.classed_canon
      | refine SndCanon.snd (State.readLine_canon _ _ _ _ _ ?_)
    | dsimp only | with_reducible apply SndCanon.mk
theorem State.clTake_canon (s : State) (c ln : Nat) (mask : PWord) (v : VWord) (hcan : s.Canon) : (s.clTake c ln mask v).Canon := by
  unfold State.clTake
  repeat' first
    | with_reducible first
      | assumption | apply State.killAt_canon | apply State.putClLine_canon
    | split
theorem State.writeElem_canon (s : State) (st : StreamId) (x : Xl) (n v : Nat) (strm : Bool) (hcan : s.Canon) :
    (s.writeElem st x n v strm).Canon := by
  unfold State.writeElem
  repeat' with_reducible first
    | assumption | apply State.canon_ite | apply State.row_canon | apply State.putHome_canon | apply State.killAt_canon
    | apply State.l1Update_canon | apply State.agentWrite_canon | apply State.wbDrain_canon | apply State.wbPut_canon
    | apply State.deviceWrite_canon | apply State.classed_canon | apply State.ownHome_canon | apply State.l1Seen_canon
    | apply State.clTake_canon | apply State.ownHomeFor_canon | apply State.tellRemote_canon | apply State.raiseLost_canon
    | apply State.evictLine_canon
theorem State.toPlace_canon (s : State) (st : StreamId) (p : Place) (va : Nat) (x : Xl) (hcan : s.Canon) :
    SndCanon (s.toPlace st p va x) := by
  unfold State.toPlace
  repeat' first
    | with_reducible first
      | assumption | apply State.canon_ite | apply State.evictLine_canon | apply State.agentHold_canon | apply State.clEvict_canon
      | apply State.clFetch_canon | apply State.wbDrain_canon | apply State.l1Get_canon | apply State.ownHome_canon
      | apply State.ownHomeFor_canon | apply State.waveMiss_canon
    | dsimp only | split | with_reducible apply SndCanon.mk
theorem State.placeWrite_canon (s : State) (p : Place) (ln : Nat) (mask : PWord) (v : VWord) (wt sync : Bool) (hcan : s.Canon) :
    (s.placeWrite p ln mask v wt sync).Canon := by
  unfold State.placeWrite
  repeat' first
    | with_reducible first
      | assumption | apply State.putHome_canon | apply State.killAt_canon | apply State.l1Update_canon | apply State.agentWrite_canon
      | apply State.clWrite_canon
    | split
theorem State.placeDone_canon (s : State) (st : StreamId) (p : Place) (ln : Nat) (mask : PWord) (v : VWord) (x : Xl) (hcan : s.Canon) :
    (s.placeDone st p ln mask v x).Canon := by
  unfold State.placeDone
  repeat' first
    | with_reducible first
      | assumption | apply State.canon_ite | apply State.tellRemote_canon | apply State.placeWrite_canon
    | dsimp only
theorem State.rmw_canon (s : State) (st : StreamId) (scope va : Nat) (x : Xl) (n : Nat) (f : Nat → Option Nat) (hcan : s.Canon) :
    SndCanon (s.rmw st scope va x n f) := by
  unfold State.rmw
  repeat' first
    | with_reducible first
      | assumption | apply SndCanon.ite | apply State.killAt_canon | apply State.deviceRead_canon
      | refine SndCanon.snd (State.deviceRead_canon _ _ _ _ ?_) | apply State.deviceWrite_canon | apply State.classed_canon
      | apply State.l1Seen_canon | refine SndCanon.snd (State.toPlace_canon _ _ _ _ _ ?_) | apply State.placeDone_canon
    | dsimp only | split | with_reducible apply SndCanon.mk
theorem State.reach_canon (s : State) (a : Ask) (j : Judged) : (s.reach a j).Keeps := by
  unfold State.reach
  repeat' first
    | with_reducible first
      | assumption | intro _ | exact Reach.keeps_ok | apply Reach.keeps_raise | apply Reach.keeps_ask | apply State.askWalk_canon
      | apply Keeps.intro
    | split
theorem State.readElems_canon (s : State) (st : StreamId) (n : Nat) (strm : Bool) (x0 : List Elem) (hcan : s.Canon) :
    SndCanon (s.readElems st n strm x0) := by
  induction x0 generalizing s with
  | nil => exact hcan
  | cons a l ih =>
    unfold State.readElems
    repeat' first
      | with_reducible first
        | assumption | refine SndCanon.snd (State.readElem_canon _ _ _ _ _ _ ?_) | refine SndCanon.snd (ih _ ?_)
      | dsimp only | with_reducible apply SndCanon.mk
theorem State.poisonCheck_canon (s : State) (st : StreamId) (l : List Elem) (hcan : s.Canon) : (s.poisonCheck st l).Canon := by
  unfold State.poisonCheck
  repeat' first
    | with_reducible assumption | with_reducible apply State.raiseLost_canon | split
theorem State.loaded_canon (s : State) (st : StreamId) (l : Load) (hcan : s.Canon) : SndCanon (s.loaded st l) := by
  unfold State.loaded
  repeat' first
    | with_reducible first
      | assumption | refine SndCanon.snd (State.readElems_canon _ _ _ _ _ ?_) | apply State.poisonCheck_canon
    | with_reducible apply SndCanon.mk
theorem State.returnLoad_canon (s : State) (st : StreamId) (l : Load) (hcan : s.Canon) : (s.returnLoad st l).Canon := by
  unfold State.returnLoad
  repeat' with_reducible first
    | assumption | apply State.modStream_canon | refine SndCanon.snd (State.loaded_canon _ _ _ ?_)
theorem State.loadNow_canon (s : State) (st : StreamId) (l : Load) (hcan : s.Canon) : (s.loadNow st l).Canon := by
  unfold State.loadNow
  repeat' with_reducible first
    | assumption | apply State.canon_ite | apply State.modStream_canon | apply State.takeNow_canon
    | refine SndCanon.snd (State.loaded_canon _ _ _ ?_)
theorem State.settle_canon (s : State) (st : StreamId) (hcan : s.Canon) : (s.settle st).Canon := by
  unfold State.settle
  repeat' with_reducible first
    | assumption | intro _ | apply State.setStream_canon | apply State.returnLoad_canon | apply State.canon_foldl
theorem State.issueLoad_canon (s : State) (l : Load) (order : MemOrder) (scope : Nat) (hcan : s.Canon) :
    (s.issueLoad l order scope).Canon := by
  unfold State.issueLoad
  repeat' with_reducible first
    | assumption | apply State.canon_ite | apply State.modStream_canon | apply State.acquire_canon | apply State.loadNow_canon
    | apply State.settle_canon
theorem State.ownClear_canon (s : State) (f : Form) (t : ElTy) (ks : List Nat) (hcan : s.Canon) : (s.ownClear f t ks).Canon := by
  unfold State.ownClear
  repeat' with_reducible first
    | assumption | apply State.clearReservations_canon
theorem State.giveBack_canon (s : State) (r : Result) (hcan : s.Canon) : (s.giveBack r).Canon := by
  unfold State.giveBack
  repeat' with_reducible first
    | assumption | apply State.canon_ite | apply State.modStream_canon | apply State.row_canon | apply State.takeNow_canon
theorem State.putSpace_canon (s : State) (st : StreamId) (space off : Nat) (l : List Byte) (hcan : s.Canon) :
    (s.putSpace st space off l).Canon := by
  unfold State.putSpace
  repeat' first
    | with_reducible first
      | assumption | apply State.modTile_canon | apply State.modShader_canon
    | dsimp only | split

end Sys2Proof.Machine
end

