-- ==== Sys2Proof/Laws/CanonPlans.lean ====
section
/-! SUPPORT. The canonical form of memory is kept by the plans of the operations. -/

namespace Sys2Proof.Machine

/-! ## Scalar -/

theorem planNop_canon (s : State) : (planNop s).Keeps := by
  unfold planNop
  repeat' with_reducible apply State.base_canon
theorem planVnop_canon (s : State) : (planVnop s).Keeps := by
  unfold planVnop
  repeat' with_reducible apply State.base_canon
theorem planLnop_canon (s : State) : (planLnop s).Keeps := by
  unfold planLnop
  repeat' with_reducible apply State.base_canon
theorem planWnop_canon (s : State) : (planWnop s).Keeps := by
  unfold planWnop
  repeat' with_reducible apply State.base_canon
theorem planMnop_canon (s : State) : (planMnop s).Keeps := by
  unfold planMnop
  repeat' with_reducible apply State.base_canon
theorem planCnop_canon (s : State) : (planCnop s).Keeps := by
  unfold planCnop
  repeat' with_reducible apply State.base_canon
theorem planYnop_canon (s : State) : (planYnop s).Keeps := by
  unfold planYnop
  repeat' with_reducible apply State.base_canon
theorem State.planS_canon (s : State) (i : Instr) (o : SOp) (lat : Nat) (v : Word) : (s.planS i o lat v).Keeps := by
  unfold State.planS
  repeat' with_reducible first
    | assumption | intro _ | apply State.putS_canon | apply State.plan_canon | apply State.scalar_canon | apply Keeps.intro
theorem State.planP_canon (s : State) (i : Instr) (o : SOp) (lat : Nat) (mask v : PWord) (ff : BitVec 5) :
    (s.planP i o lat mask v ff).Keeps := by
  unfold State.planP
  repeat' with_reducible first
    | assumption | intro _ | apply State.putP_canon | apply State.plan_canon | apply State.scalar_canon | apply Keeps.intro
theorem planAdd_canon (o : SOp) (s : State) : (planAdd o s).Keeps := by
  unfold planAdd
  repeat' with_reducible apply State.planS_canon
theorem planSub_canon (o : SOp) (s : State) : (planSub o s).Keeps := by
  unfold planSub
  repeat' with_reducible apply State.planS_canon
theorem planMul_canon (o : SOp) (s : State) : (planMul o s).Keeps := by
  unfold planMul
  repeat' with_reducible apply State.planS_canon
theorem planMulh_canon (o : SOp) (s : State) : (planMulh o s).Keeps := by
  unfold planMulh
  repeat' with_reducible apply State.planS_canon
theorem planMulhn_canon (o : SOp) (s : State) : (planMulhn o s).Keeps := by
  unfold planMulhn
  repeat' with_reducible apply State.planS_canon
theorem planDiv_canon (o : SOp) (s : State) : (planDiv o s).Keeps := by
  unfold planDiv
  repeat' with_reducible apply State.planS_canon
theorem planDivn_canon (o : SOp) (s : State) : (planDivn o s).Keeps := by
  unfold planDivn
  repeat' with_reducible apply State.planS_canon
theorem planRem_canon (o : SOp) (s : State) : (planRem o s).Keeps := by
  unfold planRem
  repeat' with_reducible apply State.planS_canon
theorem planRemn_canon (o : SOp) (s : State) : (planRemn o s).Keeps := by
  unfold planRemn
  repeat' with_reducible apply State.planS_canon
theorem planAnd_canon (o : SOp) (s : State) : (planAnd o s).Keeps := by
  unfold planAnd
  repeat' with_reducible apply State.planS_canon
theorem planOr_canon (o : SOp) (s : State) : (planOr o s).Keeps := by
  unfold planOr
  repeat' with_reducible apply State.planS_canon
theorem planXor_canon (o : SOp) (s : State) : (planXor o s).Keeps := by
  unfold planXor
  repeat' with_reducible apply State.planS_canon
theorem planAndn_canon (o : SOp) (s : State) : (planAndn o s).Keeps := by
  unfold planAndn
  repeat' with_reducible apply State.planS_canon
theorem planShl_canon (o : SOp) (s : State) : (planShl o s).Keeps := by
  unfold planShl
  repeat' with_reducible apply State.planS_canon
theorem planShr_canon (o : SOp) (s : State) : (planShr o s).Keeps := by
  unfold planShr
  repeat' with_reducible apply State.planS_canon
theorem planSar_canon (o : SOp) (s : State) : (planSar o s).Keeps := by
  unfold planSar
  repeat' with_reducible apply State.planS_canon
theorem planRol_canon (o : SOp) (s : State) : (planRol o s).Keeps := by
  unfold planRol
  repeat' with_reducible apply State.planS_canon
theorem planMin_canon (o : SOp) (s : State) : (planMin o s).Keeps := by
  unfold planMin
  repeat' with_reducible apply State.planS_canon
theorem planMinn_canon (o : SOp) (s : State) : (planMinn o s).Keeps := by
  unfold planMinn
  repeat' with_reducible apply State.planS_canon
theorem planMax_canon (o : SOp) (s : State) : (planMax o s).Keeps := by
  unfold planMax
  repeat' with_reducible apply State.planS_canon
theorem planMaxn_canon (o : SOp) (s : State) : (planMaxn o s).Keeps := by
  unfold planMaxn
  repeat' with_reducible apply State.planS_canon
theorem planClz_canon (o : SOp) (s : State) : (planClz o s).Keeps := by
  unfold planClz
  repeat' with_reducible apply State.planS_canon
theorem planCtz_canon (o : SOp) (s : State) : (planCtz o s).Keeps := by
  unfold planCtz
  repeat' with_reducible apply State.planS_canon
theorem planPopc_canon (o : SOp) (s : State) : (planPopc o s).Keeps := by
  unfold planPopc
  repeat' with_reducible apply State.planS_canon
theorem planSext_canon (o : SOp) (s : State) : (planSext o s).Keeps := by
  unfold planSext
  repeat' with_reducible apply State.planS_canon
theorem planZext_canon (o : SOp) (s : State) : (planZext o s).Keeps := by
  unfold planZext
  repeat' with_reducible apply State.planS_canon
theorem planBfx_canon (o : SOp) (s : State) : (planBfx o s).Keeps := by
  unfold planBfx
  repeat' with_reducible apply State.planS_canon
theorem planBfi_canon (o : SOp) (s : State) : (planBfi o s).Keeps := by
  unfold planBfi
  repeat' with_reducible apply State.planS_canon
theorem planSel_canon (o : SOp) (s : State) : (planSel o s).Keeps := by
  unfold planSel
  repeat' with_reducible apply State.planS_canon
theorem planLi_canon (o : SOp) (s : State) : (planLi o s).Keeps := by
  unfold planLi
  repeat' with_reducible apply State.planS_canon
theorem planLih_canon (o : SOp) (s : State) : (planLih o s).Keeps := by
  unfold planLih
  repeat' with_reducible apply State.planS_canon
theorem planCmp_canon (o : SOp) (s : State) : (planCmp o s).Keeps := by
  unfold planCmp
  repeat' with_reducible apply State.planP_canon
theorem planPlog_canon (o : SOp) (s : State) : (planPlog o s).Keeps := by
  unfold planPlog
  repeat' with_reducible apply State.planP_canon
theorem planPmov_canon (o : SOp) (s : State) : (planPmov o s).Keeps := by
  unfold planPmov
  repeat' with_reducible apply State.planP_canon
theorem planPmovHToS_canon (o : SOp) (s : State) : (planPmovHToS o s).Keeps := by
  unfold planPmovHToS
  repeat' with_reducible apply State.planS_canon
theorem planPmovHFromS_canon (o : SOp) (s : State) : (planPmovHFromS o s).Keeps := by
  unfold planPmovHFromS
  repeat' with_reducible apply State.planP_canon
theorem planPmovB_canon (o : SOp) (s : State) : (planPmovB o s).Keeps := by
  unfold planPmovB
  repeat' with_reducible apply State.planP_canon
theorem State.planF_canon (s : State) (i : Instr) (o : SOp) (lat : Nat) (r : FRes) : (s.planF i o lat r).Keeps := by
  unfold State.planF
  repeat' with_reducible first
    | assumption | intro _ | apply State.canon_ite | apply State.putS_canon | apply State.stepSr_canon | apply State.base_canon
    | apply State.scalar_canon | apply Plan.keeps_mk | apply Plan.Keeps.fin | apply Plan.Keeps.wait | apply Plan.Keeps.addr
    | apply Keeps.intro
theorem planFadd_canon (o : SOp) (s : State) : (planFadd o s).Keeps := by
  unfold planFadd
  repeat' with_reducible apply State.planF_canon
theorem planFsub_canon (o : SOp) (s : State) : (planFsub o s).Keeps := by
  unfold planFsub
  repeat' with_reducible apply State.planF_canon
theorem planFmul_canon (o : SOp) (s : State) : (planFmul o s).Keeps := by
  unfold planFmul
  repeat' with_reducible apply State.planF_canon
theorem planFdiv_canon (o : SOp) (s : State) : (planFdiv o s).Keeps := by
  unfold planFdiv
  repeat' with_reducible apply State.planF_canon
theorem planFsqrt_canon (o : SOp) (s : State) : (planFsqrt o s).Keeps := by
  unfold planFsqrt
  repeat' with_reducible apply State.planF_canon
theorem planFfma_canon (o : SOp) (s : State) : (planFfma o s).Keeps := by
  unfold planFfma
  repeat' with_reducible apply State.planF_canon
theorem planFcmp_canon (o : SOp) (s : State) : (planFcmp o s).Keeps := by
  unfold planFcmp
  repeat' with_reducible apply State.planP_canon
theorem planFcvt_canon (o : SOp) (s : State) : (planFcvt o s).Keeps := by
  unfold planFcvt
  repeat' with_reducible first
    | assumption | intro _ | apply State.canon_ite | apply State.putS_canon | apply State.stepSr_canon | apply State.base_canon
    | apply State.scalar_canon | apply Plan.keeps_mk | apply Plan.Keeps.fin | apply Plan.Keeps.wait | apply Plan.Keeps.addr
    | apply Keeps.intro
theorem planFminmax_canon (o : SOp) (s : State) : (planFminmax o s).Keeps := by
  unfold planFminmax
  repeat' with_reducible first
    | assumption | intro _ | apply State.putS_canon | apply State.plan_canon | apply State.scalar_canon | apply Keeps.intro
theorem planMts_canon (o : SOp) (s : State) : (planMts o s).Keeps := by
  unfold planMts
  repeat' with_reducible first
    | assumption | intro _ | apply State.modStream_canon | apply State.plan_canon | apply State.scalar_canon | apply Keeps.intro
theorem planMfs_canon (o : SOp) (s : State) : (planMfs o s).Keeps := by
  unfold planMfs
  repeat' with_reducible apply State.planS_canon
theorem planMtq_canon (o : SOp) (s : State) : (planMtq o s).Keeps := by
  unfold planMtq
  repeat' first
    | with_reducible first
      | assumption | intro _ | apply State.pushOut_canon | apply State.plan_canon | apply State.scalar_canon | apply Keeps.intro
    | split
theorem planLea_canon (o : SOp) (s : State) : (planLea o s).Keeps := by
  unfold planLea
  repeat' with_reducible apply State.planS_canon
theorem planAddpc_canon (o : SOp) (s : State) : (planAddpc o s).Keeps := by
  unfold planAddpc
  repeat' with_reducible apply State.planS_canon
theorem planWid_canon (o : SOp) (s : State) : (planWid o s).Keeps := by
  unfold planWid
  repeat' with_reducible apply State.planS_canon

/-! ## Csr -/

theorem State.putCsr_canon (s : State) (st : StreamId) (n : Nat) (v : Word) (hcan : s.Canon) : (s.putCsr st n v).Canon := by
  unfold State.putCsr
  repeat' first
    | with_reducible first
      | assumption | apply State.modStream_canon | apply State.modCommon_canon
    | dsimp only | split
theorem State.clearW1c_canon (s : State) (st : StreamId) (n : Nat) (mask : Word) (hcan : s.Canon) : (s.clearW1c st n mask).Canon := by
  unfold State.clearW1c
  repeat' with_reducible first
    | assumption | apply State.canon_ite | apply State.modStream_canon
theorem State.writeCsr_canon (s : State) (st : StreamId) (n : Nat) (old v w1c : Word) (hcan : s.Canon) :
    OptCanon (s.writeCsr st n old v w1c) := by
  unfold State.writeCsr
  repeat' with_reducible first
    | assumption | exact OptCanon.none | apply OptCanon.some | apply OptCanon.ite | apply State.putCsr_canon | apply State.clearW1c_canon
theorem State.accessCsr_canon (s : State) (o : SOp) (n : Nat) (write : Bool) (new : Word → Word) (w1c : Word) (hcan : s.Canon) :
    (s.accessCsr o n write new w1c).Canon := by
  unfold State.accessCsr
  repeat' with_reducible first
    | assumption | apply State.canon_ite | apply OptCanon.getD | apply State.deliver_canon | apply State.writeCsr_canon
theorem State.planCsr_canon (s : State) (i : Instr) (o : SOp) (write : Bool) (new : Word → Word) (w1c : Word) :
    (s.planCsr i o write new w1c).Keeps := by
  unfold State.planCsr
  repeat' with_reducible first
    | assumption | intro _ | apply State.canon_ite | apply State.putS_canon | apply State.base_canon | apply State.scalar_canon
    | apply State.accessCsr_canon | apply Plan.keeps_mk | apply Plan.Keeps.wait | apply Plan.Keeps.addr | apply Keeps.intro
theorem Plan.judgedAfter_canon (p : Plan) (s : State) (other : List Plan) (h : p.Keeps) : (p.judgedAfter s other).Keeps := by
  unfold Plan.judgedAfter
  split
  · exact h
  · dsimp only
    split
    · exact h
    · split
      · exact h
      · exact Plan.keeps_mk h.eff h.fin h.wait h.addr
theorem planCsrr_canon (o : SOp) (s : State) : (planCsrr o s).Keeps := by
  unfold planCsrr
  repeat' with_reducible apply State.planCsr_canon
theorem planCsrw_canon (o : SOp) (s : State) : (planCsrw o s).Keeps := by
  unfold planCsrw
  repeat' with_reducible apply State.planCsr_canon
theorem planCsrs_canon (o : SOp) (s : State) : (planCsrs o s).Keeps := by
  unfold planCsrs
  repeat' with_reducible apply State.planCsr_canon
theorem planCsrc_canon (o : SOp) (s : State) : (planCsrc o s).Keeps := by
  unfold planCsrc
  repeat' with_reducible apply State.planCsr_canon
theorem State.csrEvent_canon (s : State) (st : StreamId) (n : Nat) (v : Word) (hcan : s.Canon) : (s.csrEvent st n v).Canon := by
  unfold State.csrEvent
  repeat' with_reducible first
    | assumption | apply State.canon_ite | apply OptCanon.getD | apply State.service_canon | apply State.writeCsr_canon
theorem State.csrRow_canon (s : State) (n : Nat) (hcan : s.Canon) : (s.csrRow n).Canon := by
  unfold State.csrRow
  repeat' first
    | with_reducible assumption | with_reducible apply State.csrEvent_canon | split

/-! ## Control -/

theorem State.goto_canon (s : State) (pc : Word) (hcan : s.Canon) : (s.goto pc).Canon := by
  unfold State.goto
  repeat' first
    | dsimp only | (show Mem.wf _ = true; exact hcan)
theorem planBru_canon (o : SOp) (s : State) : (planBru o s).Keeps := by
  unfold planBru
  generalize s.bruTest o.pred = r
  obtain ⟨_ | _ | _, v⟩ := r
  · exact Plan.keeps_mk Keeps.id Keeps.id Keeps.id Reach.keeps_ok
  · exact State.base_canon _ _
  · exact Plan.keeps_mk (fun _ h => State.goto_canon _ _ h) Keeps.id Keeps.id Reach.keeps_ok
theorem planJmp_canon (o : SOp) (s : State) : (planJmp o s).Keeps := by
  unfold planJmp
  repeat' with_reducible first
    | assumption | intro _ | apply State.plan_canon | apply State.scalar_canon | apply State.goto_canon | apply Keeps.intro
theorem planCall_canon (o : SOp) (s : State) : (planCall o s).Keeps := by
  unfold planCall
  repeat' with_reducible first
    | assumption | intro _ | apply State.putS_canon | apply State.plan_canon | apply State.scalar_canon | apply State.goto_canon
    | apply Keeps.intro
theorem planRet_canon (o : SOp) (s : State) : (planRet o s).Keeps := by
  unfold planRet
  repeat' with_reducible first
    | assumption | intro _ | apply State.plan_canon | apply State.scalar_canon | apply State.goto_canon | apply Keeps.intro
theorem planLoop_canon (o : SOp) (s : State) : (planLoop o s).Keeps := by
  unfold planLoop
  repeat' with_reducible first
    | assumption | intro _ | apply State.canon_ite | apply State.putS_canon | apply State.plan_canon | apply State.scalar_canon
    | apply State.goto_canon | apply Keeps.intro
theorem planBrk_canon (o : SOp) (s : State) : (planBrk o s).Keeps := by
  unfold planBrk
  repeat' with_reducible first
    | assumption | intro _ | apply State.canon_ite | apply State.plan_canon | apply State.scalar_canon | apply State.goto_canon
    | apply Keeps.intro
theorem State.scatter_canon (s : State) (m : Lanes) (target : Nat → Word) (hcan : s.Canon) : (s.scatter m target).Canon := by
  unfold State.scatter
  repeat' first
    | dsimp only | (show Mem.wf _ = true; exact hcan)
theorem planBrl_canon (o : SOp) (s : State) : (planBrl o s).Keeps := by
  unfold planBrl
  repeat' with_reducible first
    | assumption | intro _ | apply State.plan_canon | apply State.scatter_canon | apply Keeps.intro
theorem planJmpl_canon (o : SOp) (s : State) : (planJmpl o s).Keeps := by
  unfold planJmpl
  repeat' with_reducible first
    | assumption | intro _ | apply State.plan_canon | apply State.scatter_canon | apply Keeps.intro
theorem planJoin_canon (o : SOp) (s : State) : (planJoin o s).Keeps := by
  unfold planJoin
  repeat' with_reducible first
    | assumption | intro _ | apply State.modStream_canon | apply State.plan_canon | apply State.scalar_canon | apply Keeps.intro
theorem planYieldp_canon (o : SOp) (s : State) : (planYieldp o s).Keeps := by
  unfold planYieldp
  repeat' with_reducible first
    | assumption | intro _ | apply State.modStream_canon | apply State.base_canon | apply State.scalar_canon | apply Plan.keeps_mk
    | apply Plan.Keeps.eff | apply Plan.Keeps.wait | apply Plan.Keeps.addr | apply Keeps.intro
theorem State.enterMonitor_canon (s : State) (n epc : Word) (hcan : s.Canon) : (s.enterMonitor n epc).Canon := by
  unfold State.enterMonitor
  repeat' with_reducible first
    | assumption | apply State.modStream_canon
theorem planSysc_canon (o : SOp) (s : State) : (planSysc o s).Keeps := by
  unfold planSysc
  repeat' with_reducible first
    | assumption | intro _ | apply State.canon_ite | apply State.service_canon | apply State.base_canon | apply State.scalar_canon
    | apply State.enterMonitor_canon | apply Plan.keeps_mk | apply Plan.Keeps.eff | apply Plan.Keeps.wait | apply Plan.Keeps.addr
    | apply Keeps.intro
theorem planTrap_canon (o : SOp) (s : State) : (planTrap o s).Keeps := by
  unfold planTrap
  repeat' with_reducible first
    | apply State.base_canon | apply State.scalar_canon | apply Plan.keeps_mk | apply Plan.Keeps.eff | apply Plan.Keeps.fin
    | apply Plan.Keeps.wait | apply Plan.Keeps.addr
theorem planBrkpt_canon (o : SOp) (s : State) : (planBrkpt o s).Keeps := by
  unfold planBrkpt
  repeat' with_reducible first
    | apply State.base_canon | apply State.scalar_canon | apply Plan.keeps_mk | apply Plan.Keeps.eff | apply Plan.Keeps.fin
    | apply Plan.Keeps.wait | apply Plan.Keeps.addr
theorem planEret_canon (o : SOp) (s : State) : (planEret o s).Keeps := by
  unfold planEret
  repeat' with_reducible first
    | assumption | intro _ | apply State.modStream_canon | apply State.base_canon | apply State.scalar_canon | apply Plan.keeps_mk
    | apply Plan.Keeps.eff | apply Plan.Keeps.wait | apply Plan.Keeps.addr | apply Keeps.intro
theorem planUret_canon (o : SOp) (s : State) : (planUret o s).Keeps := by
  unfold planUret
  repeat' with_reducible first
    | assumption | intro _ | apply State.modStream_canon | apply State.base_canon | apply State.scalar_canon | apply Plan.keeps_mk
    | apply Plan.Keeps.eff | apply Plan.Keeps.wait | apply Plan.Keeps.addr | apply Keeps.intro
theorem planWfi_canon (o : SOp) (s : State) : (planWfi o s).Keeps := by
  unfold planWfi
  repeat' with_reducible first
    | assumption | intro _ | apply State.canon_ite | apply State.modStream_canon | apply State.base_canon | apply State.scalar_canon
    | apply Plan.keeps_mk | apply Plan.Keeps.eff | apply Plan.Keeps.wait | apply Plan.Keeps.addr | apply Keeps.intro

/-! ## Vector -/

theorem State.planInt_canon (s : State) (i : Instr) (o : VOp) (lat : Nat) (f : Nat → Nat) : (s.planInt i o lat f).Keeps := by
  unfold State.planInt
  repeat' with_reducible first
    | assumption | intro _ | apply State.putElems_canon | apply State.plan_canon | apply Keeps.intro
theorem State.planFlagged_canon (s : State) (i : Instr) (o : VOp) (lat : Nat) (sr : Bool) (f : Nat → FRes) :
    (s.planFlagged i o lat sr f).Keeps := by
  unfold State.planFlagged
  repeat' with_reducible first
    | assumption | intro _ | apply State.canon_ite | apply State.putElems_canon | apply State.stepSr_canon | apply State.base_canon
    | apply Plan.keeps_mk | apply Plan.Keeps.fin | apply Plan.Keeps.wait | apply Plan.Keeps.addr | apply Keeps.intro
theorem planVadd_canon (o : VOp) (s : State) : (planVadd o s).Keeps := by
  unfold planVadd
  repeat' with_reducible apply State.planInt_canon
theorem planVsub_canon (o : VOp) (s : State) : (planVsub o s).Keeps := by
  unfold planVsub
  repeat' with_reducible apply State.planInt_canon
theorem planVmul_canon (o : VOp) (s : State) : (planVmul o s).Keeps := by
  unfold planVmul
  repeat' with_reducible apply State.planInt_canon
theorem planVmulh_canon (o : VOp) (s : State) : (planVmulh o s).Keeps := by
  unfold planVmulh
  repeat' with_reducible apply State.planInt_canon
theorem planVmad_canon (o : VOp) (s : State) : (planVmad o s).Keeps := by
  unfold planVmad
  repeat' with_reducible apply State.planInt_canon
theorem planVabs_canon (o : VOp) (s : State) : (planVabs o s).Keeps := by
  unfold planVabs
  repeat' with_reducible first
    | apply Plan.keeps_ite | apply State.planInt_canon
theorem planVneg_canon (o : VOp) (s : State) : (planVneg o s).Keeps := by
  unfold planVneg
  repeat' with_reducible first
    | apply Plan.keeps_ite | apply State.planInt_canon
theorem planVadds_canon (o : VOp) (s : State) : (planVadds o s).Keeps := by
  unfold planVadds
  repeat' with_reducible apply State.planFlagged_canon
theorem planVsubs_canon (o : VOp) (s : State) : (planVsubs o s).Keeps := by
  unfold planVsubs
  repeat' with_reducible apply State.planFlagged_canon
theorem planVmin_canon (o : VOp) (s : State) : (planVmin o s).Keeps := by
  unfold planVmin
  repeat' with_reducible apply State.planInt_canon
theorem planVmax_canon (o : VOp) (s : State) : (planVmax o s).Keeps := by
  unfold planVmax
  repeat' with_reducible apply State.planInt_canon
theorem planVavg_canon (o : VOp) (s : State) : (planVavg o s).Keeps := by
  unfold planVavg
  repeat' with_reducible apply State.planInt_canon
theorem planVsad_canon (o : VOp) (s : State) : (planVsad o s).Keeps := by
  unfold planVsad
  repeat' with_reducible apply State.planInt_canon
theorem planVand_canon (o : VOp) (s : State) : (planVand o s).Keeps := by
  unfold planVand
  repeat' with_reducible apply State.planInt_canon
theorem planVor_canon (o : VOp) (s : State) : (planVor o s).Keeps := by
  unfold planVor
  repeat' with_reducible apply State.planInt_canon
theorem planVxor_canon (o : VOp) (s : State) : (planVxor o s).Keeps := by
  unfold planVxor
  repeat' with_reducible apply State.planInt_canon
theorem planVandn_canon (o : VOp) (s : State) : (planVandn o s).Keeps := by
  unfold planVandn
  repeat' with_reducible apply State.planInt_canon
theorem planVshl_canon (o : VOp) (s : State) : (planVshl o s).Keeps := by
  unfold planVshl
  repeat' with_reducible apply State.planInt_canon
theorem planVshr_canon (o : VOp) (s : State) : (planVshr o s).Keeps := by
  unfold planVshr
  repeat' with_reducible apply State.planInt_canon
theorem planVsar_canon (o : VOp) (s : State) : (planVsar o s).Keeps := by
  unfold planVsar
  repeat' with_reducible apply State.planInt_canon
theorem planVclz_canon (o : VOp) (s : State) : (planVclz o s).Keeps := by
  unfold planVclz
  repeat' with_reducible apply State.planInt_canon
theorem planVpopc_canon (o : VOp) (s : State) : (planVpopc o s).Keeps := by
  unfold planVpopc
  repeat' with_reducible apply State.planInt_canon
theorem planVbfx_canon (o : VOp) (s : State) : (planVbfx o s).Keeps := by
  unfold planVbfx
  repeat' with_reducible apply State.planInt_canon
theorem planVbfi_canon (o : VOp) (s : State) : (planVbfi o s).Keeps := by
  unfold planVbfi
  repeat' with_reducible apply State.planInt_canon
theorem planVbsel_canon (o : VOp) (s : State) : (planVbsel o s).Keeps := by
  unfold planVbsel
  repeat' with_reducible apply State.planInt_canon
theorem planVcmp_canon (o : VOp) (s : State) : (planVcmp o s).Keeps := by
  unfold planVcmp
  repeat' with_reducible first
    | assumption | intro _ | apply State.putP_canon | apply State.plan_canon | apply Keeps.intro
theorem planVsel_canon (o : VOp) (s : State) : (planVsel o s).Keeps := by
  unfold planVsel
  repeat' with_reducible apply State.planInt_canon
theorem planVplog_canon (o : VOp) (s : State) : (planVplog o s).Keeps := by
  unfold planVplog
  repeat' with_reducible first
    | assumption | intro _ | apply State.putP_canon | apply State.plan_canon | apply Keeps.intro
theorem State.planVS_canon (s : State) (i : Instr) (o : VOp) (lat : Nat) (v : Word) : (s.planVS i o lat v).Keeps := by
  unfold State.planVS
  repeat' with_reducible first
    | assumption | intro _ | apply State.putS_canon | apply State.plan_canon | apply Keeps.intro
theorem planVpcnt_canon (o : VOp) (s : State) : (planVpcnt o s).Keeps := by
  unfold planVpcnt
  repeat' with_reducible apply State.planVS_canon
theorem planVpfirst_canon (o : VOp) (s : State) : (planVpfirst o s).Keeps := by
  unfold planVpfirst
  repeat' with_reducible apply State.planVS_canon
theorem planVpany_canon (o : VOp) (s : State) : (planVpany o s).Keeps := by
  unfold planVpany
  repeat' with_reducible first
    | assumption | intro _ | apply State.putP_canon | apply State.plan_canon | apply Keeps.intro

/-! ## VFloat -/

theorem State.planRound_canon (s : State) (i : Instr) (o : VOp) (lat : Nat) (f : Eff → Nat → Nat → FRes) :
    (s.planRound i o lat f).Keeps := by
  unfold State.planRound
  repeat' with_reducible apply State.planFlagged_canon
theorem planVfadd_canon (o : VOp) (s : State) : (planVfadd o s).Keeps := by
  unfold planVfadd
  repeat' with_reducible apply State.planRound_canon
theorem planVfsub_canon (o : VOp) (s : State) : (planVfsub o s).Keeps := by
  unfold planVfsub
  repeat' with_reducible apply State.planRound_canon
theorem planVfmul_canon (o : VOp) (s : State) : (planVfmul o s).Keeps := by
  unfold planVfmul
  repeat' with_reducible apply State.planRound_canon
theorem planVffma_canon (o : VOp) (s : State) : (planVffma o s).Keeps := by
  unfold planVffma
  repeat' with_reducible apply State.planRound_canon
theorem planVfmin_canon (o : VOp) (s : State) : (planVfmin o s).Keeps := by
  unfold planVfmin
  repeat' with_reducible apply State.planFlagged_canon
theorem planVfmax_canon (o : VOp) (s : State) : (planVfmax o s).Keeps := by
  unfold planVfmax
  repeat' with_reducible apply State.planFlagged_canon
theorem State.planFn_canon (s : State) (i : Instr) (o : VOp) (op : Nat) : (s.planFn i o op).Keeps := by
  unfold State.planFn
  repeat' with_reducible apply State.planRound_canon
theorem planVrcp_canon (o : VOp) (s : State) : (planVrcp o s).Keeps := by
  unfold planVrcp
  repeat' with_reducible apply State.planFn_canon
theorem planVrsq_canon (o : VOp) (s : State) : (planVrsq o s).Keeps := by
  unfold planVrsq
  repeat' with_reducible apply State.planFn_canon
theorem planVsqrt_canon (o : VOp) (s : State) : (planVsqrt o s).Keeps := by
  unfold planVsqrt
  repeat' with_reducible apply State.planFn_canon
theorem planVexp2_canon (o : VOp) (s : State) : (planVexp2 o s).Keeps := by
  unfold planVexp2
  repeat' with_reducible apply State.planFn_canon
theorem planVlog2_canon (o : VOp) (s : State) : (planVlog2 o s).Keeps := by
  unfold planVlog2
  repeat' with_reducible apply State.planFn_canon
theorem planVsin_canon (o : VOp) (s : State) : (planVsin o s).Keeps := by
  unfold planVsin
  repeat' with_reducible apply State.planFn_canon
theorem planVcos_canon (o : VOp) (s : State) : (planVcos o s).Keeps := by
  unfold planVcos
  repeat' with_reducible apply State.planFn_canon
theorem planVtanh_canon (o : VOp) (s : State) : (planVtanh o s).Keeps := by
  unfold planVtanh
  repeat' with_reducible apply State.planFn_canon
theorem planVcvt_canon (o : VOp) (s : State) : (planVcvt o s).Keeps := by
  unfold planVcvt
  repeat' with_reducible first
    | assumption | intro _ | apply State.canon_ite | apply State.putElems_canon | apply State.stepSr_canon | apply State.base_canon
    | apply Plan.keeps_mk | apply Plan.Keeps.fin | apply Plan.Keeps.wait | apply Plan.Keeps.addr | apply Keeps.intro
theorem planVquant_canon (o : VOp) (s : State) : (planVquant o s).Keeps := by
  unfold planVquant
  repeat' with_reducible first
    | assumption | intro _ | apply State.canon_ite | apply State.deliver_canon | apply State.putElems_canon | apply State.stepSr_canon
    | apply State.base_canon | apply Plan.keeps_mk | apply Plan.Keeps.fin | apply Plan.Keeps.wait | apply Plan.Keeps.addr
    | apply Keeps.intro
theorem planVdeq_canon (o : VOp) (s : State) : (planVdeq o s).Keeps := by
  unfold planVdeq
  repeat' with_reducible first
    | assumption | intro _ | apply State.canon_ite | apply State.deliver_canon | apply State.stepSr_canon | apply State.base_canon
    | apply State.canon_foldl | apply Plan.keeps_mk | apply Plan.Keeps.fin | apply Plan.Keeps.wait | apply Plan.Keeps.addr
    | apply Keeps.intro

/-! ## Permute -/

theorem planVtbl_canon (o : VOp) (s : State) : (planVtbl o s).Keeps := by
  unfold planVtbl
  repeat' with_reducible apply State.planInt_canon
theorem planVperm_canon (o : VOp) (s : State) : (planVperm o s).Keeps := by
  unfold planVperm
  repeat' with_reducible apply State.planInt_canon
theorem planVslide_canon (o : VOp) (s : State) : (planVslide o s).Keeps := by
  unfold planVslide
  repeat' with_reducible apply State.planInt_canon
theorem planVshfl_canon (o : VOp) (s : State) : (planVshfl o s).Keeps := by
  unfold planVshfl
  repeat' with_reducible apply State.planInt_canon
theorem planVbcast_canon (o : VOp) (s : State) : (planVbcast o s).Keeps := by
  unfold planVbcast
  repeat' with_reducible apply State.planInt_canon
theorem planVext_canon (o : VOp) (s : State) : (planVext o s).Keeps := by
  unfold planVext
  repeat' with_reducible first
    | apply Plan.keeps_ite | apply State.base_canon | apply State.planVS_canon
theorem planVins_canon (o : VOp) (s : State) : (planVins o s).Keeps := by
  unfold planVins
  repeat' with_reducible first
    | assumption | intro _ | apply State.putElems_canon | apply State.plan_canon | apply Keeps.intro
theorem planVzip_canon (o : VOp) (s : State) : (planVzip o s).Keeps := by
  unfold planVzip
  repeat' with_reducible apply State.planInt_canon
theorem planVunzip_canon (o : VOp) (s : State) : (planVunzip o s).Keeps := by
  unfold planVunzip
  repeat' with_reducible apply State.planInt_canon
theorem State.planReduce_canon (s : State) (i : Instr) (o : VOp) (lat : Nat) (r : Nat) (ff : BitVec 5) (mf : BitVec 4) :
    (s.planReduce i o lat r ff mf).Keeps := by
  unfold State.planReduce
  repeat' with_reducible first
    | assumption | intro _ | apply State.putElems_canon | apply State.plan_canon | apply Keeps.intro
theorem planVredadd_canon (o : VOp) (s : State) : (planVredadd o s).Keeps := by
  unfold planVredadd
  repeat' with_reducible apply State.planReduce_canon
theorem planVredmin_canon (o : VOp) (s : State) : (planVredmin o s).Keeps := by
  unfold planVredmin
  repeat' with_reducible first
    | apply Plan.keeps_ite | apply State.planReduce_canon
theorem planVredmax_canon (o : VOp) (s : State) : (planVredmax o s).Keeps := by
  unfold planVredmax
  repeat' with_reducible first
    | apply Plan.keeps_ite | apply State.planReduce_canon
theorem planVredlog_canon (o : VOp) (s : State) : (planVredlog o s).Keeps := by
  unfold planVredlog
  repeat' with_reducible apply State.planReduce_canon
theorem planVscan_canon (o : VOp) (s : State) : (planVscan o s).Keeps := by
  unfold planVscan
  repeat' with_reducible apply State.planInt_canon
theorem Plan.Keeps.withSr {p : Plan} (b : Bool) (h : p.Keeps) :
    Plan.Keeps { p with sr := b, eff := fun u => let u := p.eff u; if b then u.stepSr else u } := by
  refine Plan.keeps_mk ?_ h.fin h.wait h.addr
  intro u hu
  dsimp only
  split
  · exact State.stepSr_canon _ (h.eff_canon hu)
  · exact h.eff_canon hu
theorem planVfredadd_canon (o : VOp) (s : State) : (planVfredadd o s).Keeps := by
  unfold planVfredadd
  exact Plan.Keeps.withSr _ (State.planReduce_canon ..)
theorem planVmov_canon (o : VOp) (s : State) : (planVmov o s).Keeps := by
  unfold planVmov
  repeat' with_reducible apply State.planInt_canon
theorem planVmovS_canon (o : VOp) (s : State) : (planVmovS o s).Keeps := by
  unfold planVmovS
  repeat' with_reducible apply State.planInt_canon
theorem planVli_canon (o : VOp) (s : State) : (planVli o s).Keeps := by
  unfold planVli
  repeat' with_reducible apply State.planInt_canon
theorem planVlane_canon (o : VOp) (s : State) : (planVlane o s).Keeps := by
  unfold planVlane
  repeat' with_reducible apply State.planInt_canon

/-! ## Loads -/

theorem State.gateL_canon (s : State) (i : Instr) (f : Form) (pred : Pred) (p : Plan) (h : p.Keeps) : (s.gateL i f pred p).Keeps := by
  unfold State.gateL
  exact Plan.keeps_ite (Plan.keeps_mk Keeps.id Keeps.id Keeps.id Reach.keeps_ok) h
theorem State.planLoad_canon (s : State) (i : Instr) (o : LOp) (f : Form) (strm : Bool) : (s.planLoad i o f strm).Keeps := by
  unfold State.planLoad
  repeat' with_reducible first
    | assumption | intro _ | apply State.base_canon | apply State.reach_canon | apply State.issueLoad_canon | apply State.gateL_canon
    | apply Plan.keeps_mk | apply Plan.Keeps.fin | apply Plan.Keeps.wait | apply Keeps.intro
theorem planLd_canon (o : LOp) (s : State) : (planLd o s).Keeps := by
  unfold planLd
  repeat' with_reducible apply State.planLoad_canon
theorem planVld_canon (o : LOp) (s : State) : (planVld o s).Keeps := by
  unfold planVld
  repeat' with_reducible apply State.planLoad_canon
theorem planVlds_canon (o : LOp) (s : State) : (planVlds o s).Keeps := by
  unfold planVlds
  repeat' with_reducible apply State.planLoad_canon
theorem planVldg_canon (o : LOp) (s : State) : (planVldg o s).Keeps := by
  unfold planVldg
  repeat' with_reducible apply State.planLoad_canon
theorem planGld_canon (o : LOp) (s : State) : (planGld o s).Keeps := by
  unfold planGld
  repeat' with_reducible apply State.planLoad_canon
theorem planTld_canon (o : LOp) (s : State) : (planTld o s).Keeps := by
  unfold planTld
  repeat' first
    | with_reducible first
      | assumption | intro _ | exact Reach.keeps_ok | apply Reach.keeps_raise | apply State.deliver_canon | apply State.base_canon
      | apply State.gateL_canon | apply Plan.keeps_mk | apply Plan.Keeps.fin | apply Plan.Keeps.wait | apply Keeps.intro
    | split
theorem State.prefetch_canon (s : State) (st : StreamId) (va : Nat) (x : Xl) (scope : Nat) (hcan : s.Canon) :
    (s.prefetch st va x scope).Canon := by
  unfold State.prefetch
  repeat' with_reducible first
    | assumption | apply State.canon_ite | apply State.agentRead_canon | apply State.clFetch_canon
    | refine SndCanon.snd (State.readLine_canon _ _ _ _ _ ?_)
theorem planLpf_canon (o : LOp) (s : State) : (planLpf o s).Keeps := by
  unfold planLpf
  repeat' first
    | with_reducible first
      | assumption | intro _ | apply State.canon_ite | apply State.plan_canon | apply State.xlate_canon | apply State.gateL_canon
      | apply State.prefetch_canon | refine SndCanon.of_eq (by with_reducible assumption) ?_ | apply Keeps.intro
    | split
theorem State.reserve_canon (s : State) (st : StreamId) (l : Nat) (ln : Nat) (p : Place) (hcan : s.Canon) :
    (s.reserve st l ln p).Canon := by
  unfold State.reserve
  repeat' with_reducible first
    | assumption | apply State.modCommon_canon
theorem State.exclusives_canon (s : State) (st : StreamId) (scope n : Nat) (x0 : List Elem) (hcan : s.Canon) :
    SndCanon (s.exclusives st scope n x0) := by
  induction x0 generalizing s with
  | nil => exact hcan
  | cons a l ih =>
    unfold State.exclusives
    repeat' first
      | with_reducible first
        | assumption | refine SndCanon.snd (State.deviceRead_canon _ _ _ _ ?_) | apply State.classed_canon | apply State.l1Seen_canon
        | refine SndCanon.snd (State.toPlace_canon _ _ _ _ _ ?_) | apply State.reserve_canon | refine SndCanon.snd (ih _ ?_)
      | dsimp only | split | with_reducible apply SndCanon.mk
theorem planLdx_canon (o : LOp) (s : State) : (planLdx o s).Keeps := by
  unfold planLdx
  repeat' with_reducible first
    | assumption | intro _ | apply State.canon_ite | apply State.deliver_canon | apply State.base_canon | apply State.acquire_canon
    | apply State.reach_canon | apply State.poisonCheck_canon | apply State.settle_canon | apply State.gateL_canon
    | refine SndCanon.snd (State.exclusives_canon _ _ _ _ _ ?_) | apply Plan.keeps_mk | apply Plan.Keeps.fin | apply Plan.Keeps.wait
    | apply Keeps.intro
theorem State.atomics_canon (s : State) (st : StreamId) (scope n : Nat) (g : Nat → Nat → Option Nat) (x0 : List Elem)
    (hcan : s.Canon) : SndCanon (s.atomics st scope n g x0) := by
  induction x0 generalizing s with
  | nil => exact hcan
  | cons a l ih =>
    unfold State.atomics
    repeat' first
      | with_reducible first
        | assumption | refine SndCanon.snd (State.rmw_canon _ _ _ _ _ _ _ ?_) | refine SndCanon.snd (ih _ ?_)
      | dsimp only | with_reducible apply SndCanon.mk
theorem State.planAtomic_canon (s : State) (i : Instr) (o : LOp) (g : (Nat → Nat) → (Nat → Nat) → Nat → Nat → Option Nat) :
    (s.planAtomic i o g).Keeps := by
  unfold State.planAtomic
  repeat' with_reducible first
    | assumption | intro _ | apply State.canon_ite | apply State.base_canon | apply State.acquire_canon | apply State.release_canon
    | apply State.reach_canon | apply State.poisonCheck_canon | apply State.settle_canon | apply State.ownClear_canon
    | apply State.giveBack_canon | apply State.gateL_canon | refine SndCanon.snd (State.atomics_canon _ _ _ _ _ _ ?_)
    | apply Plan.keeps_mk | apply Plan.Keeps.fin | apply Keeps.intro
theorem State.planAm_canon (s : State) (i : Instr) (o : LOp) (g : Nat → Nat → Nat) : (s.planAm i o g).Keeps := by
  unfold State.planAm
  repeat' with_reducible apply State.planAtomic_canon
theorem planAmadd_canon (o : LOp) (s : State) : (planAmadd o s).Keeps := by
  unfold planAmadd
  repeat' with_reducible apply State.planAm_canon
theorem planAmmin_canon (o : LOp) (s : State) : (planAmmin o s).Keeps := by
  unfold planAmmin
  repeat' with_reducible apply State.planAm_canon
theorem planAmmax_canon (o : LOp) (s : State) : (planAmmax o s).Keeps := by
  unfold planAmmax
  repeat' with_reducible apply State.planAm_canon
theorem planAmand_canon (o : LOp) (s : State) : (planAmand o s).Keeps := by
  unfold planAmand
  repeat' with_reducible apply State.planAm_canon
theorem planAmor_canon (o : LOp) (s : State) : (planAmor o s).Keeps := by
  unfold planAmor
  repeat' with_reducible apply State.planAm_canon
theorem planAmxor_canon (o : LOp) (s : State) : (planAmxor o s).Keeps := by
  unfold planAmxor
  repeat' with_reducible apply State.planAm_canon
theorem planAmswp_canon (o : LOp) (s : State) : (planAmswp o s).Keeps := by
  unfold planAmswp
  repeat' with_reducible apply State.planAm_canon
theorem planAmcas_canon (o : LOp) (s : State) : (planAmcas o s).Keeps := by
  unfold planAmcas
  repeat' with_reducible apply State.planAtomic_canon
theorem planAmfadd_canon (o : LOp) (s : State) : (planAmfadd o s).Keeps := by
  unfold planAmfadd
  repeat' with_reducible apply State.planAm_canon
theorem planAminc_canon (o : LOp) (s : State) : (planAminc o s).Keeps := by
  unfold planAminc
  repeat' with_reducible apply State.planAm_canon

/-! ## Stores -/

theorem State.pushed_canon (s : State) (st : StreamId) (order : MemOrder) (scope : Nat) (hcan : s.Canon) :
    (s.pushed st order scope).Canon := by
  unfold State.pushed
  repeat' with_reducible first
    | assumption | apply State.canon_ite | apply State.release_canon
theorem State.planStore_canon (s : State) (i : Instr) (o : WOp) (f : Form) (strm : Bool) : (s.planStore i o f strm).Keeps := by
  unfold State.planStore
  repeat' with_reducible first
    | assumption | intro _ | apply State.base_canon | apply State.writeElem_canon | apply State.reach_canon | apply State.settle_canon
    | apply State.ownClear_canon | apply State.gateL_canon | apply State.pushed_canon | apply State.canon_foldl | apply Plan.keeps_mk
    | apply Plan.Keeps.fin | apply Keeps.intro
theorem planSt_canon (o : WOp) (s : State) : (planSt o s).Keeps := by
  unfold planSt
  repeat' with_reducible apply State.planStore_canon
theorem planVst_canon (o : WOp) (s : State) : (planVst o s).Keeps := by
  unfold planVst
  repeat' with_reducible apply State.planStore_canon
theorem planVsts_canon (o : WOp) (s : State) : (planVsts o s).Keeps := by
  unfold planVsts
  repeat' with_reducible apply State.planStore_canon
theorem planVsct_canon (o : WOp) (s : State) : (planVsct o s).Keeps := by
  unfold planVsct
  repeat' with_reducible apply State.planStore_canon
theorem planGst_canon (o : WOp) (s : State) : (planGst o s).Keeps := by
  unfold planGst
  repeat' with_reducible apply State.planStore_canon
theorem planTst_canon (o : WOp) (s : State) : (planTst o s).Keeps := by
  unfold planTst
  repeat' first
    | with_reducible first
      | assumption | intro _ | exact Reach.keeps_ok | apply Reach.keeps_raise | apply State.base_canon | apply State.ownClear_canon
      | apply State.putSpace_canon | apply State.gateL_canon | apply State.canon_foldl | apply Plan.keeps_mk | apply Plan.Keeps.fin
      | apply Plan.Keeps.wait | apply Keeps.intro | apply State.release_canon | apply State.settle_canon
    | split
theorem State.unreserve_canon (s : State) (st : StreamId) (l : Nat) (hcan : s.Canon) : (s.unreserve st l).Canon := by
  unfold State.unreserve
  repeat' with_reducible first
    | assumption | apply State.modCommon_canon
theorem State.storeCond_canon (s : State) (st : StreamId) (scope n v : Nat) (e : Elem) (hcan : s.Canon) :
    SndCanon (s.storeCond st scope n v e) := by
  unfold State.storeCond
  repeat' first
    | with_reducible first
      | assumption | apply SndCanon.ite | apply State.deviceWrite_canon | apply State.classed_canon | apply State.l1Seen_canon
      | refine SndCanon.snd (State.toPlace_canon _ _ _ _ _ ?_) | apply State.placeDone_canon | apply State.unreserve_canon
      | apply State.raiseLost_canon
    | dsimp only | with_reducible apply SndCanon.mk
theorem State.storeConds_canon (s : State) (st : StreamId) (scope n : Nat) (v : Nat → Nat) (x0 : List Elem) (hcan : s.Canon) :
    SndCanon (s.storeConds st scope n v x0) := by
  induction x0 generalizing s with
  | nil => exact hcan
  | cons a l ih =>
    unfold State.storeConds
    repeat' first
      | with_reducible first
        | assumption | refine SndCanon.snd (State.storeCond_canon _ _ _ _ _ _ ?_) | apply ih | refine SndCanon.snd (ih _ ?_)
      | dsimp only | split | with_reducible apply SndCanon.mk
theorem planStx_canon (o : WOp) (s : State) : (planStx o s).Keeps := by
  unfold planStx
  repeat' with_reducible first
    | assumption | intro _ | apply State.base_canon | apply State.reach_canon | apply State.settle_canon | apply State.giveBack_canon
    | apply State.gateL_canon | apply State.pushed_canon | refine SndCanon.snd (State.storeConds_canon _ _ _ _ _ _ ?_)
    | apply Plan.keeps_mk | apply Plan.Keeps.fin | apply Keeps.intro
theorem State.addPartial_canon (s : State) (st : StreamId) (t : ElTy) (x : Xl) (v : Nat) (hcan : s.Canon) :
    (s.addPartial st t x v).Canon := by
  unfold State.addPartial
  repeat' first
    | with_reducible first
      | assumption | intro _ | apply State.canon_ite | apply State.modMem_canon | apply State.row_canon
    | dsimp only | split
theorem planCadd_canon (o : WOp) (s : State) : (planCadd o s).Keeps := by
  unfold planCadd
  repeat' with_reducible first
    | assumption | intro _ | apply State.base_canon | apply State.reach_canon | apply State.settle_canon | apply State.ownClear_canon
    | apply State.pushed_canon | apply State.addPartial_canon | apply State.canon_foldl | apply Plan.keeps_mk | apply Plan.Keeps.fin
    | apply Keeps.intro
theorem State.writeBack_canon (s : State) (st : StreamId) (x : Xl) (scope : Nat) (hcan : s.Canon) : (s.writeBack st x scope).Canon := by
  unfold State.writeBack
  repeat' first
    | with_reducible first
      | assumption | apply State.canon_ite | apply State.agentOwn_canon | apply State.agentClean_canon | apply State.clSend_canon
      | apply State.wbDrain_canon
    | dsimp only | split
theorem planCwb_canon (o : WOp) (s : State) : (planCwb o s).Keeps := by
  unfold planCwb
  repeat' with_reducible first
    | assumption | intro _ | apply State.base_canon | apply State.reach_canon | apply State.settle_canon | apply State.gateL_canon
    | apply State.writeBack_canon | apply State.canon_foldl | apply Plan.keeps_mk | apply Plan.Keeps.fin | apply Plan.Keeps.wait
    | apply Keeps.intro

/-! ## System -/

theorem State.pushLanes_canon (s : State) (st : StreamId) (m : List Nat) (ret : Word) (es : List Elem) (hcan : s.Canon) :
    (s.pushLanes st m ret es).Canon := by
  unfold State.pushLanes
  repeat' with_reducible first
    | assumption | intro _ | apply State.canon_ite | apply State.clearReservations_canon | apply State.modStream_canon | apply State.writeElem_canon | apply State.canon_foldl
theorem State.popLanes_canon (s : State) (st : StreamId) (m : List Nat) (es : List Elem) (hcan : s.Canon) :
    (s.popLanes st m es).Canon := by
  unfold State.popLanes
  repeat' with_reducible first
    | assumption | apply State.modStream_canon | refine SndCanon.snd (State.readElems_canon _ _ _ _ _ ?_)
theorem planCalll_canon (o : SOp) (s : State) : (planCalll o s).Keeps := by
  unfold planCalll
  repeat' with_reducible first
    | assumption | intro _ | apply State.canon_ite | apply State.base_canon | apply State.scatter_canon | apply State.reach_canon
    | apply State.settle_canon | apply State.pushLanes_canon | apply Plan.keeps_mk | apply Plan.Keeps.fin | apply Plan.Keeps.wait
    | apply Keeps.intro
theorem planRetl_canon (o : SOp) (s : State) : (planRetl o s).Keeps := by
  unfold planRetl
  repeat' with_reducible first
    | assumption | intro _ | apply State.base_canon | apply State.scatter_canon | apply State.reach_canon | apply State.popLanes_canon
    | apply Plan.keeps_mk | apply Plan.Keeps.fin | apply Plan.Keeps.wait | apply Keeps.intro
theorem State.shoot_canon (s : State) (inCluster inDie inSuper : Nat → Bool) (kind va : Nat) (asid : BitVec 16) (hcan : s.Canon) :
    (s.shoot inCluster inDie inSuper kind va asid).Canon := by
  unfold State.shoot
  repeat' first
    | with_reducible first
      | assumption | intro _ | apply State.canon_ite | apply State.wbDrain_canon | apply State.settle_canon | apply State.canon_foldl
    | dsimp only | (with_reducible apply State.canon_mk; with_reducible apply State.Canon.mem; with_reducible apply State.modMem_canon)
theorem State.tlbiAct_canon (s : State) (st : StreamId) (w : TlbiWait) (hcan : s.Canon) : (s.tlbiAct st w).Canon := by
  unfold State.tlbiAct
  repeat' with_reducible first
    | assumption | apply State.shoot_canon
theorem planTlbi_canon (o : SOp) (s : State) : (planTlbi o s).Keeps := by
  unfold planTlbi
  repeat' with_reducible first
    | assumption | intro _ | apply State.modStream_canon | apply State.row_canon | apply State.base_canon | apply State.scalar_canon
    | apply Plan.keeps_mk | apply Plan.Keeps.fin | apply Plan.Keeps.wait | apply Plan.Keeps.addr | apply Keeps.intro
theorem State.maintAll_canon (s : State) (st : StreamId) (drop : Bool) (hcan : s.Canon) : (s.maintAll st drop).Canon := by
  unfold State.maintAll
  repeat' first
    | with_reducible first
      | assumption | intro _ | apply State.canon_ite | apply State.evictLine_canon | apply State.agentClean_canon
      | apply State.setCluster_canon | apply State.clPush_canon | apply State.canon_foldl
    | dsimp only | split
theorem State.maintLine_canon (s : State) (st : StreamId) (ln : Nat) (drop : Bool) (hcan : s.Canon) : (s.maintLine st ln drop).Canon := by
  unfold State.maintLine
  repeat' first
    | with_reducible first
      | assumption | apply State.canon_ite | apply State.evictLine_canon | apply State.agentClean_canon | apply State.clWriteback_canon
      | apply State.clEvict_canon
    | split
theorem State.maint_canon (s : State) (st : StreamId) (op : Nat) (va : Nat) (l : List Elem) (hcan : s.Canon) :
    (s.maint st op va l).Canon := by
  unfold State.maint
  repeat' first
    | with_reducible first
      | assumption | intro _ | apply State.canon_ite | apply State.modCommon_canon | apply State.l1Keep_canon | apply State.wbDrain_canon
      | apply State.maintAll_canon | apply State.maintLine_canon | apply State.canon_foldl
    | dsimp only | split
theorem planCmaint_canon (o : SOp) (s : State) : (planCmaint o s).Keeps := by
  unfold planCmaint
  repeat' with_reducible first
    | assumption | intro _ | apply State.modStream_canon | apply State.row_canon | apply State.base_canon | apply State.scalar_canon
    | apply State.reach_canon | apply State.settle_canon | apply State.maint_canon | apply Plan.keeps_mk | apply Plan.Keeps.fin
    | apply Plan.Keeps.wait | apply Keeps.intro
theorem planEvadd_canon (o : SOp) (s : State) : (planEvadd o s).Keeps := by
  unfold planEvadd
  repeat' with_reducible first
    | assumption | intro _ | apply State.canon_ite | apply State.base_canon | apply State.scalar_canon | apply State.acquire_canon
    | apply State.release_canon | apply State.ctrAdd_canon | apply State.settle_canon | apply State.giveBack_canon
    | apply State.pushed_canon | apply Plan.keeps_mk | apply Plan.Keeps.fin | apply Plan.Keeps.addr | apply Keeps.intro
theorem planEvld_canon (o : SOp) (s : State) : (planEvld o s).Keeps := by
  unfold planEvld
  repeat' with_reducible first
    | assumption | intro _ | apply State.base_canon | apply State.scalar_canon | apply State.acquire_canon | apply State.settle_canon
    | apply State.giveBack_canon | apply Plan.keeps_mk | apply Plan.Keeps.fin | apply Plan.Keeps.wait | apply Plan.Keeps.addr
    | apply Keeps.intro
theorem State.lookQueue_canon (s : State) (q : Nat) (hcan : s.Canon) : (s.lookQueue q).Canon := by
  unfold State.lookQueue
  repeat' with_reducible first
    | assumption | apply State.canon_ite | apply State.looked_canon
theorem planEvarm_canon (o : SOp) (s : State) : (planEvarm o s).Keeps := by
  unfold planEvarm
  repeat' with_reducible first
    | assumption | intro _ | apply State.base_canon | apply State.scalar_canon | apply State.arm_canon | apply State.canon_ite
    | apply State.lookQueue_canon | apply Plan.keeps_mk | apply Plan.Keeps.fin | apply Plan.Keeps.wait | apply Plan.Keeps.addr | apply Keeps.intro
theorem planEvwait_canon (o : SOp) (s : State) : (planEvwait o s).Keeps := by
  unfold planEvwait
  repeat' with_reducible first
    | assumption | intro _ | apply State.modStream_canon | apply State.base_canon | apply State.scalar_canon | apply State.acquire_canon
    | apply State.settle_canon | apply Plan.keeps_mk | apply Plan.Keeps.fin | apply Plan.Keeps.addr | apply Keeps.intro

/-! ## Sync -/

theorem State.settleBar_canon (s : State) (k : BarKey) (live : List StreamId) (hcan : s.Canon) : (s.settleBar k live).Canon := by
  unfold State.settleBar
  repeat' first
    | dsimp only | (show Mem.wf _ = true; exact hcan)
theorem State.arriveAs_canon (s : State) (st : StreamId) (id n : Nat) (ph : Bool) (hcan : s.Canon) : (s.arriveAs st id n ph).Canon := by
  unfold State.arriveAs
  repeat' first
    | with_reducible apply State.modStream_canon | with_reducible apply State.settleBar_canon | (show Mem.wf _ = true; exact hcan)
theorem State.arriveWave_canon (s : State) (st : StreamId) (id : Nat) (hcan : s.Canon) : (s.arriveWave st id).Canon := by
  unfold State.arriveWave
  repeat' first
    | with_reducible first
      | assumption | apply State.canon_ite | apply State.setStream_canon | apply State.arriveAs_canon
    | dsimp only | split
theorem State.arrive_canon (s : State) (o : YOp) (ph : Bool) (hcan : s.Canon) : (s.arrive o ph).Canon := by
  unfold State.arrive
  repeat' with_reducible first
    | assumption | apply State.canon_ite | apply State.modStream_canon | apply State.release_canon | apply State.settle_canon
    | apply State.arriveAs_canon | apply State.arriveWave_canon
theorem State.lessThreads_canon (s : State) (st : StreamId) (hcan : s.Canon) : (s.lessThreads st).Canon := by
  unfold State.lessThreads
  repeat' with_reducible first
    | assumption | intro _ | apply State.canon_ite | apply State.settleBar_canon | apply State.arriveWave_canon | apply State.canon_foldl
theorem State.barFirst_canon (s : State) (o : YOp) (hcan : s.Canon) : (s.barFirst o).Canon := by
  unfold State.barFirst
  repeat' first
    | with_reducible first
      | assumption | apply State.canon_ite | apply State.modStream_canon | apply State.arrive_canon
    | split
theorem planBar_canon (o : YOp) (s : State) : (planBar o s).Keeps := by
  unfold planBar
  repeat' with_reducible first
    | assumption | intro _ | apply State.canon_ite | apply State.modStream_canon | apply State.base_canon | apply State.acquire_canon
    | apply State.settle_canon | apply State.barFirst_canon | apply Plan.keeps_mk | apply Plan.Keeps.fin | apply Plan.Keeps.addr
    | apply Keeps.intro
theorem planBarphArrive_canon (o : YOp) (s : State) : (planBarphArrive o s).Keeps := by
  unfold planBarphArrive
  repeat' with_reducible first
    | assumption | intro _ | apply State.base_canon | apply State.arrive_canon | apply Plan.keeps_mk | apply Plan.Keeps.fin
    | apply Plan.Keeps.wait | apply Plan.Keeps.addr | apply Keeps.intro
theorem planBarphWait_canon (o : YOp) (s : State) : (planBarphWait o s).Keeps := by
  unfold planBarphWait
  repeat' with_reducible first
    | assumption | intro _ | apply State.canon_ite | apply State.base_canon | apply State.acquire_canon | apply State.settle_canon
    | apply Plan.keeps_mk | apply Plan.Keeps.fin | apply Plan.Keeps.wait | apply Plan.Keeps.addr | apply Keeps.intro
theorem planFence_canon (o : YOp) (s : State) : (planFence o s).Keeps := by
  unfold planFence
  repeat' with_reducible first
    | assumption | intro _ | apply State.canon_ite | apply State.modStream_canon | apply State.base_canon | apply State.acquire_canon
    | apply State.settle_canon | apply State.pushed_canon | apply Plan.keeps_mk | apply Plan.Keeps.fin | apply Plan.Keeps.addr
    | apply Keeps.intro
theorem planTkwait_canon (o : YOp) (s : State) : (planTkwait o s).Keeps := by
  unfold planTkwait
  dsimp only
  generalize (s.stream s.iss.st).token o.id.toNat = r
  cases r with
  | pending => exact Plan.keeps_mk Keeps.id Keeps.id Keeps.id Reach.keeps_ok
  | error c v => exact Plan.keeps_mk Keeps.id Keeps.id Keeps.id Reach.keeps_ok
  | done sc => exact Plan.keeps_mk (fun _ h => State.acquire_canon _ _ _ (State.settle_canon _ _ h)) Keeps.id Keeps.id Reach.keeps_ok
  | idle => exact State.base_canon _ _
theorem planTktest_canon (o : YOp) (s : State) : (planTktest o s).Keeps := by
  unfold planTktest
  repeat' first
    | with_reducible first
      | assumption | intro _ | apply State.putP_canon | apply State.plan_canon | apply State.acquire_canon | apply State.settle_canon
      | apply Keeps.intro
    | split
theorem planFlagw_canon (o : YOp) (s : State) : (planFlagw o s).Keeps := by
  unfold planFlagw
  repeat' with_reducible first
    | assumption | intro _ | apply State.canon_ite | apply State.modTile_canon | apply State.base_canon | apply State.acquire_canon
    | apply State.settle_canon | apply Plan.keeps_mk | apply Plan.Keeps.fin | apply Plan.Keeps.wait | apply Plan.Keeps.addr
    | apply Keeps.intro
theorem planFlagset_canon (o : YOp) (s : State) : (planFlagset o s).Keeps := by
  unfold planFlagset
  repeat' with_reducible first
    | assumption | intro _ | apply State.canon_ite | apply State.modTile_canon | apply State.plan_canon | apply State.release_canon
    | apply State.settle_canon | apply Keeps.intro
theorem planUlien_canon (o : YOp) (s : State) : (planUlien o s).Keeps := by
  unfold planUlien
  repeat' with_reducible first
    | assumption | intro _ | apply State.modStream_canon | apply State.base_canon | apply Plan.keeps_mk | apply Plan.Keeps.fin
    | apply Plan.Keeps.wait | apply Plan.Keeps.addr | apply Keeps.intro
theorem State.lookEnd_canon (s : State) (st : StreamId) (hcan : s.Canon) : (s.lookEnd st).Canon := by
  unfold State.lookEnd
  repeat' first
    | with_reducible assumption | with_reducible apply State.row_canon | split
theorem planHalt_canon (o : SOp) (s : State) : (planHalt o s).Keeps := by
  unfold planHalt
  repeat' with_reducible first
    | assumption | intro _ | apply State.canon_ite | apply State.modStream_canon | apply State.base_canon | apply State.scalar_canon
    | apply State.lessThreads_canon | apply State.lookEnd_canon | apply Plan.keeps_mk | apply Plan.Keeps.eff | apply Plan.Keeps.wait
    | apply Plan.Keeps.addr | apply Keeps.intro

/-! ## Matrix -/

theorem State.readMem_canon (s : State) (st : StreamId) (pages : List Elem) (va n : Nat) (hcan : s.Canon) :
    SndCanon (s.readMem st pages va n) := by
  unfold State.readMem
  repeat' first
    | with_reducible first
      | assumption | intro _ | apply State.classed_canon | refine SndCanon.snd (State.readLine_canon _ _ _ _ _ ?_) | apply SndCanon.foldl
      | exact SndCanon.snd (by with_reducible assumption) | apply State.note_canon
    | dsimp only | split | with_reducible apply SndCanon.mk
theorem State.readRegion_canon (s : State) (r : MatRegion) (hcan : s.Canon) : SndCanon (s.readRegion r) := by
  unfold State.readRegion
  repeat' first
    | with_reducible first
      | assumption | intro _ | apply SndCanon.ite | apply State.poisonCheck_canon | refine SndCanon.snd (State.readMem_canon _ _ _ _ _ ?_)
      | refine SndCanon.snd (SndCanon.foldl ?_ ?_) | exact SndCanon.snd (by with_reducible assumption)
    | dsimp only | with_reducible apply SndCanon.mk
theorem State.endArray_canon (s : State) (c : Nat) (hcan : s.Canon) : (s.endArray c).Canon := by
  unfold State.endArray
  repeat' first
    | with_reducible first
      | assumption | apply State.canon_ite | apply State.modStream_canon | apply State.modTile_canon | apply State.picked_canon
    | dsimp only | split
theorem State.commitDrain_canon (s : State) (d : Drain) (hcan : s.Canon) : (s.commitDrain d).Canon := by
  unfold State.commitDrain
  repeat' first
    | with_reducible first
      | assumption | intro _ | apply State.canon_ite | apply State.clearReservations_canon | apply State.wbDrain_canon
      | apply State.writeElem_canon | apply State.putSpace_canon | apply State.canon_foldl
    | split
theorem State.planProducts_canon (s : State) (i : Instr) (o : MOp) (sparse : Bool) : (s.planProducts i o sparse).Keeps := by
  unfold State.planProducts
  repeat' first
    | with_reducible first
      | assumption | intro _ | apply Reach.keeps_raise | apply State.modTile_canon | apply State.base_canon | apply State.reach_canon
      | refine SndCanon.snd (State.readRegion_canon _ _ ?_) | apply Plan.keeps_mk | apply Plan.Keeps.fin | apply Plan.Keeps.wait
      | apply Keeps.intro
    | dsimp only | split
theorem planMma_canon (o : MOp) (s : State) : (planMma o s).Keeps := by
  unfold planMma
  repeat' with_reducible apply State.planProducts_canon
theorem planMmas_canon (o : MOp) (s : State) : (planMmas o s).Keeps := by
  unfold planMmas
  repeat' with_reducible apply State.planProducts_canon
theorem planMzero_canon (o : MOp) (s : State) : (planMzero o s).Keeps := by
  unfold planMzero
  repeat' first
    | with_reducible first
      | assumption | intro _ | exact Reach.keeps_ok | apply Reach.keeps_raise | apply State.modTile_canon | apply State.base_canon
      | apply Plan.keeps_mk | apply Plan.Keeps.fin | apply Plan.Keeps.wait | apply Keeps.intro
    | split
theorem State.startDrain_canon (s : State) (a : Occupancy) (space size : Nat) (writes : List (Nat × Nat)) (pages : List Elem)
    (hcan : s.Canon) : (s.startDrain a space size writes pages).Canon := by
  unfold State.startDrain
  repeat' with_reducible first
    | assumption | apply State.modTile_canon
theorem planMdrain_canon (o : MOp) (s : State) : (planMdrain o s).Keeps := by
  unfold planMdrain
  repeat' first
    | with_reducible first
      | assumption | intro _ | apply Reach.keeps_raise | apply State.canon_ite | apply State.putFlags_canon | apply State.stepSr_canon
      | apply State.base_canon | apply State.reach_canon | apply State.settle_canon | refine SndCanon.snd (State.readRegion_canon _ _ ?_)
      | apply State.startDrain_canon | apply Plan.keeps_mk | apply Plan.Keeps.fin | apply Plan.Keeps.wait | apply Keeps.intro
    | split
theorem State.planLacc_canon (s : State) (i : Instr) (load : Bool) (eff : Nat → Nat → State → State)
    (h : ∀ a b, Keeps (eff a b)) : (s.planLacc i load eff).Keeps := by
  unfold State.planLacc
  refine Plan.keeps_mk (h _ _) Keeps.id Keeps.id ?_
  split
  · exact Reach.keeps_raise _
  · exact Reach.keeps_ok
theorem planMlaccSave_canon (o : MOp) (s : State) : (planMlaccSave o s).Keeps := by
  unfold planMlaccSave
  repeat' with_reducible first
    | assumption | intro _ | apply State.startDrain_canon | apply State.planLacc_canon | apply Keeps.intro
theorem planMlaccLoad_canon (o : MOp) (s : State) : (planMlaccLoad o s).Keeps := by
  unfold planMlaccLoad
  repeat' with_reducible first
    | assumption | intro _ | apply State.startDrain_canon | apply State.planLacc_canon | apply Keeps.intro
theorem planWvmac_canon (o : MOp) (s : State) : (planWvmac o s).Keeps := by
  unfold planWvmac
  repeat' with_reducible first
    | assumption | intro _ | apply State.canon_ite | apply State.putV_canon | apply State.stepSr_canon | apply State.base_canon
    | apply State.canon_foldl | apply Plan.keeps_mk | apply Plan.Keeps.fin | apply Plan.Keeps.wait | apply Plan.Keeps.addr
    | apply Keeps.intro

end Sys2Proof.Machine
end

