-- ==== Sys2Proof/Laws/CanonEngines.lean ====
section
/-! SUPPORT. The canonical form of memory is kept by the engines, sashes, tiers and caches at work. -/

namespace Sys2Proof.Machine

/-! ## Engine -/

theorem State.enqueue_canon (s : State) (i : Instr) (o : COp) (staging : List Word) (rel : Bool) (regs : List VWord) (info : List Nat)
    (hcan : s.Canon) : (s.enqueue i o staging rel regs info).Canon := by
  unfold State.enqueue
  repeat' with_reducible first
    | assumption | apply State.modStream_canon | apply State.row_canon
theorem State.planC_canon (s : State) (i : Instr) (o : COp) (eng : Nat) (rel : Bool) (fits : List Word → Bool) (regs : List VWord)
    (info : List Nat) : (s.planC i o eng rel fits regs info).Keeps := by
  unfold State.planC
  repeat' with_reducible first
    | assumption | intro _ | apply State.base_canon | apply State.enqueue_canon | apply Plan.keeps_mk | apply Plan.Keeps.fin
    | apply Plan.Keeps.wait | apply Plan.Keeps.addr | apply Keeps.intro
theorem State.endCommand_canon (s : State) (st : StreamId) (q : Nat) (t : Token) (hcan : s.Canon) : (s.endCommand st q t).Canon := by
  unfold State.endCommand
  repeat' first
    | with_reducible first
      | assumption | apply State.canon_ite | apply State.modStream_canon | apply State.row_canon | apply State.lookEnd_canon
    | dsimp only | split
theorem State.modCommand_canon (s : State) (st : StreamId) (q : Nat) (f : Command → Command) (hcan : s.Canon) :
    (s.modCommand st q f).Canon := by
  unfold State.modCommand
  repeat' with_reducible first
    | assumption | apply State.modStream_canon
theorem State.engineFault_canon (s : State) (st : StreamId) (q : Nat) (code : BitVec 8) (va access : Nat) (hcan : s.Canon) :
    (s.engineFault st q code va access).Canon := by
  unfold State.engineFault
  repeat' with_reducible first
    | assumption | intro _ | apply State.modStream_canon | apply State.modMem_canon | apply State.row_canon | apply State.forget_canon
theorem State.require_canon (s : State) (h : Option Halt) (hcan : s.Canon) : SndCanon (s.require h) := by
  unfold State.require
  repeat' first
    | with_reducible assumption | split | with_reducible apply SndCanon.mk
theorem State.enginePage_canon (s : State) (st : StreamId) (c : Command) (em : Nat) (wr : Bool) (va : Nat) (hcan : s.Canon) :
    SndCanon (s.enginePage st c em wr va) := by
  unfold State.enginePage
  repeat' first
    | with_reducible first
      | assumption | apply SndCanon.ite | apply State.joinWalk_canon | apply State.xlate_canon
      | refine SndCanon.of_eq (by with_reducible assumption) ?_
    | split | with_reducible apply SndCanon.mk
theorem State.enginePages_canon (s : State) (st : StreamId) (c : Command) (em : Nat) (wr : Bool) (x0 : List (Nat × Nat))
    (hcan : s.Canon) : SndCanon (s.enginePages st c em wr x0) := by
  induction x0 generalizing s with
  | nil => exact hcan
  | cons a l ih =>
    unfold State.enginePages
    repeat' with_reducible first
      | assumption | intro _ | apply Eng.andThen_canon | apply State.enginePage_canon | apply ih | apply SndCanon.mk
theorem State.reachEnd_canon (s : State) (st : StreamId) (c : Command) (em : Nat) (e : Endpoint) (wr : Bool) (hcan : s.Canon) :
    SndCanon (s.reachEnd st c em e wr) := by
  unfold State.reachEnd
  repeat' first
    | with_reducible first
      | assumption | apply SndCanon.ite | apply State.enginePages_canon
    | split | with_reducible apply SndCanon.mk
theorem State.engineLine_canon (s : State) (st : StreamId) (cls : Nat) (x : Xl) (hcan : s.Canon) : SndCanon (s.engineLine st cls x) := by
  unfold State.engineLine
  repeat' first
    | with_reducible first
      | assumption | apply SndCanon.ite | apply State.note_canon | apply State.agentRead_canon | apply State.toHome_canon
      | apply State.clWriteback_canon | apply State.wbDrain_canon | apply State.classed_canon
    | dsimp only | split | with_reducible apply SndCanon.mk
theorem State.enginePut_canon (s : State) (st : StreamId) (cls : Nat) (x : Xl) (mask : PWord) (v : VWord) (hcan : s.Canon) :
    (s.enginePut st cls x mask v).Canon := by
  unfold State.enginePut
  repeat' with_reducible first
    | assumption | apply State.canon_ite | apply State.note_canon | apply State.putHome_canon | apply State.killAt_canon
    | apply State.agentWrite_canon | apply State.agentClean_canon | apply State.toHome_canon | apply State.classed_canon
theorem State.engineRead_canon (s : State) (st : StreamId) (c : Command) (space : Nat) (pages : List Elem) (va n : Nat)
    (hcan : s.Canon) : SndCanon (s.engineRead st c space pages va n) := by
  unfold State.engineRead
  repeat' first
    | with_reducible first
      | assumption | intro _ | apply SndCanon.ite | apply Eng.andThen_canon | refine SndCanon.snd (State.engineLine_canon _ _ _ _ ?_)
      | apply SndCanon.foldl
    | dsimp only | split | with_reducible apply SndCanon.mk
theorem State.engineRows_canon (s : State) (st : StreamId) (c : Command) (pages : List Elem) (e : Endpoint) (hcan : s.Canon) :
    SndCanon (s.engineRows st c pages e) := by
  unfold State.engineRows
  repeat' with_reducible first
    | assumption | intro _ | apply Eng.andThen_canon | apply State.engineRead_canon | apply SndCanon.foldl | apply SndCanon.mk
theorem State.putLaid_canon (s : State) (st : StreamId) (c : Command) (space : Nat) (pages : List Elem) (t : Table Nat Byte)
    (hcan : s.Canon) : (s.putLaid st c space pages t).Canon := by
  unfold State.putLaid
  repeat' first
    | with_reducible first
      | assumption | intro _ | apply State.canon_ite | apply State.putSpace_canon | apply State.enginePut_canon | apply State.canon_foldl
    | dsimp only | split
theorem State.engineWrite_canon (s : State) (st : StreamId) (c : Command) (space : Nat) (pages : List Elem) (rows : List
    (Nat × List Byte)) (hcan : s.Canon) : (s.engineWrite st c space pages rows).Canon := State.putLaid_canon s st c space pages _ hcan
theorem State.engineShow_canon (s : State) (st : StreamId) (c : Command) (space : Nat) (pages : List Elem) (rows : List
    (Nat × List Byte)) (hcan : s.Canon) : (s.engineShow st c space pages rows).Canon := State.putLaid_canon s st c space pages _ hcan
theorem State.writeRows_canon (s : State) (st : StreamId) (c : Command) (to_ : List StreamId) (scope space : Nat) (pages : List Elem)
    (rows : List (Nat × List Byte)) (hcan : s.Canon) : SndCanon (s.writeRows st c to_ scope space pages rows) := by
  unfold State.writeRows
  repeat' with_reducible first
    | assumption | intro _ | apply SndCanon.ite | apply SndCanon.mk | apply State.modCommand_canon | apply State.engineWrite_canon
    | apply State.engineShow_canon | apply State.canon_foldl
theorem State.reachStatus_canon (s : State) (st : StreamId) (c : Command) (em va : Nat) (hcan : s.Canon) :
    SndCanon (s.reachStatus st c em va) := by
  unfold State.reachStatus
  repeat' with_reducible first
    | assumption | intro _ | apply SndCanon.ite | apply Eng.andThen_canon | apply State.enginePage_canon | apply SndCanon.mk
theorem State.putStatus_canon (s : State) (st : StreamId) (c : Command) (x : Option Xl) (v : Nat) (hcan : s.Canon) :
    (s.putStatus st c x v).Canon := by
  unfold State.putStatus
  repeat' first
    | with_reducible assumption | with_reducible apply State.enginePut_canon | dsimp only | split
theorem State.engineNum_canon (s : State) (st : StreamId) (c : Command) (em va n : Nat) (hcan : s.Canon) :
    SndCanon (s.engineNum st c em va n) := by
  unfold State.engineNum
  repeat' with_reducible first
    | assumption | intro _ | apply Eng.andThen_canon | apply State.enginePages_canon | apply State.engineRead_canon | apply SndCanon.mk

/-! ## Ray -/

theorem State.readUnit_canon (s : State) (st : StreamId) (c : Command) (va : Nat) (hcan : s.Canon) : SndCanon (s.readUnit st c va) := by
  unfold State.readUnit
  repeat' with_reducible first
    | assumption | intro _ | apply Eng.andThen_canon | apply State.enginePages_canon | apply State.engineRead_canon
theorem State.rayWalk_canon (s : State) (st : StreamId) (c : Command) (r : Ray) (first : Bool) (n ref : Nat) (best : Option RayHit)
    (hcan : s.Canon) : SndCanon (s.rayWalk st c r first n ref best) := by
  induction n generalizing s ref best with
  | zero => exact hcan
  | succ n ih =>
    unfold State.rayWalk
    refine SndCanon.ite hcan (SndCanon.ite ?_ (SndCanon.ite hcan ?_))
    · exact Eng.andThen_canon (State.readUnit_canon _ _ _ _ hcan) fun _ _ h => h
    · refine Eng.andThen_canon (State.readUnit_canon _ _ _ _ hcan) fun _ _ h => ?_
      refine Eng.andThen_canon (SndCanon.ite (ih _ _ _ h) h) fun _ _ h => ?_
      exact SndCanon.ite (ih _ _ _ h) h
theorem State.rays_canon (s : State) (st : StreamId) (c : Command) (x0 : List Nat) (hcan : s.Canon) : SndCanon (s.rays st c x0) := by
  induction x0 generalizing s with
  | nil => exact hcan
  | cons a l ih =>
    unfold State.rays
    repeat' first
      | with_reducible first
        | assumption | intro _ | apply Eng.andThen_canon | apply State.rayWalk_canon | apply ih
      | split | with_reducible apply SndCanon.mk
theorem State.putHits_canon (s : State) (st : StreamId) (vh : Nat) (hits : List (Nat × Option RayHit)) (hcan : s.Canon) :
    (s.putHits st vh hits).Canon := by
  unfold State.putHits
  repeat' with_reducible first
    | assumption | apply State.modStream_canon

/-! ## Tier -/

theorem State.putOt_canon (s : State) (i k v : Nat) (hcan : s.Canon) : (s.putOt i k v).Canon := by
  unfold State.putOt
  repeat' with_reducible first
    | assumption | apply State.putPhys_canon
theorem State.setObject_canon (s : State) (i st home mod_ dev : Nat) (hcan : s.Canon) : (s.setObject i st home mod_ dev).Canon := by
  unfold State.setObject
  repeat' with_reducible first
    | assumption | intro _ | apply State.putPhys_canon | apply State.putOt_canon | apply State.canon_foldl
theorem State.countPin_canon (s : State) (asid : BitVec 16) (va : Nat) (up : Bool) (hcan : s.Canon) : (s.countPin asid va up).Canon := by
  unfold State.countPin
  repeat' first
    | with_reducible assumption | with_reducible apply State.putOt_canon | dsimp only | split
theorem State.fetchAt_canon (s : State) (level : Nat) (die : Bool) (ln : Nat) (hcan : s.Canon) : (s.fetchAt level die ln).Canon := by
  unfold State.fetchAt
  repeat' with_reducible first
    | assumption | apply State.canon_ite | apply State.homeUse_canon | apply State.agentRead_canon
theorem State.fetchLevel_canon (s : State) (st : StreamId) (level ln : Nat) (hcan : s.Canon) : (s.fetchLevel st level ln).Canon := by
  unfold State.fetchLevel
  repeat' with_reducible first
    | assumption | apply State.fetchAt_canon
theorem State.l3Trim_canon (s : State) (d c : Nat) (hcan : s.Canon) : (s.l3Trim d c).Canon := by
  unfold State.l3Trim
  repeat' with_reducible first
    | assumption | intro _ | apply State.canon_ite | apply State.modMem_canon
theorem State.pfbLine_canon (s : State) (st : StreamId) (c : Command) (level : Nat) (pin : Bool) (va : Nat) (x : Xl) (hcan : s.Canon) :
    SndCanon (s.pfbLine st c level pin va x) := by
  unfold State.pfbLine
  repeat' first
    | with_reducible first
      | assumption | intro _ | apply SndCanon.ite | apply State.modMem_canon | apply State.classed_canon | apply State.countPin_canon
      | apply State.fetchLevel_canon | apply State.l3Trim_canon
    | dsimp only | with_reducible apply SndCanon.mk
theorem State.dropLine_canon (s : State) (st : StreamId) (asid : BitVec 16) (level va : Nat) (x : Xl) (hcan : s.Canon) :
    (s.dropLine st asid level va x).Canon := by
  unfold State.dropLine
  repeat' with_reducible first
    | assumption | intro _ | apply State.canon_ite | apply State.modMem_canon | apply State.countPin_canon
theorem State.setPool_canon (s : State) (p n : Nat) (hcan : s.Canon) : (s.setPool p n).Canon := by
  unfold State.setPool
  repeat' with_reducible first
    | assumption | apply State.setCtl_canon
theorem State.takeFrames_canon (s : State) (p n : Nat) (hcan : s.Canon) : SndCanon (s.takeFrames p n) := by
  unfold State.takeFrames
  repeat' first
    | with_reducible assumption | with_reducible apply State.setPool_canon | with_reducible apply State.looked_canon | dsimp only
    | with_reducible apply SndCanon.mk
theorem State.returnFrame_canon (s : State) (pa : Nat) (hcan : s.Canon) : (s.returnFrame pa).Canon := by
  unfold State.returnFrame
  repeat' first
    | with_reducible first
      | assumption | apply State.canon_ite | apply State.note_canon | apply State.putPhys_canon | apply State.setPool_canon
    | dsimp only | split
theorem State.framesAt_canon (s : State) (die place mod_ dev n : Nat) (hcan : s.Canon) : SndCanon (s.framesAt die place mod_ dev n) := by
  unfold State.framesAt
  repeat' first
    | with_reducible first
      | assumption | apply SndCanon.ite | apply State.picked_canon | refine SndCanon.snd (State.takeFrames_canon _ _ _ ?_)
    | dsimp only | split | with_reducible apply SndCanon.mk
theorem State.tierAnswer_canon (s : State) (r : TierReq) (status : Nat) (hcan : s.Canon) : (s.tierAnswer r status).Canon := by
  unfold State.tierAnswer
  repeat' first
    | with_reducible first
      | assumption | intro _ | apply State.modMem_canon | apply State.modCommand_canon
    | dsimp only | split
theorem State.askFrames_canon (s : State) (r : TierReq) (place mod_ dev : Nat) (go : State → List Nat → State)
    (hgo : ∀ s l, s.Canon → (go s l).Canon) (hcan : s.Canon) : (s.askFrames r place mod_ dev go).Canon := by
  unfold State.askFrames
  have h := State.framesAt_canon s r.st.die place mod_ dev (s.objPages r.obj) hcan
  repeat' first
    | with_reducible first
      | assumption | apply State.tierAnswer_canon | apply hgo
    | split
    | (have e := ‹State.framesAt _ _ _ _ _ _ = _›; rw [e] at h; exact h)
theorem State.serveOne_canon (s : State) (r : TierReq) (hcan : s.Canon) : (s.serveOne r).Canon := by
  unfold State.serveOne
  repeat' first
    | with_reducible first
      | assumption | intro _ | apply State.canon_ite | apply State.modMem_canon | apply State.picked_canon | apply State.setObject_canon
      | apply State.tierAnswer_canon | apply State.askFrames_canon
    | dsimp only | split
theorem State.serveTier_canon (s : State) (obj : Nat) (x0 : Nat) (hcan : s.Canon) : (s.serveTier obj x0).Canon := by
  induction x0 generalizing s with
  | zero => exact hcan
  | succ n ih =>
    unfold State.serveTier
    repeat' first
      | with_reducible first
        | assumption | apply State.canon_ite | apply State.serveOne_canon | apply ih
      | split
theorem State.gather_canon (s : State) (base : Nat) (hcan : s.Canon) : (s.gather base).Canon := by
  unfold State.gather
  repeat' with_reducible first
    | assumption | intro _ | apply State.toHome_canon | apply State.clEvict_canon | apply State.wbDrain_canon | apply State.canon_foldl
/-- Cells moved to another place are in form. -/
theorem Mem.above_move {m : List Host.Cell} {lo src dst : Nat} (h : Mem.above lo m = true) (hs : ∀ c ∈ m, src ≤ c.1)
    (hlo : src ≤ lo) :
    Mem.above (lo - src + dst) (m.map fun c => (c.1 - src + dst, c.2)) = true := by
  induction m generalizing lo with
  | nil => rfl
  | cons e t ih =>
    obtain ⟨a, b⟩ := e
    simp only [Mem.above, Bool.and_eq_true, decide_eq_true_eq] at h
    have ha : src ≤ a := hs (a, b) (by simp)
    have := ih h.2 (fun c hc => hs c (by simp [hc])) (by omega)
    have e : a + 1 - src + dst = a - src + dst + 1 := by omega
    rw [e] at this
    simp only [List.map_cons, Mem.above, Bool.and_eq_true, decide_eq_true_eq]
    exact ⟨⟨by omega, h.1.2⟩, this⟩
theorem State.copyFrame_canon (s : State) (src dst : Nat) (h : s.Canon) : (s.copyFrame src dst).Canon := by
  unfold State.copyFrame
  refine State.modMem_canon (State.homeUses_canon _ _ _ (State.homeUses_canon _ _ _ (State.gather_canon _ _ (State.gather_canon _ _ h))))
    fun m hm => ?_
  dsimp only
  have h1 : Mem.above src (m.mem.filter fun c => decide (src ≤ c.1 ∧ c.1 < src + 2 ^ 21)) = true := by
    have := Mem.above_filter (fun c => decide (c.1 < src + 2 ^ 21)) (Mem.above_filter_le (a := src) hm)
    rw [List.filter_filter] at this
    refine Eq.trans (congrArg _ (List.filter_congr fun c _ => ?_)) this
    by_cases x : src ≤ c.1 <;> by_cases y : c.1 < src + 2 ^ 21 <;> simp [x, y]
  have h2 := Mem.above_move (dst := dst) h1 (by intro c hc; simp at hc; exact hc.2.1) (Nat.le_refl _)
  rw [Nat.sub_self, Nat.zero_add] at h2
  have h3 : Mem.above (dst + 2 ^ 21) (m.mem.filter fun c => decide (dst + 2 ^ 21 ≤ c.1)) = true := Mem.above_filter_le hm
  have h4 := Mem.above_append h2 (by intro c hc; simp at hc; obtain ⟨a, b, x, rfl⟩ := hc; simp; omega) (by omega) h3
  have h5 := Mem.above_append (Mem.above_filter (fun c => decide (c.1 < dst)) hm) (a := dst) (by simp) (Nat.zero_le _) h4
  rw [List.append_assoc]
  exact h5
theorem State.redirect_canon (s : State) (src dst : Nat) (hcan : s.Canon) : (s.redirect src dst).Canon := by
  unfold State.redirect
  repeat' first
    | dsimp only | (show Mem.wf _ = true; exact hcan)
theorem State.movePage_canon (s : State) (r : TierReq) (j dst : Nat) (copy : Bool) (hcan : s.Canon) :
    (s.movePage r j dst copy).Canon := by
  unfold State.movePage
  repeat' first
    | with_reducible first
      | assumption | intro _ | apply State.canon_ite | apply State.modMem_canon | apply State.toHome_canon | apply State.shoot_canon
      | apply State.fetchAt_canon | apply State.gather_canon | apply State.copyFrame_canon | apply State.redirect_canon
      | apply State.killAt_canon | apply State.walked_canon | apply State.canon_foldl
    | dsimp only | split | with_reducible apply Mem.wf_putNum
theorem State.moveDone_canon (s : State) (r : TierReq) (hcan : s.Canon) : (s.moveDone r).Canon := by
  unfold State.moveDone
  repeat' first
    | with_reducible first
      | assumption | intro _ | apply State.canon_ite | apply State.setObject_canon | apply State.returnFrame_canon
      | apply State.tierAnswer_canon | apply State.serveTier_canon | apply State.movePage_canon | apply State.canon_foldl
    | dsimp only | split
theorem State.lookObjects_canon (s : State) (hcan : s.Canon) : s.lookObjects.Canon := by
  unfold State.lookObjects
  repeat' first
    | with_reducible first
      | assumption | apply State.canon_ite | apply State.looked_canon
    | dsimp only
theorem State.lookExperts_canon (s : State) (hcan : s.Canon) : s.lookExperts.Canon := by
  unfold State.lookExperts
  repeat' first
    | with_reducible first
      | assumption | apply State.canon_ite | apply State.looked_canon
    | dsimp only
theorem State.useExpert_canon (s : State) (asid : BitVec 16) (id n : Nat) (hcan : s.Canon) : (s.useExpert asid id n).Canon := by
  unfold State.useExpert
  repeat' first
    | with_reducible first
      | assumption | apply State.canon_ite | apply State.putPhys_canon
    | dsimp only | split

/-! ## Engines -/

theorem planCopy_canon (o : COp) (s : State) : (planCopy o s).Keeps := by
  unfold planCopy
  repeat' with_reducible apply State.planC_canon
theorem planQbcast_canon (o : COp) (s : State) : (planQbcast o s).Keeps := by
  unfold planQbcast
  repeat' with_reducible apply State.planC_canon
theorem State.enterQueue_canon (s : State) (st : StreamId) (k : BitVec 3) (l : List VWord) (hcan : s.Canon) :
    (s.enterQueue st k l).Canon := by
  unfold State.enterQueue
  repeat' first
    | with_reducible first
      | assumption | apply State.modTile_canon | apply State.modSched_canon | apply State.putPhys_canon | apply State.putPhysBytes_canon
    | dsimp only | split
theorem State.streamIn_canon (s : State) (st : StreamId) (q n : Nat) (c : Command) (entries : List VWord) (hcan : s.Canon) :
    SndCanon (s.streamIn st q n c entries) := by
  unfold State.streamIn
  repeat' with_reducible first
    | assumption | apply SndCanon.ite | apply State.modCommand_canon | apply State.enterQueue_canon | apply SndCanon.mk
theorem State.copyWork_canon (s : State) (st : StreamId) (q : Nat) (c : Command) (o : COp) (hcan : s.Canon) :
    SndCanon (s.copyWork st q c o) := by
  unfold State.copyWork
  repeat' first
    | with_reducible first
      | assumption | intro _ | apply SndCanon.ite | apply Eng.andThen_canon | apply State.require_canon | apply State.reachEnd_canon
      | apply State.engineRows_canon | apply State.writeRows_canon | apply State.streamIn_canon
    | split | with_reducible apply SndCanon.mk
theorem State.castWork_canon (s : State) (st : StreamId) (c : Command) (o : COp) (hcan : s.Canon) : SndCanon (s.castWork st c o) := by
  unfold State.castWork
  repeat' with_reducible first
    | assumption | intro _ | apply SndCanon.ite | apply Eng.andThen_canon | apply State.require_canon | apply State.reachEnd_canon
    | apply State.engineRows_canon | apply State.writeRows_canon | apply SndCanon.mk
theorem planGath_canon (o : COp) (s : State) : (planGath o s).Keeps := by
  unfold planGath
  repeat' with_reducible apply State.planC_canon
theorem planScat_canon (o : COp) (s : State) : (planScat o s).Keeps := by
  unfold planScat
  repeat' with_reducible apply State.planC_canon
theorem State.gatherWork_canon (s : State) (st : StreamId) (c : Command) (o : COp) (scatter : Bool) (hcan : s.Canon) :
    SndCanon (s.gatherWork st c o scatter) := by
  unfold State.gatherWork
  repeat' first
    | with_reducible first
      | assumption | intro _ | apply SndCanon.ite | apply Eng.andThen_canon | apply State.require_canon | apply State.enginePages_canon
      | apply State.reachEnd_canon | apply State.engineRead_canon | apply State.engineRows_canon | apply State.writeRows_canon
    | dsimp only | split | with_reducible apply SndCanon.mk
theorem planPfb_canon (o : COp) (s : State) : (planPfb o s).Keeps := by
  unfold planPfb
  repeat' with_reducible apply State.planC_canon
theorem planDrop_canon (o : COp) (s : State) : (planDrop o s).Keeps := by
  unfold planDrop
  repeat' with_reducible apply State.planC_canon
theorem planTmoveMove_canon (o : COp) (s : State) : (planTmoveMove o s).Keeps := by
  unfold planTmoveMove
  repeat' with_reducible apply State.planC_canon
theorem planTmoveEvict_canon (o : COp) (s : State) : (planTmoveEvict o s).Keeps := by
  unfold planTmoveEvict
  repeat' with_reducible apply State.planC_canon
theorem State.tierReach_canon (s : State) (st : StreamId) (c : Command) (hcan : s.Canon) : SndCanon (s.tierReach st c) := by
  unfold State.tierReach
  repeat' with_reducible first
    | assumption | intro _ | apply Eng.andThen_canon | apply State.enginePages_canon | apply State.reachStatus_canon
    | apply State.lookObjects_canon | apply SndCanon.mk
theorem State.pfbWork_canon (s : State) (st : StreamId) (c : Command) (o : COp) (hcan : s.Canon) : SndCanon (s.pfbWork st c o) := by
  unfold State.pfbWork
  repeat' first
    | with_reducible first
      | assumption | intro _ | apply Eng.andThen_canon | apply State.putStatus_canon
      | refine SndCanon.snd (State.pfbLine_canon _ _ _ _ _ _ _ ?_) | apply State.tierReach_canon
      | refine SndCanon.snd (SndCanon.foldl ?_ ?_) | exact SndCanon.snd (by with_reducible assumption)
    | dsimp only | split | with_reducible apply SndCanon.mk
theorem State.dropWork_canon (s : State) (st : StreamId) (c : Command) (o : COp) (hcan : s.Canon) : SndCanon (s.dropWork st c o) := by
  unfold State.dropWork
  repeat' first
    | with_reducible first
      | assumption | intro _ | apply Eng.andThen_canon | apply State.putStatus_canon | apply State.dropLine_canon
      | apply State.tierReach_canon | apply State.canon_foldl
    | dsimp only | with_reducible apply SndCanon.mk
theorem State.tmoveWork_canon (s : State) (st : StreamId) (q : Nat) (c : Command) (evict : Bool) (hcan : s.Canon) :
    SndCanon (s.tmoveWork st q c evict) := by
  unfold State.tmoveWork
  repeat' first
    | with_reducible first
      | assumption | intro _ | apply SndCanon.ite | apply State.modMem_canon | apply State.modCommand_canon | apply Eng.andThen_canon
      | apply State.putStatus_canon | apply State.serveTier_canon | apply State.tierReach_canon | apply State.canon_foldl
    | dsimp only | split | with_reducible apply SndCanon.mk
theorem planColl_canon (o : COp) (s : State) : (planColl o s).Keeps := by
  unfold planColl
  repeat' with_reducible apply State.planC_canon
theorem State.collWork_canon (s : State) (st : StreamId) (q : Nat) (c : Command) (o : COp) (hcan : s.Canon) :
    SndCanon (s.collWork st q c o) := by
  unfold State.collWork
  repeat' first
    | with_reducible first
      | assumption | intro _ | apply SndCanon.ite | apply State.post_canon | apply State.modCommand_canon | apply Eng.andThen_canon
      | apply State.require_canon | apply State.enginePages_canon | apply State.engineRead_canon | apply State.engineWrite_canon
    | dsimp only | split | with_reducible apply SndCanon.mk
theorem planXsort_canon (o : COp) (s : State) : (planXsort o s).Keeps := by
  unfold planXsort
  repeat' with_reducible apply State.planC_canon
theorem State.sortWork_canon (s : State) (st : StreamId) (c : Command) (o : COp) (hcan : s.Canon) : SndCanon (s.sortWork st c o) := by
  unfold State.sortWork
  repeat' first
    | with_reducible first
      | assumption | intro _ | apply State.canon_ite | apply Eng.andThen_canon | apply State.require_canon | apply State.enginePages_canon
      | apply State.engineRead_canon | apply State.engineWrite_canon | apply State.useExpert_canon | apply State.lookExperts_canon
      | apply State.canon_foldl
    | dsimp only | split | with_reducible apply SndCanon.mk
theorem planTqpush_canon (o : COp) (s : State) : (planTqpush o s).Keeps := by
  unfold planTqpush
  repeat' with_reducible apply State.planC_canon
theorem planRlaunch_canon (o : COp) (s : State) : (planRlaunch o s).Keeps := by
  unfold planRlaunch
  repeat' with_reducible apply State.planC_canon
theorem State.appendRecord_canon (s : State) (q : Nat) (b : List Byte) (hcan : s.Canon) : (s.appendRecord q b).Canon := by
  unfold State.appendRecord
  repeat' with_reducible first
    | assumption | apply State.row_canon | apply State.putPhys_canon | apply State.putPhysBytes_canon
theorem State.reachRecord_canon (s : State) (st : StreamId) (c : Command) (hcan : s.Canon) : SndCanon (s.reachRecord st c) := by
  unfold State.reachRecord
  repeat' with_reducible first
    | assumption | intro _ | apply Eng.andThen_canon | apply State.require_canon | apply State.enginePages_canon
    | apply State.engineRead_canon
theorem State.pushWork_canon (s : State) (st : StreamId) (c : Command) (hcan : s.Canon) : SndCanon (s.pushWork st c) := by
  unfold State.pushWork
  repeat' with_reducible first
    | assumption | intro _ | apply SndCanon.ite | apply Eng.andThen_canon | apply State.appendRecord_canon | apply State.reachRecord_canon
    | apply State.lookQueue_canon | apply SndCanon.mk
theorem State.launchAnswer_canon (s : State) (st : StreamId) (c : Command) (x : Option Xl) (p : Nat) (hcan : s.Canon) :
    SndCanon (s.launchAnswer st c x p) := by
  unfold State.launchAnswer
  repeat' first
    | with_reducible first
      | assumption | apply SndCanon.ite | apply State.modSched_canon
    | dsimp only | with_reducible apply SndCanon.mk
theorem State.launchWork_canon (s : State) (st : StreamId) (q : Nat) (c : Command) (hcan : s.Canon) : SndCanon (s.launchWork st q c) := by
  unfold State.launchWork
  repeat' first
    | with_reducible first
      | assumption | intro _ | apply SndCanon.ite | apply State.modLink_canon | apply State.modCommand_canon | apply Eng.andThen_canon
      | apply State.enginePages_canon | apply State.engineRead_canon | apply State.reachStatus_canon | apply State.reachRecord_canon
      | apply State.launchAnswer_canon
    | dsimp only | split | with_reducible apply SndCanon.mk
theorem State.seqXlate_canon (s : State) (asid : BitVec 16) (va : Nat) (a : Ask) (hcan : s.Canon) : SndCanon (s.seqXlate asid va a) := by
  unfold State.seqXlate
  repeat' first
    | with_reducible assumption | with_reducible apply State.setEntryBits_canon | with_reducible apply State.walked_canon | dsimp only | split
    | with_reducible apply SndCanon.mk
theorem State.seqPages_canon (s : State) (asid : BitVec 16) (a : Ask) (x0 : List (Nat × Nat)) (hcan : s.Canon) :
    SndCanon (s.seqPages asid a x0) := by
  induction x0 generalizing s with
  | nil => exact hcan
  | cons a l ih =>
    unfold State.seqPages
    repeat' first
      | with_reducible first
        | assumption | apply State.seqXlate_canon | apply ih | refine SndCanon.of_eq (by with_reducible assumption) ?_
      | split | with_reducible apply SndCanon.mk
theorem State.putThrough_canon (s : State) (cls : Nat) (pages : List Elem) (va : Nat) (b : List Byte) (hcan : s.Canon) :
    (s.putThrough cls pages va b).Canon := by
  unfold State.putThrough
  repeat' first
    | with_reducible first
      | assumption | apply State.homeUses_canon | apply State.classed_canon | intro _ | apply State.putPhysBytes_canon | apply State.classed_canon | apply State.canon_foldl
    | split
theorem planRtrace_canon (o : COp) (s : State) : (planRtrace o s).Keeps := by
  unfold planRtrace
  repeat' with_reducible apply State.planC_canon
theorem State.rayWork_canon (s : State) (st : StreamId) (c : Command) (o : COp) (hcan : s.Canon) : SndCanon (s.rayWork st c o) := by
  unfold State.rayWork
  repeat' with_reducible first
    | assumption | intro _ | apply Eng.andThen_canon | apply State.require_canon | apply State.rays_canon | apply State.putHits_canon
    | apply SndCanon.mk
theorem planQfence_canon (o : COp) (s : State) : (planQfence o s).Keeps := by
  unfold planQfence
  repeat' with_reducible apply State.planC_canon
theorem State.joinWork_canon (s : State) (st : StreamId) (q : Nat) (c : Command) (hcan : s.Canon) : SndCanon (s.joinWork st q c) := by
  unfold State.joinWork
  repeat' with_reducible first
    | assumption | apply SndCanon.ite | apply SndCanon.mk

/-! ## Sash -/

theorem State.modSash_canon (s : State) (key : Nat) (f : SashEntry → SashEntry) (hcan : s.Canon) : (s.modSash key f).Canon := by
  unfold State.modSash
  repeat' with_reducible first
    | assumption | apply State.modSched_canon
theorem State.own__canon (s : State) (core space base n : Nat) (w : PageOwner) (hcan : s.Canon) : (s.own_ core space base n w).Canon := by
  unfold State.own_
  repeat' with_reducible first
    | assumption | apply State.modTile_canon
theorem State.freshPages_canon (s : State) (core space base n : Nat) (asid : BitVec 16) (hcan : s.Canon) :
    (s.freshPages core space base n asid).Canon := by
  unfold State.freshPages
  repeat' with_reducible first
    | assumption | apply State.modTile_canon | apply State.picked_canon
theorem State.fillPages_canon (s : State) (core space base : Nat) (asid : BitVec 16) (b : List Byte) (hcan : s.Canon) :
    (s.fillPages core space base asid b).Canon := by
  unfold State.fillPages
  repeat' with_reducible first
    | assumption | apply State.modTile_canon
theorem State.startEvict_canon (s : State) (key : Nat) (client : Option (StreamId × Nat)) (req : Nat) (hcan : s.Canon) :
    (s.startEvict key client req).Canon := by
  unfold State.startEvict
  repeat' with_reducible first
    | assumption | apply State.picked_canon | apply State.modSash_canon
theorem State.makeRoom_canon (s : State) (core space n req : Nat) (hcan : s.Canon) : SndCanon (s.makeRoom core space n req) := by
  unfold State.makeRoom
  repeat' first
    | with_reducible first
      | assumption | apply SndCanon.ite | apply State.picked_canon | apply State.note_canon | apply State.startEvict_canon
    | dsimp only | split | with_reducible apply SndCanon.mk
theorem State.freeSash_canon (s : State) (key : Nat) (hcan : s.Canon) : (s.freeSash key).Canon := by
  unfold State.freeSash
  repeat' with_reducible first
    | assumption | apply State.canon_ite | apply State.modSched_canon | apply State.own__canon
theorem State.dropSash_canon (s : State) (key : Nat) (hcan : s.Canon) : (s.dropSash key).Canon := by
  unfold State.dropSash
  repeat' first
    | with_reducible first
      | assumption | apply State.canon_ite | apply State.modSash_canon | apply State.freeSash_canon
    | dsimp only | split
theorem State.releaseSash_canon (s : State) (key : Nat) (rw advance : Bool) (hcan : s.Canon) : (s.releaseSash key rw advance).Canon := by
  unfold State.releaseSash
  repeat' with_reducible first
    | assumption | apply State.canon_ite | apply State.modSash_canon | apply State.freeSash_canon
theorem State.settleSash_canon (s : State) (key : Nat) (hcan : s.Canon) : (s.settleSash key).Canon := by
  unfold State.settleSash
  repeat' with_reducible first
    | assumption | apply State.canon_ite | apply State.modSash_canon | apply State.dropSash_canon
theorem State.releaseAll_canon (s : State) (st : StreamId) (advance : Bool) (hcan : s.Canon) : (s.releaseAll st advance).Canon := by
  unfold State.releaseAll
  repeat' with_reducible first
    | assumption | intro _ | apply State.canon_ite | apply State.setStream_canon | apply State.dropSash_canon
    | apply State.releaseSash_canon | apply State.canon_foldl
theorem State.attach_canon (s : State) (st : StreamId) (key : Nat) (rw landed : Bool) (hcan : s.Canon) :
    (s.attach st key rw landed).Canon := by
  unfold State.attach
  repeat' with_reducible first
    | assumption | apply State.modStream_canon | apply State.modSash_canon
theorem State.landLater_canon (s : State) (st : StreamId) (b : BaseLand) (hcan : s.Canon) : (s.landLater st b).Canon := by
  unfold State.landLater
  repeat' with_reducible first
    | assumption | apply State.modStream_canon
theorem State.landFail_canon (s : State) (st : StreamId) (c : Command) (v : Bool) (hcan : s.Canon) : (s.landFail st c v).Canon := by
  unfold State.landFail
  repeat' first
    | with_reducible first
      | assumption | apply State.canon_ite | apply State.landLater_canon
    | split
theorem State.planSash_canon (s : State) (i : Instr) (o : COp) (fits : List Word → Bool) (bad : Option Raise) (before : State → State)
    (info : List Nat) (h : Keeps before) : (s.planSash i o fits bad before info).Keeps := by
  unfold State.planSash
  refine Plan.keeps_mk ?_ ?_ ?_ ?_
  · intro t ht
    exact (State.planC_canon _ _ _ _ _ _ _ _).eff_canon (h t ht)
  · exact (State.planC_canon _ _ _ _ _ _ _ _).fin
  · intro t ht
    exact State.canon_ite ht (State.picked_canon _ (State.modStream_canon _ _ _ ht))
  · exact (State.planC_canon _ _ _ _ _ _ _ _).addr
theorem State.reserveSash_canon (s : State) (q : Nat) (name : Word) (sg : List Word) (hcan : s.Canon) :
    (s.reserveSash q name sg).Canon := by
  unfold State.reserveSash
  repeat' first
    | with_reducible assumption | with_reducible apply State.modSash_canon | dsimp only | split
theorem planSopen_canon (o : COp) (s : State) : (planSopen o s).Keeps := by
  unfold planSopen
  repeat' with_reducible first
    | assumption | intro _ | apply State.planSash_canon | apply State.reserveSash_canon | apply Keeps.intro
theorem planSopenEvicted_canon (o : COp) (s : State) : (planSopenEvicted o s).Keeps := by
  unfold planSopenEvicted
  repeat' with_reducible first
    | assumption | intro _ | apply State.planSash_canon | apply State.reserveSash_canon | apply Keeps.intro
theorem planSatt_canon (o : COp) (s : State) : (planSatt o s).Keeps := by
  unfold planSatt
  repeat' with_reducible first
    | exact Keeps.id | apply State.planSash_canon
theorem planSrel_canon (o : COp) (s : State) : (planSrel o s).Keeps := by
  unfold planSrel
  repeat' with_reducible first
    | assumption | intro _ | exact Keeps.id | apply State.modStream_canon | apply State.planSash_canon | apply Plan.keeps_mk
    | apply Plan.Keeps.fin | apply Plan.Keeps.wait | apply Plan.Keeps.addr | apply Plan.Keeps.eff_canon | apply Keeps.intro
theorem planSevict_canon (o : COp) (s : State) : (planSevict o s).Keeps := by
  unfold planSevict
  repeat' with_reducible first
    | exact Keeps.id | apply State.planSash_canon
theorem planSdrop_canon (o : COp) (s : State) : (planSdrop o s).Keeps := by
  unfold planSdrop
  repeat' with_reducible first
    | exact Keeps.id | apply State.planSash_canon
theorem State.backPages_canon (s : State) (key : Nat) (e : SashEntry) (wr : Bool) (x0 : List (Nat × Nat)) (hcan : s.Canon) :
    SndCanon (s.backPages key e wr x0) := by
  induction x0 generalizing s with
  | nil => exact hcan
  | cons a l ih =>
    unfold State.backPages
    repeat' first
      | with_reducible first
        | assumption | intro _ | apply SndCanon.ite | apply State.joinWalk_canon | apply State.xlate_canon | apply Eng.andThen_canon | apply ih
        | refine SndCanon.of_eq (by with_reducible assumption) ?_
      | split | with_reducible apply SndCanon.mk
theorem State.sashFault_canon (s : State) (key : Nat) (code : BitVec 8) (va access : Nat) (hcan : s.Canon) :
    (s.sashFault key code va access).Canon := by
  unfold State.sashFault
  repeat' first
    | with_reducible first
      | assumption | apply State.row_canon | apply State.engineFault_canon
    | split
theorem State.keepSash_canon (s : State) (key : Nat) (hcan : s.Canon) : (s.keepSash key).Canon := by
  unfold State.keepSash
  repeat' with_reducible first
    | assumption | apply State.modSash_canon | apply State.settleSash_canon
theorem State.bringFails_canon (s : State) (key : Nat) (hcan : s.Canon) : (s.bringFails key).Canon := by
  unfold State.bringFails
  repeat' with_reducible first
    | assumption | apply State.modSash_canon | apply State.own__canon | apply State.settleSash_canon
theorem State.passHome_canon (s : State) (die : Nat) (pages : List Elem) (hcan : s.Canon) : (s.passHome die pages).Canon := by
  unfold State.passHome
  repeat' with_reducible first
    | assumption | intro _ | apply State.agentClean_canon | apply State.canon_foldl
theorem State.attachDone_canon (s : State) (st : StreamId) (q : Nat) (c : Command) (o : COp) (key : Nat) (hcan : s.Canon) :
    (s.attachDone st q c o key).Canon := by
  unfold State.attachDone
  repeat' first
    | with_reducible first
      | assumption | apply State.canon_ite | apply State.modCommand_canon | apply State.reachStatus_canon | apply State.putStatus_canon
      | apply State.attach_canon | apply State.landLater_canon | apply State.landFail_canon
      | refine SndCanon.of_eq (by with_reducible assumption) ?_
    | dsimp only | split
theorem State.startBring_canon (s : State) (key core base : Nat) (client : Option (StreamId × Nat)) (req : Nat) (hcan : s.Canon) :
    (s.startBring key core base client req).Canon := by
  unfold State.startBring
  repeat' with_reducible first
    | assumption | apply State.picked_canon | apply State.modSash_canon | apply State.own__canon
theorem State.bringError_canon (s : State) (key : Nat) (code : BitVec 8) (v : Word) (hcan : s.Canon) :
    (s.bringError key code v).Canon := by
  unfold State.bringError
  repeat' first
    | with_reducible first
      | assumption | apply State.modSched_canon | apply State.endCommand_canon | apply State.landFail_canon | apply State.bringFails_canon
    | dsimp only | split
theorem State.pageError_canon (s : State) (key : Nat) (hcan : s.Canon) : (s.pageError key).Canon := by
  unfold State.pageError
  repeat' first
    | with_reducible first
      | assumption | apply State.canon_ite | apply State.modSched_canon | apply State.picked_canon | apply State.note_canon
      | apply State.endCommand_canon | apply State.keepSash_canon | apply State.bringError_canon
    | split
theorem State.sashReach_canon (s : State) (st : StreamId) (c : Command) (backing : Bool) (hcan : s.Canon) :
    SndCanon (s.sashReach st c backing) := by
  unfold State.sashReach
  repeat' with_reducible first
    | assumption | intro _ | apply Eng.andThen_canon | apply State.require_canon | apply State.reachStatus_canon
theorem State.takeTurn_canon (s : State) (st : StreamId) (q : Nat) (c : Command) (hcan : s.Canon) : SndCanon (s.takeTurn st q c) := by
  unfold State.takeTurn
  repeat' first
    | with_reducible first
      | assumption | apply SndCanon.ite | apply State.modSched_canon | apply State.modCommand_canon
    | dsimp only | with_reducible apply SndCanon.mk
theorem State.openWork_canon (s : State) (st : StreamId) (q : Nat) (c : Command) (o : COp) (evicted : Bool) (hcan : s.Canon) :
    SndCanon (s.openWork st q c o evicted) := by
  unfold State.openWork
  repeat' first
    | with_reducible first
      | assumption | intro _ | apply SndCanon.ite | apply Eng.andThen_canon | apply State.putStatus_canon | apply State.modSash_canon
      | apply State.own__canon | apply State.freshPages_canon | apply State.makeRoom_canon | apply State.settleSash_canon
      | apply State.attach_canon | apply State.landLater_canon | apply State.sashReach_canon
      | refine SndCanon.snd (State.takeTurn_canon _ _ _ _ ?_) | refine SndCanon.of_eq (by with_reducible assumption) ?_
    | dsimp only | split | with_reducible apply SndCanon.mk
theorem State.attWork_canon (s : State) (st : StreamId) (q : Nat) (c : Command) (o : COp) (hcan : s.Canon) :
    SndCanon (s.attWork st q c o) := by
  unfold State.attWork
  repeat' first
    | with_reducible first
      | assumption | intro _ | apply SndCanon.ite | apply State.row_canon | apply Eng.andThen_canon | apply State.putStatus_canon
      | apply State.makeRoom_canon | apply State.landFail_canon | apply State.startBring_canon | apply State.sashReach_canon
      | refine SndCanon.snd (State.takeTurn_canon _ _ _ _ ?_) | refine SndCanon.of_eq (by with_reducible assumption) ?_
    | dsimp only | split | with_reducible apply SndCanon.mk
theorem State.relWork_canon (s : State) (st : StreamId) (q : Nat) (c : Command) (hcan : s.Canon) : SndCanon (s.relWork st q c) := by
  unfold State.relWork
  repeat' first
    | with_reducible first
      | assumption | intro _ | apply SndCanon.ite | apply State.row_canon | apply Eng.andThen_canon | apply State.sashReach_canon
      | refine SndCanon.snd (State.takeTurn_canon _ _ _ _ ?_)
    | dsimp only | split | with_reducible apply SndCanon.mk
theorem State.evictWork_canon (s : State) (st : StreamId) (q : Nat) (c : Command) (hcan : s.Canon) : SndCanon (s.evictWork st q c) := by
  unfold State.evictWork
  repeat' first
    | with_reducible first
      | assumption | intro _ | apply SndCanon.ite | apply State.row_canon | apply Eng.andThen_canon | apply State.putStatus_canon
      | apply State.startEvict_canon | apply State.sashReach_canon
    | dsimp only | split | with_reducible apply SndCanon.mk
theorem State.dropWork2_canon (s : State) (st : StreamId) (c : Command) (hcan : s.Canon) : SndCanon (s.dropWork2 st c) := by
  unfold State.dropWork2
  repeat' first
    | with_reducible first
      | assumption | intro _ | apply Eng.andThen_canon | apply State.putStatus_canon | apply State.dropSash_canon
      | apply State.sashReach_canon
    | split | with_reducible apply SndCanon.mk
theorem State.undoSash_canon (s : State) (st : StreamId) (q : Nat) (c : Command) (hcan : s.Canon) : (s.undoSash st q c).Canon := by
  unfold State.undoSash
  repeat' first
    | with_reducible first
      | assumption | apply State.canon_ite | apply State.modStream_canon | apply State.modSched_canon | apply State.landFail_canon
      | apply State.keepSash_canon | apply State.bringFails_canon
    | dsimp only | split

/-! ## Commands -/

theorem State.workOf_canon (s : State) (st : StreamId) (q : Nat) (c : Command) (hcan : s.Canon) : SndCanon (s.workOf st q c) := by
  unfold State.workOf
  repeat' first
    | with_reducible first
      | assumption | apply State.copyWork_canon | apply State.castWork_canon | apply State.gatherWork_canon | apply State.pfbWork_canon
      | apply State.dropWork_canon | apply State.tmoveWork_canon | apply State.collWork_canon | apply State.sortWork_canon
      | apply State.pushWork_canon | apply State.launchWork_canon | apply State.rayWork_canon | apply State.joinWork_canon
      | apply State.openWork_canon | apply State.attWork_canon | apply State.relWork_canon | apply State.evictWork_canon
      | apply State.dropWork2_canon
    | split | with_reducible apply SndCanon.mk
theorem State.failCommand_canon (s : State) (st : StreamId) (q : Nat) (c : Command) (code : BitVec 8) (tval : Word) (hcan : s.Canon) :
    (s.failCommand st q c code tval).Canon := by
  unfold State.failCommand
  repeat' with_reducible first
    | assumption | apply State.endCommand_canon | apply State.undoSash_canon
theorem State.startCommand_canon (s : State) (st : StreamId) (q : Nat) (hcan : s.Canon) : (s.startCommand st q).Canon := by
  unfold State.startCommand
  repeat' first
    | with_reducible first
      | assumption | apply State.canon_ite | apply State.row_canon | apply State.picked_canon | apply State.release_canon
      | apply State.settle_canon | apply State.modCommand_canon | apply State.failCommand_canon
    | dsimp only | split
theorem State.workCommand_canon (s : State) (st : StreamId) (q : Nat) (c : Command) (hcan : s.Canon) : (s.workCommand st q c).Canon := by
  unfold State.workCommand
  repeat' first
    | with_reducible first
      | assumption | apply State.row_canon | apply State.picked_canon | apply State.modCommand_canon | apply State.engineFault_canon
      | apply State.workOf_canon | apply State.failCommand_canon | refine SndCanon.of_eq (by with_reducible assumption) ?_
    | split
theorem State.completeCommand_canon (s : State) (st : StreamId) (q : Nat) (hcan : s.Canon) : (s.completeCommand st q).Canon := by
  unfold State.completeCommand
  repeat' first
    | with_reducible first
      | assumption | apply State.canon_ite | apply State.row_canon | apply State.endCommand_canon | apply State.workCommand_canon
    | dsimp only | split

/-! ## MemEvents -/

theorem State.expire_canon (s : State) (p : CachePlace) (ln : Nat) (hcan : s.Canon) : (s.expire p ln).Canon := by
  unfold State.expire
  repeat' first
    | with_reducible first
      | assumption | apply State.l1Keep_canon | apply State.clClean_canon
    | dsimp only | split
theorem State.sweep_canon (s : State) (d : Nat) (h : s.Canon) : (s.sweep d).Canon := by
  unfold State.sweep
  refine State.canon_mk (State.Canon.mem (State.canon_foldl (State.modMem_canon h fun m hm => ?_) fun t x ht => ?_))
  · split <;> exact hm
  · exact State.canon_ite ht (State.clClean_canon _ _ _ ht)
theorem State.joinCluster_canon (s : State) (k : Nat) (hcan : s.Canon) : (s.joinCluster k).Canon := by
  unfold State.joinCluster
  repeat' first
    | with_reducible first
      | assumption | intro _ | apply State.recall_canon | apply State.joinOne_canon | apply State.canon_foldl
    | split
theorem State.forwarded_canon (s : State) (owner requester ln : Nat) (own : Bool) (hcan : s.Canon) :
    (s.forwarded owner requester ln own).Canon := by
  unfold State.forwarded
  repeat' first
    | with_reducible first
      | assumption | intro _ | apply State.canon_ite | apply State.modMem_canon | apply State.row_canon | apply State.loseLine_canon
      | apply State.forwardRead_canon | apply State.cleanOwner_canon
    | dsimp only | split | (show Mem.wf _ = true; assumption)
theorem State.unfence_canon (s : State) (hcan : s.Canon) : (s.unfence).Canon := by
  unfold State.unfence
  repeat' first
    | dsimp only | (show Mem.wf _ = true; exact hcan)
theorem State.pushUpdate_canon (s : State) (ln writer : Nat) (hcan : s.Canon) : (s.pushUpdate ln writer).Canon := by
  unfold State.pushUpdate
  repeat' first
    | with_reducible first
      | assumption | intro _ | apply State.modMem_canon | apply State.post_canon | apply State.canon_foldl
    | (show Mem.wf _ = true; assumption)
theorem State.refill_canon (s : State) (d : Bool) (c : Nat) (hcan : s.Canon) : (s.refill d c).Canon := by
  unfold State.refill
  repeat' with_reducible first
    | assumption | intro _ | apply State.canon_ite | apply State.modMem_canon
theorem State.evictDone_canon (s : State) (st : StreamId) (q : Nat) (hcan : s.Canon) : (s.evictDone st q).Canon := by
  unfold State.evictDone
  split
  · rename_i c _ _
    have h := State.reachStatus_canon s st c 1 (c.addr 12) hcan
    split
    · rename_i e; rw [e] at h; exact State.modCommand_canon _ _ _ _ (State.putStatus_canon _ _ _ _ _ h)
    · rename_i e; rw [e] at h; exact State.modCommand_canon _ _ _ _ h
  · exact hcan
theorem State.walkOver_canon (s : State) (r : WalkWaiter) (hcan : s.Canon) : (s.walkOver r).Canon := by
  cases r
  · exact State.missOver_canon _ _ hcan
  · exact hcan
  · exact hcan
theorem State.walkFault_canon (s : State) (r : WalkWaiter) (hcan : s.Canon) : (s.walkFault r).Canon := by
  unfold State.walkFault
  repeat' first
    | with_reducible first
      | assumption | apply State.canon_ite | apply State.missFaults_canon | apply State.engineFault_canon | apply State.sashFault_canon
    | split
theorem State.writeFrom_canon (s : State) (cls pa : Nat) (l : List Byte) (hcan : s.Canon) : (s.writeFrom cls pa l).Canon := by
  unfold State.writeFrom
  repeat' first
    | with_reducible first
      | assumption | intro _ | apply State.canon_ite | apply State.modMem_canon | apply State.homeUses_canon | apply State.putPhysBytes_canon
    | dsimp only
theorem State.modPort_canon (s : State) (d : Bool) (f : Port → Port) (hcan : s.Canon) : (s.modPort d f).Canon := by
  unfold State.modPort
  repeat' with_reducible first
    | assumption | apply State.modEdge_canon
theorem State.attachHost_canon (s : State) (d : Bool) (w : Nat × Nat) (hcan : s.Canon) : (s.attachHost d w).Canon := by
  unfold State.attachHost
  repeat' with_reducible first
    | assumption | intro _ | apply State.modMem_canon | apply State.modPort_canon

end Sys2Proof.Machine
end

