-- ==== Sys2Proof/Laws/CanonSched.lean ====
section
/-! SUPPORT. The canonical form of memory is kept by the sequencer, the queues, the hosts and the issue of a bundle. -/

namespace Sys2Proof.Machine

/-! ## Records -/

theorem State.putQ_canon (s : State) (q i v : Nat) (hcan : s.Canon) : (s.putQ q i v).Canon := by
  unfold State.putQ
  repeat' with_reducible first
    | assumption | apply State.putPhys_canon
theorem State.modLaunch_canon (s : State) (q n : Nat) (f : Launch → Launch) (hcan : s.Canon) : (s.modLaunch q n f).Canon := by
  unfold State.modLaunch
  repeat' with_reducible first
    | assumption | apply State.modSched_canon
theorem State.putStatus__canon (s : State) (q n st : Nat) (code : BitVec 8) (done next : Nat) (hcan : s.Canon) :
    (s.putStatus_ q n st code done next).Canon := by
  unfold State.putStatus_
  repeat' with_reducible first
    | assumption | apply State.putPhys_canon
theorem State.showLaunch_canon (s : State) (q n : Nat) (hcan : s.Canon) : (s.showLaunch q n).Canon := by
  unfold State.showLaunch
  repeat' first
    | with_reducible assumption | with_reducible apply State.putStatus__canon | split
theorem State.readThrough_canon (s : State) (cls : Nat) (pages : List Elem) (va n : Nat) (hcan : s.Canon) :
    SndCanon (s.readThrough cls pages va n) := by
  unfold State.readThrough
  repeat' first
    | with_reducible first
      | assumption | intro _ | apply SndCanon.ite | apply State.homeUse_canon | apply State.joinBytes_canon | apply State.noteHole_canon
      | apply State.classed_canon | apply SndCanon.foldl | exact SndCanon.snd (by with_reducible assumption)
    | dsimp only | split | with_reducible apply SndCanon.mk
theorem State.seqRead_canon (s : State) (cls : Nat) (asid : BitVec 16) (va n : Nat) (hcan : s.Canon) :
    SndCanon (s.seqRead cls asid va n) := by
  unfold State.seqRead
  repeat' first
    | with_reducible first
      | assumption | apply State.seqPages_canon | refine SndCanon.snd (State.readThrough_canon _ _ _ _ _ ?_)
      | refine SndCanon.of_eq (by with_reducible assumption) ?_
    | dsimp only | split | with_reducible apply SndCanon.mk
theorem State.readImage_canon (s : State) (c : Rec) (asid : BitVec 16) (hcan : s.Canon) : SndCanon (s.readImage c asid) := by
  rw [State.readImage]
  have h := State.seqRead_canon s c.qos asid c.image 64 hcan
  generalize s.seqRead c.qos asid c.image 64 = p at h ⊢
  obtain ⟨e | b, t⟩ := p
  · exact h
  · refine SndCanon.ite h ?_
    have h := State.seqRead_canon t c.qos asid (c.image + 64) (16 * leNat ((b.drop 4).take 2)) h
    generalize t.seqRead c.qos asid (c.image + 64) (16 * leNat ((b.drop 4).take 2)) = p at h ⊢
    obtain ⟨e | b, t⟩ := p
    · exact h
    · exact SndCanon.ite h h
theorem State.readRaster_canon (s : State) (c : Rec) (asid : BitVec 16) (hcan : s.Canon) : SndCanon (s.readRaster c asid) := by
  rw [State.readRaster]
  have h := State.seqRead_canon s c.qos asid c.args 64 hcan
  generalize s.seqRead c.qos asid c.args 64 = p at h ⊢
  obtain ⟨e | b, t⟩ := p
  · exact h
  · exact h
/-- The state of a judgement is in form. -/
def LastCanon {α β γ : Type} (p : α × β × γ × State) : Prop := p.2.2.2.Canon
theorem LastCanon.last {α β γ : Type} {p : α × β × γ × State} (h : LastCanon p) : p.2.2.2.Canon := h
theorem LastCanon.ite {α β γ : Type} {c : Prop} [Decidable c] {a b : α × β × γ × State} (ha : LastCanon a) (hb : LastCanon b) :
    LastCanon (if c then a else b) := by
  split <;> assumption
theorem State.judgeRecord_canon (s : State) (c : Rec) (asid : BitVec 16) (hcan : s.Canon) : LastCanon (s.judgeRecord c asid) := by
  rw [State.judgeRecord]
  refine LastCanon.ite hcan ?_
  have h := State.readImage_canon s c asid hcan
  generalize s.readImage c asid = p at h ⊢
  obtain ⟨i, t⟩ := p
  refine LastCanon.ite ?_ h
  have h := State.readRaster_canon t c asid h
  generalize t.readRaster c asid = p at h ⊢
  obtain ⟨e | b, t⟩ := p
  · exact h
  · exact h

/-! ## Queues -/

theorem State.noteWaiting_canon (s : State) (q : Nat) (hcan : s.Canon) : (s.noteWaiting q).Canon := by
  unfold State.noteWaiting
  repeat' with_reducible first
    | assumption | apply State.modSched_canon
theorem State.ring_canon (s : State) (q : Nat) (hcan : s.Canon) : (s.ring q).Canon := by
  unfold State.ring
  repeat' with_reducible first
    | assumption | apply State.canon_ite | apply State.modSched_canon | apply State.note_canon | apply State.noteWaiting_canon
theorem State.mapQueue_canon (s : State) (q slot : Nat) (hcan : s.Canon) : (s.mapQueue q slot).Canon := by
  unfold State.mapQueue
  repeat' with_reducible first
    | assumption | apply State.modSched_canon | apply State.note_canon
theorem State.mapBest_canon (s : State) (l : List Nat) (hcan : s.Canon) : (s.mapBest l).Canon := by
  unfold State.mapBest
  repeat' first
    | with_reducible assumption | with_reducible apply State.mapQueue_canon | split
theorem State.yieldSlot_canon (s : State) (q : Nat) (hcan : s.Canon) : (s.yieldSlot q).Canon := by
  unfold State.yieldSlot
  repeat' first
    | with_reducible first
      | assumption | apply State.canon_ite | apply State.modSched_canon
    | split
theorem State.freeWindow_canon (s : State) (core : Nat) (j : Job) (hcan : s.Canon) : (s.freeWindow core j).Canon := by
  unfold State.freeWindow
  repeat' with_reducible first
    | assumption | apply State.modTile_canon
theorem State.unpark_canon (s : State) (p : Parked) (hcan : s.Canon) : (s.unpark p).Canon := by
  unfold State.unpark
  repeat' with_reducible first
    | assumption | apply State.modSched_canon | apply State.note_canon | apply State.noteWaiting_canon | apply State.freeWindow_canon
theorem State.passHead_canon (s : State) (q : Nat) (x0 : Nat) (hcan : s.Canon) : (s.passHead q x0).Canon := by
  induction x0 generalizing s with
  | zero => exact hcan
  | succ n ih =>
    unfold State.passHead
    repeat' with_reducible first
      | assumption | apply State.canon_ite | apply State.modSched_canon | apply State.putQ_canon | apply ih
theorem State.endLaunch_canon (s : State) (q n : Nat) (hcan : s.Canon) : (s.endLaunch q n).Canon := by
  unfold State.endLaunch
  repeat' first
    | with_reducible first
      | assumption | intro _ | apply State.canon_ite | apply State.modSched_canon | apply State.note_canon | apply State.ctrAdd_canon
      | apply State.dropSash_canon | apply State.releaseSash_canon | apply State.modLaunch_canon | apply State.showLaunch_canon
      | apply State.yieldSlot_canon | apply State.passHead_canon | apply State.noteWaiting_canon | apply State.canon_foldl
    | dsimp only | split
theorem State.closeLaunch_canon (s : State) (q n : Nat) (hcan : s.Canon) : (s.closeLaunch q n).Canon := by
  unfold State.closeLaunch
  repeat' first
    | with_reducible first
      | assumption | apply State.canon_ite | apply State.endLaunch_canon
    | dsimp only | split
theorem State.noteFailure_canon (s : State) (q : Nat) (code : BitVec 8) (hcan : s.Canon) : (s.noteFailure q code).Canon := by
  unfold State.noteFailure
  repeat' with_reducible first
    | assumption | apply State.note_canon
theorem State.failLaunch_canon (s : State) (q n : Nat) (code : BitVec 8) (unit : Option Nat) (hcan : s.Canon) :
    (s.failLaunch q n code unit).Canon := by
  unfold State.failLaunch
  repeat' first
    | with_reducible first
      | assumption | intro _ | apply State.modSched_canon | apply State.modLaunch_canon | apply State.unpark_canon
      | apply State.noteFailure_canon | apply State.noteWaiting_canon | apply State.canon_foldl
    | dsimp only
theorem State.takeRecord_canon (s : State) (q : Nat) (l : Launch) (hcan : s.Canon) : (s.takeRecord q l).Canon := by
  unfold State.takeRecord
  repeat' with_reducible first
    | assumption | apply State.modSched_canon | apply State.putQ_canon
theorem State.beginRecord_canon (s : State) (q : Nat) (hcan : s.Canon) : (s.beginRecord q).Canon := by
  unfold State.beginRecord
  repeat' first
    | with_reducible first
      | assumption | apply State.canon_ite | apply State.picked_canon | apply State.note_canon | apply State.putQ_canon
      | apply State.showLaunch_canon | apply State.endLaunch_canon | apply State.noteFailure_canon | apply State.takeRecord_canon
      | refine LastCanon.last (State.judgeRecord_canon _ _ _ ?_)
    | dsimp only | split
theorem State.cancelNow_canon (s : State) (q : Nat) (hcan : s.Canon) : (s.cancelNow q).Canon := by
  unfold State.cancelNow
  repeat' with_reducible first
    | assumption | apply State.modSched_canon | apply State.noteWaiting_canon | apply State.endLaunch_canon
    | apply State.noteFailure_canon | apply State.takeRecord_canon
theorem State.modPlaced_canon (s : State) (q n unit : Nat) (f : Placed → Placed) (hcan : s.Canon) : (s.modPlaced q n unit f).Canon := by
  unfold State.modPlaced
  repeat' with_reducible first
    | assumption | apply State.modLaunch_canon
theorem State.dropSaved_canon (s : State) (a : SaveArea) (code : BitVec 8) (hcan : s.Canon) : (s.dropSaved a code).Canon := by
  unfold State.dropSaved
  repeat' first
    | with_reducible first
      | assumption | apply State.modStream_canon | apply State.modSched_canon | apply State.row_canon | apply State.modLaunch_canon
      | apply State.freeWindow_canon | apply State.failLaunch_canon | apply State.modPlaced_canon
    | split
theorem State.cancelBegun_canon (s : State) (q n : Nat) (hcan : s.Canon) : (s.cancelBegun q n).Canon := by
  unfold State.cancelBegun
  repeat' with_reducible first
    | assumption | intro _ | apply State.canon_ite | apply State.noteWaiting_canon | apply State.unpark_canon
    | apply State.closeLaunch_canon | apply State.failLaunch_canon | apply State.dropSaved_canon | apply State.canon_foldl
theorem State.unmapStart_canon (s : State) (q c : Nat) (hcan : s.Canon) : (s.unmapStart q c).Canon := by
  unfold State.unmapStart
  repeat' with_reducible first
    | assumption | intro _ | apply State.canon_ite | apply State.modStream_canon | apply State.modSched_canon | apply State.note_canon
    | apply State.unpark_canon | apply State.canon_foldl
theorem State.unmapEnd_canon (s : State) (q c : Nat) (hcan : s.Canon) : (s.unmapEnd q c).Canon := by
  unfold State.unmapEnd
  repeat' with_reducible first
    | assumption | intro _ | apply State.modSched_canon | apply State.modLaunch_canon | apply State.showLaunch_canon
    | apply State.noteWaiting_canon | apply State.mapBest_canon | apply State.canon_foldl
theorem State.leaveTile_canon (s : State) (st : StreamId) (x : Stream) (hcan : s.Canon) : (s.leaveTile st x).Canon := by
  unfold State.leaveTile
  repeat' first
    | with_reducible first
      | assumption | apply State.canon_ite | apply State.modTile_canon | apply State.freeWindow_canon
    | split
theorem State.leave_canon (s : State) (st : StreamId) (hcan : s.Canon) : (s.leave st).Canon := by
  unfold State.leave
  repeat' first
    | with_reducible assumption | with_reducible apply State.leaveTile_canon | dsimp only | split
    | (with_reducible apply State.canon_mk; with_reducible apply State.Canon.mem; with_reducible apply State.clearReservations_canon)
theorem State.retire_canon (s : State) (q n unit : Nat) (m : Nat × StreamId) (hcan : s.Canon) : (s.retire q n unit m).Canon := by
  unfold State.retire
  repeat' with_reducible first
    | assumption | apply State.canon_ite | apply State.row_canon | apply State.release_canon | apply State.settle_canon
    | apply State.modLaunch_canon | apply State.modPlaced_canon | apply State.leave_canon
theorem State.leaveGroup_canon (s : State) (q n unit : Nat) (hcan : s.Canon) : (s.leaveGroup q n unit).Canon := by
  unfold State.leaveGroup
  repeat' first
    | dsimp only | (show Mem.wf _ = true; exact hcan)
theorem State.groupAdd_canon (s : State) (c : Rec) (hcan : s.Canon) : (s.groupAdd c).Canon := by
  unfold State.groupAdd
  repeat' with_reducible first
    | assumption | apply State.canon_ite | apply State.ctrAdd_canon
theorem State.unitDone_canon (s : State) (q n : Nat) (p : Placed) (c : Rec) (hcan : s.Canon) : (s.unitDone q n p c).Canon := by
  unfold State.unitDone
  repeat' with_reducible first
    | assumption | apply State.canon_ite | apply State.note_canon | apply State.modLaunch_canon | apply State.showLaunch_canon
    | apply State.closeLaunch_canon | apply State.leaveGroup_canon | apply State.groupAdd_canon
theorem State.copyPages_canon (s : State) (asid : BitVec 16) (wr : Bool) (rows : List Nat) (n : Nat) (hcan : s.Canon) :
    SndCanon (s.copyPages asid wr rows n) := by
  unfold State.copyPages
  repeat' first
    | with_reducible first
      | assumption | apply SndCanon.ite | apply State.seqPages_canon | refine SndCanon.of_eq (by with_reducible assumption) ?_
    | split | with_reducible apply SndCanon.mk
theorem State.copyRecord_canon (s : State) (c : Rec) (asid : BitVec 16) (hcan : s.Canon) : SndCanon (s.copyRecord c asid) := by
  rw [State.copyRecord]
  have h := State.copyPages_canon s asid false [c.args] 32 hcan
  generalize s.copyPages asid false [c.args] 32 = p at h ⊢
  obtain ⟨e | ps, t⟩ := p
  · exact h
  have h := State.readThrough_canon t c.qos ps c.args 32 h
  dsimp only
  generalize t.readThrough c.qos ps c.args 32 = p at h ⊢
  obtain ⟨b, t⟩ := p
  dsimp only
  refine SndCanon.ite h (SndCanon.ite h ?_)
  split
  · next e => exact SndCanon.of_eq e (State.copyPages_canon _ _ _ _ _ h)
  · next e =>
    have h := SndCanon.of_eq e (State.copyPages_canon _ _ _ _ _ h)
    split
    · next e => exact SndCanon.of_eq e (State.copyPages_canon _ _ _ _ _ h)
    · next e =>
      have h := SndCanon.of_eq e (State.copyPages_canon _ _ _ _ _ h)
      exact State.picked_canon _ (State.canon_foldl (SndCanon.snd (SndCanon.foldl h fun _ _ h =>
        SndCanon.snd (State.readThrough_canon _ _ _ _ _ h))) fun _ _ h => State.putThrough_canon _ _ _ _ _ h)
theorem State.copyEnd_canon (s : State) (q n : Nat) (l : Launch) (hcan : s.Canon) : (s.copyEnd q n l).Canon := by
  rw [State.copyEnd]
  have h := State.copyRecord_canon s l.copy l.asid hcan
  generalize s.copyRecord l.copy l.asid = p at h ⊢
  obtain ⟨_ | e, t⟩ := p
  · exact State.closeLaunch_canon _ _ _ (State.showLaunch_canon _ _ _ (State.groupAdd_canon _ _ (State.modLaunch_canon _ _ _ _ h)))
  · exact State.closeLaunch_canon _ _ _ (State.failLaunch_canon _ _ _ _ _ (State.modLaunch_canon _ _ _ _ h))
theorem State.unitEnd_canon (s : State) (u : UnitId) (hcan : s.Canon) : (s.unitEnd u).Canon := by
  unfold State.unitEnd
  repeat' first
    | with_reducible first
      | assumption | intro _ | apply State.canon_ite | apply State.closeLaunch_canon | apply State.retire_canon
      | apply State.unitDone_canon | apply State.copyEnd_canon | apply State.canon_foldl
    | dsimp only | split

/-! ## Groups -/

theorem State.primOf_canon (s : State) (l : Launch) (unit : Nat) (hcan : s.Canon) : SndCanon (s.primOf l unit) := by
  unfold State.primOf
  repeat' first
    | with_reducible first
      | assumption | apply SndCanon.ite | apply State.seqRead_canon | refine SndCanon.of_eq (by with_reducible assumption) ?_
    | split | with_reducible apply SndCanon.mk
theorem State.freshStore_canon (s : State) (n base kib : Nat) (asid : BitVec 16) (hcan : s.Canon) :
    (s.freshStore n base kib asid).Canon := by
  unfold State.freshStore
  repeat' with_reducible first
    | assumption | apply State.modShader_canon | apply State.picked_canon
theorem State.placeGroup_canon (s : State) (l : Launch) (unit : Nat) (p : Prim) (n : Nat) (hcan : s.Canon) :
    (s.placeGroup l unit p n).Canon := by
  unfold State.placeGroup
  repeat' with_reducible first
    | assumption | intro _ | apply State.canon_ite | apply State.setStream_canon | apply State.modShader_canon | apply State.picked_canon
    | apply State.note_canon | apply State.acquire_canon | apply State.modLaunch_canon | apply State.freshStore_canon
    | apply State.canon_foldl
theorem State.tryGroup_canon (s : State) (l : Launch) (cores : List Nat) (u : Nat × Prim) (hcan : s.Canon) :
    OptCanon (s.tryGroup l cores u) := by
  unfold State.tryGroup
  intro t e
  rw [Option.map_eq_some_iff] at e
  obtain ⟨n, -, rfl⟩ := e
  exact State.placeGroup_canon _ _ _ _ _ hcan
theorem State.tryGroups_canon (s : State) (l : Launch) (cores : List Nat) (us : List (Nat × Prim)) (hcan : s.Canon) :
    OptCanon (s.tryGroups l cores us) := by
  unfold State.tryGroups
  repeat' with_reducible first
    | assumption | intro _ | apply OptCanon.some | apply OptCanon.bind | apply OptCanon.foldl | apply State.tryGroup_canon
theorem OptCanon.findSome {α : Type} {f : α → Option State} {l : List α} (h : ∀ x, OptCanon (f x)) : OptCanon (l.findSome? f) := by
  intro t e
  obtain ⟨x, -, e⟩ := List.exists_of_findSome?_eq_some e
  exact h x t e
theorem State.tryClusters_canon (s : State) (l : Launch) (cs : List (List Nat)) (us : List (Nat × Prim)) (hcan : s.Canon) :
    OptCanon (s.tryClusters l cs us) :=
  OptCanon.findSome fun _ => State.tryGroups_canon _ _ _ _ hcan
theorem State.tryDie_canon (s : State) (l : Launch) (die : Nat) (us : List (Nat × Prim)) (hcan : s.Canon) :
    OptCanon (s.tryDie l die us) := by
  unfold State.tryDie
  repeat' with_reducible first
    | assumption | intro _ | apply OptCanon.some | apply OptCanon.ite | apply OptCanon.bind | apply OptCanon.foldl
    | apply State.tryGroups_canon | apply State.tryClusters_canon
theorem State.tryBlock_canon (s : State) (l : Launch) (us : List (Nat × Prim)) (hcan : s.Canon) : OptCanon (s.tryBlock l us) :=
  OptCanon.ite (OptCanon.findSome fun _ => State.tryDie_canon _ _ _ _ hcan)
    (OptCanon.ite (State.tryClusters_canon _ _ _ _ hcan) (State.tryGroups_canon _ _ _ _ hcan))
theorem State.primsOf_canon (s : State) (l : Launch) (x0 : List Nat) (hcan : s.Canon) : SndCanon (s.primsOf l x0) := by
  induction x0 generalizing s with
  | nil => exact hcan
  | cons a l ih =>
    unfold State.primsOf
    repeat' first
      | with_reducible first
        | assumption | apply State.primOf_canon | apply ih | refine SndCanon.of_eq (by with_reducible assumption) ?_
      | split | with_reducible apply SndCanon.mk
theorem State.passed_canon (s : State) (q n count : Nat) (hcan : s.Canon) : (s.passed q n count).Canon := by
  unfold State.passed
  repeat' with_reducible first
    | assumption | apply State.modLaunch_canon | apply State.showLaunch_canon | apply State.yieldSlot_canon
theorem State.turnTaken_canon (s : State) (hcan : s.Canon) : (s.turnTaken).Canon := by
  unfold State.turnTaken
  repeat' (show Mem.wf _ = true; exact hcan)
theorem State.hasPlaced_canon (s : State) (q : Nat) (hcan : s.Canon) : (s.hasPlaced q).Canon := by
  unfold State.hasPlaced
  repeat' with_reducible first
    | assumption | apply State.modSched_canon
theorem State.dispatchNext_canon (s : State) (l : Launch) (hcan : s.Canon) : (s.dispatchNext l).Canon := by
  unfold State.dispatchNext
  repeat' first
    | with_reducible first
      | assumption | apply State.canon_ite | apply State.picked_canon | apply State.closeLaunch_canon | apply State.failLaunch_canon
      | apply State.tryBlock_canon | apply State.primsOf_canon | apply State.passed_canon | apply State.turnTaken_canon
      | apply State.hasPlaced_canon | refine SndCanon.of_eq (by with_reducible assumption) ?_
      | refine OptCanon.of_eq (by with_reducible assumption) ?_
    | dsimp only | split

/-! ## Gangs -/

theorem State.takePages_canon (s : State) (core space n req : Nat) (j : Job) (hcan : s.Canon) :
    SndCanon (s.takePages core space n req j) := by
  unfold State.takePages
  repeat' first
    | with_reducible first
      | assumption | apply SndCanon.ite | apply State.own__canon | apply State.makeRoom_canon
      | refine SndCanon.of_eq (by with_reducible assumption) ?_
    | split | with_reducible apply SndCanon.mk
theorem State.takeWindows_canon (s : State) (c : Rec) (core req : Nat) (j : Job) (hcan : s.Canon) :
    SndCanon (s.takeWindows c core req j) := by
  unfold State.takeWindows
  repeat' first
    | with_reducible first
      | assumption | apply State.freeWindow_canon | apply State.takePages_canon | refine SndCanon.of_eq (by with_reducible assumption) ?_
    | split | with_reducible apply SndCanon.mk
theorem State.takeAll_canon (s : State) (l : Launch) (unit : Nat) (x0 : Seats) (hcan : s.Canon) : SndCanon (s.takeAll l unit x0) := by
  induction x0 generalizing s with
  | nil => exact hcan
  | cons a l ih =>
    unfold State.takeAll
    repeat' first
      | with_reducible first
        | assumption | apply State.freeWindow_canon | apply State.takeWindows_canon | apply ih
        | refine SndCanon.of_eq (by with_reducible assumption) ?_
      | split | with_reducible apply SndCanon.mk
theorem State.readCode_canon (s : State) (l : Launch) (k : Nat) (hcan : s.Canon) : SndCanon (s.readCode l k) := by
  unfold State.readCode
  repeat' with_reducible first
    | assumption | apply State.seqRead_canon
theorem State.readCodes_canon (s : State) (l : Launch) (x0 : List Nat) (hcan : s.Canon) : SndCanon (s.readCodes l x0) := by
  induction x0 generalizing s with
  | nil => exact hcan
  | cons a l ih =>
    unfold State.readCodes
    repeat' first
      | with_reducible first
        | assumption | apply State.readCode_canon | apply ih | refine SndCanon.of_eq (by with_reducible assumption) ?_
      | split | with_reducible apply SndCanon.mk
theorem State.loadCode_canon (s : State) (core : Nat) (b : Bool) (code : List Byte) (hcan : s.Canon) :
    (s.loadCode core b code).Canon := by
  unfold State.loadCode
  repeat' with_reducible first
    | assumption | apply State.modTile_canon
theorem State.seatTask_canon (s : State) (core : Nat) (b : Bool) (x : Stream) (queues : Bool) (hcan : s.Canon) :
    (s.seatTask core b x queues).Canon := by
  unfold State.seatTask
  repeat' with_reducible first
    | assumption | apply State.canon_ite | apply State.setStream_canon | apply State.modStream_canon | apply State.modTile_canon
theorem State.loadTask_canon (s : State) (l : Launch) (unit k core : Nat) (b : Bool) (w : Bases) (code : List Byte) (hcan : s.Canon) :
    (s.loadTask l unit k core b w code).Canon := by
  unfold State.loadTask
  repeat' with_reducible first
    | assumption | apply State.canon_ite | apply State.modTile_canon | apply State.freshPages_canon | apply State.loadCode_canon
    | apply State.seatTask_canon
theorem State.loadTasks_canon (s : State) (l : Launch) (unit : Nat) (ps : Seats) (ws : List Bases) (codes : List (List Byte))
    (hcan : s.Canon) : (s.loadTasks l unit ps ws codes).Canon := by
  unfold State.loadTasks
  repeat' with_reducible first
    | assumption | intro _ | apply State.loadTask_canon | apply State.canon_foldl
theorem State.askReady_canon (s : State) (q n unit : Nat) (ds : List Nat) (hcan : s.Canon) : (s.askReady q n unit ds).Canon := by
  unfold State.askReady
  repeat' with_reducible first
    | assumption | apply State.post_canon
theorem State.launchGang_canon (s : State) (l : Launch) (hcan : s.Canon) : (s.launchGang l).Canon := by
  unfold State.launchGang
  repeat' first
    | with_reducible first
      | assumption | intro _ | apply State.note_canon | apply State.modLaunch_canon | apply State.freeWindow_canon
      | apply State.closeLaunch_canon | apply State.failLaunch_canon | apply State.passed_canon | apply State.hasPlaced_canon
      | apply State.takeAll_canon | apply State.readCodes_canon | apply State.loadTasks_canon | apply State.askReady_canon
      | apply State.canon_foldl | refine SndCanon.of_eq (by with_reducible assumption) ?_
    | dsimp only | split
theorem State.bringItems_canon (s : State) (l : Launch) (core : Nat) (x0 : List SashItem) (hcan : s.Canon) :
    SndCanon (s.bringItems l core x0) := by
  induction x0 generalizing s with
  | nil => exact hcan
  | cons a l ih =>
    unfold State.bringItems
    repeat' first
      | with_reducible first
        | assumption | apply SndCanon.ite | apply State.makeRoom_canon | apply State.startBring_canon | apply ih
        | refine SndCanon.of_eq (by with_reducible assumption) ?_
      | dsimp only | split | with_reducible apply SndCanon.mk
theorem State.attachItems_canon (s : State) (l : Launch) (st : StreamId) (es : List SashItem) (hcan : s.Canon) :
    (s.attachItems l st es).Canon := by
  unfold State.attachItems
  repeat' first
    | with_reducible first
      | assumption | intro _ | apply State.canon_ite | apply State.modStream_canon | apply State.attach_canon | apply State.canon_foldl
    | dsimp only | split
theorem State.sashFail_canon (s : State) (l : Launch) (p : Placed) (hcan : s.Canon) : (s.sashFail l p).Canon := by
  unfold State.sashFail
  repeat' with_reducible first
    | assumption | intro _ | apply State.canon_ite | apply State.modStream_canon | apply State.releaseSash_canon
    | apply State.failLaunch_canon | apply State.canon_foldl
theorem State.dieReady_canon (s : State) (l : Launch) (p : Placed) (d : Nat) (hcan : s.Canon) : (s.dieReady l p d).Canon := by
  rw [State.dieReady]
  have h : ∀ (f : Option Bool × State → Nat × StreamId → Option Bool × State) (ms : List (Nat × StreamId))
      (x : Option Bool × State), SndCanon x →
      (∀ r m, SndCanon r → SndCanon (f r m)) → SndCanon (ms.foldl f x) := fun _ _ _ h k => SndCanon.foldl h k
  have h := h (fun r m => match r with
      | (none, s) => (none, s)
      | (some ok, s) =>
        if !(s.stream m.2).attached.isEmpty then (some ok, s)
        else match s.bringItems l m.2.tileOf (l.copy.sashList.filter fun e => e.task = m.1) with
          | (some true, s) => (some ok, s.attachItems l m.2 (l.copy.sashList.filter fun e => e.task = m.1))
          | (some false, s) => (some false, s)
          | (none, s) => (none, s)) (s.stagedOn p d) (some true, s) hcan (by
    rintro ⟨_ | ok, t⟩ m h
    · exact h
    · refine SndCanon.ite h ?_
      have h := State.bringItems_canon t l m.2.tileOf (l.copy.sashList.filter fun e => e.task = m.1) h
      generalize t.bringItems l m.2.tileOf (l.copy.sashList.filter fun e => e.task = m.1) = x at h ⊢
      obtain ⟨_ | _ | _, u⟩ := x
      · exact h
      · exact h
      · exact State.attachItems_canon _ _ _ _ h)
  dsimp only
  generalize List.foldl _ (some true, s) (s.stagedOn p d) = x at h ⊢
  obtain ⟨_ | _ | _, t⟩ := x
  · exact State.sashFail_canon _ _ _ h
  · exact h
  · exact State.modPlaced_canon _ _ _ _ _ h
theorem State.releaseTask_canon (s : State) (l : Launch) (st : StreamId) (hcan : s.Canon) : (s.releaseTask l st).Canon := by
  unfold State.releaseTask
  repeat' with_reducible first
    | assumption | apply State.canon_ite | apply State.setStream_canon | apply State.modTile_canon | apply State.acquire_canon
theorem State.dropDependent_canon (s : State) (core : Nat) (c : Rec) (names : List Word) (hcan : s.Canon) :
    (s.dropDependent core c names).Canon := by
  unfold State.dropDependent
  repeat' with_reducible first
    | assumption | intro _ | apply State.unpark_canon | apply State.canon_foldl
theorem State.requeue_canon (s : State) (st : StreamId) (j : Job) (l : Launch) (hcan : s.Canon) : (s.requeue st j l).Canon := by
  unfold State.requeue
  repeat' with_reducible first
    | assumption | intro _ | apply State.canon_ite | apply State.modSched_canon | apply State.note_canon | apply State.releaseAll_canon
    | apply State.modLaunch_canon | apply State.noteWaiting_canon | apply State.modPlaced_canon | apply State.leave_canon
    | apply State.leaveGroup_canon | apply State.dropDependent_canon | apply State.wbDrain_canon | apply State.canon_foldl
theorem State.haltUnit_canon (s : State) (st : StreamId) (hcan : s.Canon) : (s.haltUnit st).Canon := by
  unfold State.haltUnit
  repeat' with_reducible first
    | assumption | intro _ | apply State.halt_canon | apply State.canon_foldl
theorem State.taskEnds_canon (s : State) (st : StreamId) (again : Bool) (code : BitVec 8) (hcan : s.Canon) :
    (s.taskEnds st again code).Canon := by
  unfold State.taskEnds
  repeat' first
    | with_reducible first
      | assumption | apply State.canon_ite | apply State.modSched_canon | apply State.failLaunch_canon | apply State.requeue_canon
      | apply State.haltUnit_canon
    | dsimp only | split
theorem State.relaunchTask_canon (s : State) (l : Launch) (j : Job) (core : Option Nat) (hcan : s.Canon) :
    (s.relaunchTask l j core).Canon := by
  unfold State.relaunchTask
  repeat' first
    | with_reducible first
      | assumption | intro _ | apply State.modSched_canon | apply State.note_canon | apply State.yieldSlot_canon
      | apply State.freeWindow_canon | apply State.closeLaunch_canon | apply State.failLaunch_canon | apply State.modPlaced_canon
      | apply State.takeAll_canon | apply State.readCodes_canon | apply State.loadTasks_canon | apply State.askReady_canon
      | apply State.canon_foldl | refine SndCanon.of_eq (by with_reducible assumption) ?_
    | dsimp only | split
theorem State.relaunchGroup_canon (s : State) (l : Launch) (j : Job) (hcan : s.Canon) : (s.relaunchGroup l j).Canon := by
  unfold State.relaunchGroup
  repeat' first
    | with_reducible first
      | assumption | apply State.modSched_canon | apply State.yieldSlot_canon | apply State.closeLaunch_canon
      | apply State.failLaunch_canon | apply State.primOf_canon | apply State.tryGroup_canon | apply State.turnTaken_canon
      | apply State.hasPlaced_canon | refine SndCanon.of_eq (by with_reducible assumption) ?_
      | refine OptCanon.of_eq (by with_reducible assumption) ?_
    | split
theorem State.relaunch_canon (s : State) (q : Nat) (hcan : s.Canon) : (s.relaunch q).Canon := by
  unfold State.relaunch
  repeat' first
    | with_reducible first
      | assumption | apply State.canon_ite | apply State.relaunchTask_canon | apply State.relaunchGroup_canon
    | dsimp only | split
theorem State.park_canon (s : State) (l : Launch) (core : Nat) (hcan : s.Canon) : (s.park l core).Canon := by
  unfold State.park
  repeat' first
    | with_reducible first
      | assumption | apply State.modTile_canon | apply State.modSched_canon | apply State.note_canon | apply State.modLaunch_canon
      | apply State.freeWindow_canon | apply State.closeLaunch_canon | apply State.failLaunch_canon | apply State.passed_canon
      | apply State.takeWindows_canon | apply State.readCode_canon | refine SndCanon.of_eq (by with_reducible assumption) ?_
    | dsimp only | split
theorem State.stageParked_canon (s : State) (core : Nat) (hcan : s.Canon) : (s.stageParked core).Canon := by
  unfold State.stageParked
  repeat' first
    | with_reducible assumption | with_reducible refine SndCanon.snd (State.bringItems_canon _ _ _ _ ?_) | split
theorem State.startParked_canon (s : State) (p : Parked) (l : Launch) (b : Bool) (hcan : s.Canon) : (s.startParked p l b).Canon := by
  unfold State.startParked
  repeat' with_reducible first
    | assumption | apply State.canon_ite | apply State.modTile_canon | apply State.modSched_canon | apply State.freshPages_canon
    | apply State.modPlaced_canon | apply State.seatTask_canon | apply State.askReady_canon

/-! ## Preempt -/

theorem State.askPreempt_canon (s : State) (st : StreamId) (r : Requester) (hcan : s.Canon) : (s.askPreempt st r).Canon := by
  unfold State.askPreempt
  repeat' first
    | with_reducible first
      | assumption | intro _ | apply State.canon_ite | apply State.modStream_canon | apply State.modLaunch_canon | apply State.canon_foldl
    | split
theorem State.leaveSaved_canon (s : State) (st : StreamId) (hcan : s.Canon) : (s.leaveSaved st).Canon := by
  rw [State.leaveSaved]
  split
  · refine State.canon_ite (State.canon_mk (State.Canon.mem ?_)) (State.setStream_canon _ _ _ ?_)
    all_goals exact State.modSched_canon _ _ (State.putPhysBytes_canon _ _ _ (State.putPhysBytes_canon _ _ _ hcan))
  · exact hcan
theorem State.save_canon (s : State) (st : StreamId) (hcan : s.Canon) : (s.save st).Canon := by
  unfold State.save
  repeat' first
    | with_reducible first
      | assumption | apply State.canon_ite | apply State.setStream_canon | apply State.modTile_canon | apply State.modSched_canon
      | apply State.note_canon | apply State.clearReservations_canon | apply State.putPhysBytes_canon | apply State.wbDrain_canon
      | apply State.settle_canon | apply State.noteWaiting_canon | apply State.modPlaced_canon | apply State.leaveSaved_canon
    | dsimp only | split
theorem State.bringBack_canon (s : State) (a : SaveArea) (b : Bool) (hcan : s.Canon) : (s.bringBack a b).Canon := by
  unfold State.bringBack
  repeat' first
    | with_reducible first
      | assumption | apply State.setStream_canon | apply State.modTile_canon | apply State.modSched_canon | apply State.picked_canon
      | apply State.note_canon | apply State.modLaunch_canon | apply State.showLaunch_canon | apply State.yieldSlot_canon
      | apply State.modPlaced_canon | apply State.dropSaved_canon | apply State.readCode_canon | apply State.loadCode_canon
      | refine SndCanon.of_eq (by with_reducible assumption) ?_
    | dsimp only | split
theorem State.restore_canon (s : State) (q area : Nat) (hcan : s.Canon) : (s.restore q area).Canon := by
  unfold State.restore
  repeat' first
    | with_reducible first
      | assumption | intro _ | apply State.canon_ite | apply State.bringBack_canon | apply State.canon_foldl
    | dsimp only | split
theorem State.endGroups_canon (s : State) (q n : Nat) (l : Launch) (hcan : s.Canon) : (s.endGroups q n l).Canon := by
  unfold State.endGroups
  repeat' first
    | with_reducible first
      | assumption | intro _ | apply State.canon_ite | apply State.failLaunch_canon | apply State.haltUnit_canon | apply State.canon_foldl
    | split

/-! ## Host -/

theorem State.answer_canon (s : State) (d : Bool) (a : Submission) (hcan : s.Canon) : (s.answer d a).Canon := by
  unfold State.answer
  repeat' with_reducible first
    | assumption | apply State.modPort_canon
theorem State.doneTrigger_canon (s : State) (n : Nat) (t : Trigger) (hcan : s.Canon) : (s.doneTrigger n t).Canon := by
  unfold State.doneTrigger
  repeat' with_reducible first
    | assumption | intro _ | apply State.modMem_canon
theorem State.lostTrigger_canon (s : State) (n : Nat) (t : Trigger) (hcan : s.Canon) : (s.lostTrigger n t).Canon := by
  unfold State.lostTrigger
  repeat' with_reducible first
    | assumption | apply State.note_canon | apply State.doneTrigger_canon
theorem State.credit_canon (s : State) (n : Nat) (t : Trigger) (hcan : s.Canon) : (s.credit n t).Canon := by
  unfold State.credit
  repeat' first
    | with_reducible first
      | assumption | apply State.canon_ite | apply State.putQ_canon | apply State.doneTrigger_canon | apply State.lostTrigger_canon
      | apply State.lookQueue_canon
    | dsimp only | split
theorem State.sendUli_canon (s : State) (n : Nat) (t : Trigger) (hcan : s.Canon) : (s.sendUli n t).Canon := by
  rw [State.sendUli]
  refine State.canon_ite (State.lostTrigger_canon _ _ _ hcan) ?_
  split
  · exact State.canon_ite hcan (State.doneTrigger_canon _ _ _ (State.modStream_canon _ _ _ hcan))
  · exact State.canon_ite hcan (State.doneTrigger_canon _ _ _ (State.canon_mk (State.Canon.mem
      (State.putPhysBytes_canon _ _ _ (State.modSched_canon _ _ hcan)))))
  · exact State.lostTrigger_canon _ _ _ hcan
theorem State.blobPages_canon (s : State) (asid : BitVec 16) (b : Blob) (off n : Nat) (wr : Bool) (hcan : s.Canon) :
    SndCanon (s.blobPages asid b off n wr) := by
  unfold State.blobPages
  repeat' with_reducible first
    | assumption | apply State.seqPages_canon
theorem State.appendBlob_canon (s : State) (d : Bool) (a : BitVec 16) (q : Nat) (b : Blob) (off : Nat) (hcan : s.Canon) :
    (s.appendBlob d a q b off).Canon := by
  rw [State.appendBlob]
  have h := State.blobPages_canon s a b off 256 false hcan
  generalize s.blobPages a b off 256 false = w at h ⊢
  obtain ⟨e | ps, t⟩ := w
  · exact State.answer_canon _ _ _ h
  · have h := State.readThrough_canon t 5 ps (b.addr.toNat + off) 256 h
    dsimp only
    generalize t.readThrough 5 ps (b.addr.toNat + off) 256 = p at h ⊢
    obtain ⟨l, u⟩ := p
    exact State.answer_canon _ _ _ (State.appendRecord_canon _ _ _ h)
theorem State.dropHostAgent_canon (s : State) (d : Bool) (hcan : s.Canon) : (s.dropHostAgent d).Canon := by
  unfold State.dropHostAgent
  repeat' with_reducible first
    | assumption | intro _ | apply State.modMem_canon | apply State.loseLine_canon | apply State.notice_canon | apply State.canon_foldl
theorem State.portDown_canon (s : State) (d : Bool) (hcan : s.Canon) : (s.portDown d).Canon := by
  unfold State.portDown
  repeat' with_reducible first
    | assumption | apply State.post_canon | apply State.note_canon | apply State.raiseSource_canon | apply State.ctrAdd_canon
    | apply State.modPort_canon
theorem State.nakSeen_canon (s : State) (p : Nat) (hcan : s.Canon) : (s.nakSeen p).Canon := by
  unfold State.nakSeen
  repeat' with_reducible first
    | assumption | apply State.canon_ite | apply State.row_canon | apply State.modLink_canon
theorem State.takeFlit_canon (s : State) (p : Nat) (f : List Byte) (hcan : s.Canon) : (s.takeFlit p f).Canon := by
  unfold State.takeFlit
  repeat' with_reducible first
    | assumption | apply State.canon_ite | apply State.note_canon | apply State.modLink_canon | apply State.nakSeen_canon
theorem State.linkDown_canon (s : State) (p : Nat) (hcan : s.Canon) : (s.linkDown p).Canon := by
  unfold State.linkDown
  repeat' first
    | with_reducible first
      | assumption | apply State.note_canon | apply State.raiseSource_canon | apply State.modLink_canon
    | dsimp only | split
theorem State.linkSend_canon (s : State) (p : Nat) (hcan : s.Canon) : (s.linkSend p).Canon := by
  unfold State.linkSend
  repeat' with_reducible first
    | assumption | apply State.modLink_canon
theorem State.linkUse_canon (s : State) (p v : Nat) (hcan : s.Canon) : (s.linkUse p v).Canon := by
  unfold State.linkUse
  repeat' first
    | with_reducible first
      | assumption | apply State.canon_ite | apply State.modLink_canon
    | dsimp only | split
theorem State.restart_canon (s : State) (hcan : s.Canon) : (s.restart).Canon := by
  unfold State.restart
  repeat' first
    | dsimp only | (show Mem.wf _ = true; exact hcan)
theorem State.configure_canon (s : State) (hcan : s.Canon) : (s.configure).Canon := by
  unfold State.configure
  repeat' first
    | with_reducible first
      | assumption | intro _ | apply State.modCommon_canon | apply State.modMem_canon | apply State.ctlWrite_canon
      | apply State.canon_foldl
    | split
theorem State.bootNote_canon (s : State) (k : Nat) (hcan : s.Canon) : (s.bootNote k).Canon := by
  unfold State.bootNote
  repeat' with_reducible first
    | assumption | apply State.note_canon
theorem State.bootRun_canon (s : State) (hcan : s.Canon) : (s.bootRun).Canon := by
  unfold State.bootRun
  repeat' with_reducible first
    | assumption | intro _ | apply State.canon_ite | apply State.setStream_canon | apply State.modEdge_canon | apply State.note_canon
    | apply State.modLink_canon | apply State.configure_canon | apply State.bootNote_canon | apply State.canon_foldl
theorem State.bootUp_canon (s : State) (hcan : s.Canon) : (s.bootUp).Canon := by
  unfold State.bootUp
  repeat' with_reducible first
    | assumption | apply State.canon_ite | apply State.modEdge_canon | apply State.note_canon | apply State.restart_canon
    | apply State.bootNote_canon | apply State.bootRun_canon
theorem State.setSteps_canon (s : State) (d : Bool) (n : Nat) (hcan : s.Canon) : (s.setSteps d n).Canon := by
  unfold State.setSteps
  repeat' with_reducible first
    | assumption | intro _ | apply State.modCommon_canon | apply State.modEdge_canon | apply State.canon_foldl

/-! ## Plan -/

theorem planOf_canon (i : Instr) (s : State) : (planOf i s).Keeps := by
  cases i
  case nop => exact planNop_canon s
  case add o => exact planAdd_canon o s
  case sub o => exact planSub_canon o s
  case mul o => exact planMul_canon o s
  case mulh o => exact planMulh_canon o s
  case mulhn o => exact planMulhn_canon o s
  case div o => exact planDiv_canon o s
  case divn o => exact planDivn_canon o s
  case rem o => exact planRem_canon o s
  case remn o => exact planRemn_canon o s
  case and o => exact planAnd_canon o s
  case or o => exact planOr_canon o s
  case xor o => exact planXor_canon o s
  case andn o => exact planAndn_canon o s
  case shl o => exact planShl_canon o s
  case shr o => exact planShr_canon o s
  case sar o => exact planSar_canon o s
  case rol o => exact planRol_canon o s
  case min o => exact planMin_canon o s
  case minn o => exact planMinn_canon o s
  case max o => exact planMax_canon o s
  case maxn o => exact planMaxn_canon o s
  case clz o => exact planClz_canon o s
  case ctz o => exact planCtz_canon o s
  case popc o => exact planPopc_canon o s
  case sext o => exact planSext_canon o s
  case zext o => exact planZext_canon o s
  case bfx o => exact planBfx_canon o s
  case bfi o => exact planBfi_canon o s
  case sel o => exact planSel_canon o s
  case li o => exact planLi_canon o s
  case lih o => exact planLih_canon o s
  case cmp o => exact planCmp_canon o s
  case plog o => exact planPlog_canon o s
  case pmov o => exact planPmov_canon o s
  case pmovHToS o => exact planPmovHToS_canon o s
  case pmovHFromS o => exact planPmovHFromS_canon o s
  case pmovB o => exact planPmovB_canon o s
  case fadd o => exact planFadd_canon o s
  case fsub o => exact planFsub_canon o s
  case fmul o => exact planFmul_canon o s
  case fdiv o => exact planFdiv_canon o s
  case fsqrt o => exact planFsqrt_canon o s
  case ffma o => exact planFfma_canon o s
  case fcmp o => exact planFcmp_canon o s
  case fcvt o => exact planFcvt_canon o s
  case fminmax o => exact planFminmax_canon o s
  case bru o => exact planBru_canon o s
  case jmp o => exact planJmp_canon o s
  case call o => exact planCall_canon o s
  case ret o => exact planRet_canon o s
  case loop o => exact planLoop_canon o s
  case brk o => exact planBrk_canon o s
  case brl o => exact planBrl_canon o s
  case jmpl o => exact planJmpl_canon o s
  case calll o => exact planCalll_canon o s
  case retl o => exact planRetl_canon o s
  case join o => exact planJoin_canon o s
  case yieldp o => exact planYieldp_canon o s
  case csrr o => exact planCsrr_canon o s
  case csrw o => exact planCsrw_canon o s
  case csrs o => exact planCsrs_canon o s
  case csrc o => exact planCsrc_canon o s
  case sysc o => exact planSysc_canon o s
  case trap o => exact planTrap_canon o s
  case eret o => exact planEret_canon o s
  case uret o => exact planUret_canon o s
  case wfi o => exact planWfi_canon o s
  case halt o => exact planHalt_canon o s
  case brkpt o => exact planBrkpt_canon o s
  case tlbi o => exact planTlbi_canon o s
  case cmaint o => exact planCmaint_canon o s
  case mts o => exact planMts_canon o s
  case mfs o => exact planMfs_canon o s
  case mtq o => exact planMtq_canon o s
  case evadd o => exact planEvadd_canon o s
  case evld o => exact planEvld_canon o s
  case evarm o => exact planEvarm_canon o s
  case evwait o => exact planEvwait_canon o s
  case lea o => exact planLea_canon o s
  case addpc o => exact planAddpc_canon o s
  case wid o => exact planWid_canon o s
  case vnop => exact planVnop_canon s
  case vadd o => exact planVadd_canon o s
  case vsub o => exact planVsub_canon o s
  case vmul o => exact planVmul_canon o s
  case vmulh o => exact planVmulh_canon o s
  case vmad o => exact planVmad_canon o s
  case vabs o => exact planVabs_canon o s
  case vneg o => exact planVneg_canon o s
  case vmin o => exact planVmin_canon o s
  case vmax o => exact planVmax_canon o s
  case vadds o => exact planVadds_canon o s
  case vsubs o => exact planVsubs_canon o s
  case vavg o => exact planVavg_canon o s
  case vsad o => exact planVsad_canon o s
  case vand o => exact planVand_canon o s
  case vor o => exact planVor_canon o s
  case vxor o => exact planVxor_canon o s
  case vandn o => exact planVandn_canon o s
  case vshl o => exact planVshl_canon o s
  case vshr o => exact planVshr_canon o s
  case vsar o => exact planVsar_canon o s
  case vclz o => exact planVclz_canon o s
  case vpopc o => exact planVpopc_canon o s
  case vbfx o => exact planVbfx_canon o s
  case vbfi o => exact planVbfi_canon o s
  case vbsel o => exact planVbsel_canon o s
  case vfadd o => exact planVfadd_canon o s
  case vfsub o => exact planVfsub_canon o s
  case vfmul o => exact planVfmul_canon o s
  case vffma o => exact planVffma_canon o s
  case vfmin o => exact planVfmin_canon o s
  case vfmax o => exact planVfmax_canon o s
  case vrcp o => exact planVrcp_canon o s
  case vrsq o => exact planVrsq_canon o s
  case vsqrt o => exact planVsqrt_canon o s
  case vexp2 o => exact planVexp2_canon o s
  case vlog2 o => exact planVlog2_canon o s
  case vsin o => exact planVsin_canon o s
  case vcos o => exact planVcos_canon o s
  case vtanh o => exact planVtanh_canon o s
  case vcvt o => exact planVcvt_canon o s
  case vquant o => exact planVquant_canon o s
  case vdeq o => exact planVdeq_canon o s
  case vcmp o => exact planVcmp_canon o s
  case vsel o => exact planVsel_canon o s
  case vplog o => exact planVplog_canon o s
  case vpcnt o => exact planVpcnt_canon o s
  case vpfirst o => exact planVpfirst_canon o s
  case vpany o => exact planVpany_canon o s
  case vtbl o => exact planVtbl_canon o s
  case vperm o => exact planVperm_canon o s
  case vslide o => exact planVslide_canon o s
  case vshfl o => exact planVshfl_canon o s
  case vbcast o => exact planVbcast_canon o s
  case vext o => exact planVext_canon o s
  case vins o => exact planVins_canon o s
  case vzip o => exact planVzip_canon o s
  case vunzip o => exact planVunzip_canon o s
  case vredadd o => exact planVredadd_canon o s
  case vredmin o => exact planVredmin_canon o s
  case vredmax o => exact planVredmax_canon o s
  case vredlog o => exact planVredlog_canon o s
  case vscan o => exact planVscan_canon o s
  case vfredadd o => exact planVfredadd_canon o s
  case vmov o => exact planVmov_canon o s
  case vmovS o => exact planVmovS_canon o s
  case vli o => exact planVli_canon o s
  case vlane o => exact planVlane_canon o s
  case lnop => exact planLnop_canon s
  case ld o => exact planLd_canon o s
  case vld o => exact planVld_canon o s
  case vlds o => exact planVlds_canon o s
  case vldg o => exact planVldg_canon o s
  case tld o => exact planTld_canon o s
  case gld o => exact planGld_canon o s
  case ldx o => exact planLdx_canon o s
  case lpf o => exact planLpf_canon o s
  case amadd o => exact planAmadd_canon o s
  case ammin o => exact planAmmin_canon o s
  case ammax o => exact planAmmax_canon o s
  case amand o => exact planAmand_canon o s
  case amor o => exact planAmor_canon o s
  case amxor o => exact planAmxor_canon o s
  case amswp o => exact planAmswp_canon o s
  case amcas o => exact planAmcas_canon o s
  case amfadd o => exact planAmfadd_canon o s
  case aminc o => exact planAminc_canon o s
  case wnop => exact planWnop_canon s
  case st o => exact planSt_canon o s
  case vst o => exact planVst_canon o s
  case vsts o => exact planVsts_canon o s
  case vsct o => exact planVsct_canon o s
  case tst o => exact planTst_canon o s
  case gst o => exact planGst_canon o s
  case stx o => exact planStx_canon o s
  case cadd o => exact planCadd_canon o s
  case cwb o => exact planCwb_canon o s
  case mnop => exact planMnop_canon s
  case mma o => exact planMma_canon o s
  case mmas o => exact planMmas_canon o s
  case mzero o => exact planMzero_canon o s
  case mdrain o => exact planMdrain_canon o s
  case mlaccSave o => exact planMlaccSave_canon o s
  case mlaccLoad o => exact planMlaccLoad_canon o s
  case wvmac o => exact planWvmac_canon o s
  case cnop => exact planCnop_canon s
  case copy o => exact planCopy_canon o s
  case gath o => exact planGath_canon o s
  case scat o => exact planScat_canon o s
  case qbcast o => exact planQbcast_canon o s
  case pfb o => exact planPfb_canon o s
  case drop o => exact planDrop_canon o s
  case coll o => exact planColl_canon o s
  case xsort o => exact planXsort_canon o s
  case tmoveMove o => exact planTmoveMove_canon o s
  case tmoveEvict o => exact planTmoveEvict_canon o s
  case tqpush o => exact planTqpush_canon o s
  case rlaunch o => exact planRlaunch_canon o s
  case rtrace o => exact planRtrace_canon o s
  case qfence o => exact planQfence_canon o s
  case sopen o => exact planSopen_canon o s
  case sopenEvicted o => exact planSopenEvicted_canon o s
  case satt o => exact planSatt_canon o s
  case srel o => exact planSrel_canon o s
  case sevict o => exact planSevict_canon o s
  case sdrop o => exact planSdrop_canon o s
  case ynop => exact planYnop_canon s
  case bar o => exact planBar_canon o s
  case barphArrive o => exact planBarphArrive_canon o s
  case barphWait o => exact planBarphWait_canon o s
  case fence o => exact planFence_canon o s
  case tkwait o => exact planTkwait_canon o s
  case tktest o => exact planTktest_canon o s
  case flagw o => exact planFlagw_canon o s
  case flagset o => exact planFlagset_canon o s
  case ulien o => exact planUlien_canon o s
  all_goals exact Plan.keeps_mk Keeps.id Keeps.id Keeps.id Reach.keeps_ok

/-! ## Issue -/

theorem State.icFill_canon (s : State) (st : StreamId) (va : Nat) (x : Xl) (hcan : s.Canon) : (s.icFill st va x).Canon := by
  unfold State.icFill
  repeat' first
    | with_reducible first
      | assumption | apply State.modCommon_canon | apply State.agentRead_canon | apply State.toHome_canon | apply State.classed_canon
      | apply State.poisonCheck_canon
    | dsimp only | split
theorem State.show__canon (s : State) (st : StreamId) (lanes : Lanes) (pc : Word) (b : Bundle) (hcan : s.Canon) :
    (s.show_ st lanes pc b).Canon := by
  unfold State.show_
  repeat' (show Mem.wf _ = true; exact hcan)
theorem State.planSlot_canon (s : State) (e : Slot × Option Instr) : (s.planSlot e).Keeps := by
  unfold State.planSlot
  obtain ⟨sl, _ | i⟩ := e
  · exact Plan.keeps_mk Keeps.id Keeps.id Keeps.id Reach.keeps_ok
  · exact planOf_canon _ _
theorem State.plansOf_canon (s : State) (ops : List (Slot × Option Instr)) : ∀ p ∈ (s.plansOf ops).1, p.Keeps := by
  have k : ∀ (l : List (Slot × Option Instr)) (r : List Plan × Nat), (∀ p ∈ r.1, p.Keeps) →
      ∀ p ∈ (l.foldl (fun (r : List Plan × Nat) (e : Slot × Option Instr) =>
        let p := ({ s with iss := { s.iss with srBase := s.iss.srBase + r.2 } } : State).planSlot e
        (r.1 ++ [p], r.2 + b2n p.sr)) r).1, p.Keeps := by
    intro l
    induction l with
    | nil => exact fun _ h => h
    | cons e t ih =>
      intro r h
      refine ih _ fun p hp => ?_
      rcases List.mem_append.mp hp with hp | hp
      · exact h p hp
      · rw [List.mem_singleton.mp hp]
        exact State.planSlot_canon _ _
  exact k ops _ fun _ h => nomatch h
/-- What a fetch asks for keeps the form. -/
theorem State.fetch_ask {s : State} {st : StreamId} {pc : Word} {f : State → State} (e : s.fetch st pc = .ask f) : Keeps f := by
  unfold State.fetch at e
  dsimp only at e
  repeat' split at e
  all_goals cases e
  · exact fun _ h => State.icFill_canon _ _ _ _ h
  · exact fun _ h => State.askWalk_canon _ _ _ _ _ h
theorem State.present_canon (s : State) (st : StreamId) (lanes : Lanes) (pc : Word) (hcan : s.Canon) : (s.present st lanes pc).s.Canon := by
  unfold State.present
  split <;> exact State.show__canon _ _ _ _ _ hcan
theorem State.present_plans (s : State) (st : StreamId) (lanes : Lanes) (pc : Word) : ∀ p ∈ (s.present st lanes pc).plans, p.Keeps := by
  unfold State.present
  split
  · exact State.plansOf_canon _ _
  · exact fun _ h => nomatch h
  · exact fun _ h => nomatch h
theorem State.presentPair_canon (s : State) (st : StreamId) (a b : Word × Lanes) (hcan : s.Canon) :
    ((s.presentPair st a b).1.s.Canon ∧ ∀ p ∈ (s.presentPair st a b).1.plans, p.Keeps) ∧
      (s.presentPair st a b).2.s.Canon ∧ ∀ p ∈ (s.presentPair st a b).2.plans, p.Keeps := by
  refine ⟨⟨State.present_canon _ _ _ _ hcan, fun p hp => ?_⟩, State.canon_mk (State.Canon.mem (State.present_canon _ st b.2 b.1 hcan)),
    State.plansOf_canon _ _⟩
  obtain ⟨q, hq, rfl⟩ := List.mem_map.mp hp
  exact Plan.judgedAfter_canon _ _ _ (State.present_plans _ _ _ _ q hq)
theorem State.ready_canon (s : State) (st : StreamId) (lanes : Lanes) (pc : Word) (hcan : s.Canon) : (s.ready st lanes pc).Canon := by
  unfold State.ready
  split
  · next e => exact State.fetch_ask e _ (State.show__canon _ _ _ _ _ hcan)
  · exact hcan
theorem State.turnTime_canon (s : State) (st : StreamId) (t : Turn) (hcan : s.Canon) : (s.turnTime st t).Canon := by
  unfold State.turnTime
  repeat' first
    | with_reducible first
      | assumption | apply State.canon_ite | apply State.modStream_canon | apply State.next_canon
    | split
theorem State.arrayClock_canon (s : State) (c : Nat) (hcan : s.Canon) : (s.arrayClock c).Canon := by
  unfold State.arrayClock
  repeat' first
    | with_reducible first
      | assumption | apply State.canon_ite | apply State.modTile_canon | apply State.row_canon
    | dsimp only | split
theorem State.stay_canon (s : State) (st : StreamId) (t : Turn) (hcan : s.Canon) : (s.stay st t).Canon := by
  have h := State.present_canon s st 0 (s.stream st).pc hcan
  unfold State.stay
  split
  · dsimp only
    split
    · exact hcan
    · exact State.raise_canon _ _ _ h
    · exact State.run_canon _ _ (State.present_plans _ _ _ _) h
  · exact hcan
theorem State.mergeClock_canon (s : State) (c : Nat) (hcan : s.Canon) : (s.mergeClock c).Canon := by
  unfold State.mergeClock
  repeat' with_reducible first
    | assumption | apply State.canon_ite | apply State.modStream_canon | apply State.modTile_canon | apply State.next_canon
    | apply State.turnTime_canon | apply State.arrayClock_canon | apply State.stay_canon
theorem State.passOut_canon (s : State) (c o : Nat) (hcan : s.Canon) : (s.passOut c o).Canon := by
  unfold State.passOut
  repeat' with_reducible first
    | assumption | apply State.modTile_canon
theorem State.gate_canon (s : State) (k : Nat) (g : Option (List MatRegion × List MatRegion × List Feed)) (hcan : s.Canon) :
    (s.gate k g).Canon := by
  unfold State.gate
  repeat' with_reducible first
    | assumption | intro _ | apply State.modTile_canon | apply State.canon_foldl
theorem State.coopClock_canon (s : State) (k : Nat) (hcan : s.Canon) : (s.coopClock k).Canon := by
  unfold State.coopClock
  repeat' first
    | with_reducible first
      | assumption | intro _ | apply State.canon_ite | apply State.modTile_canon | refine SndCanon.snd (State.readRegion_canon _ _ ?_)
      | apply State.gate_canon | refine SndCanon.snd (SndCanon.foldl ?_ ?_) | apply State.canon_foldl
      | exact SndCanon.snd (by with_reducible assumption)
    | dsimp only | split | with_reducible apply SndCanon.mk
theorem State.presentHeld_canon (s : State) (st : StreamId) (a : Word × Lanes) (hcan : s.Canon) : (s.presentHeld st a).Canon := by
  rw [State.presentHeld]
  have h := State.ready_canon s st a.2 a.1 hcan
  have k := State.run_canon _ _ (State.present_plans (s.ready st a.2 a.1) st a.2 a.1) (State.present_canon _ st a.2 a.1 h)
  split
  · exact h
  · exact k
  · exact k
  · exact h
theorem State.selectWave_canon (s : State) (c p : Nat) (hcan : s.Canon) : (s.selectWave c p).Canon := by
  unfold State.selectWave
  repeat' first
    | with_reducible first
      | assumption | intro _ | apply State.canon_ite | apply State.setStream_canon | apply State.modShader_canon | apply State.next_canon
      | apply State.presentHeld_canon | apply State.canon_foldl
    | dsimp only | split
theorem State.half_canon (s : State) (iss : Issue) (ps : List Plan) (k : ∀ p ∈ ps, p.Keeps) (hcan : s.Canon) :
    FstCanon (s.half iss ps) :=
  State.finish_canon _ (State.effects_canon _ _ k (State.canon_mk (State.Canon.mem hcan)))
theorem State.issueBoth_canon (s : State) (a b : Shown) (ka : ∀ p ∈ a.plans, p.Keeps) (kb : ∀ p ∈ b.plans, p.Keeps)
    (hcan : s.Canon) : (s.issueBoth a b).Canon := by
  rw [State.issueBoth]
  have h1 := State.half_canon s b.s.iss b.plans kb hcan
  generalize s.half b.s.iss b.plans = x at h1 ⊢
  obtain ⟨t, ib⟩ := x
  have h2 := State.half_canon t a.s.iss a.plans ka h1
  dsimp only
  generalize t.half a.s.iss a.plans = y at h2 ⊢
  obtain ⟨u, ia⟩ := y
  have h3 := State.finals_canon _ _ kb (State.canon_mk (State.Canon.mem h2) : ({ u with iss := ib } : State).Canon)
  exact State.flagged_canon _ (State.canon_mk (State.Canon.mem (State.flagged_canon _ (State.finals_canon _ _ ka
    (State.canon_mk (State.Canon.mem h3))))))
theorem State.pair_canon (s : State) (st : StreamId) (a b : Word × Lanes) (hcan : s.Canon) : (s.pair st a b).Canon := by
  rw [State.pair]
  have h := State.presentPair_canon s st a b hcan
  generalize s.presentPair st a b = x at h ⊢
  obtain ⟨pa, pb⟩ := x
  have k := fun (q : Word × Lanes) => State.run_canon _ _ (State.present_plans s st q.2 q.1) (State.present_canon _ st q.2 q.1 hcan)
  dsimp only at h ⊢
  split
  · exact State.raise_canon _ _ _ h.1.1
  · exact State.raise_canon _ _ _ h.2.1
  · exact State.issueBoth_canon _ _ _ h.1.2 h.2.2 hcan
  · exact k a
  · exact k b
theorem State.enter_canon (s : State) (st : StreamId) (a b : Option Word) (hcan : s.Canon) : FstCanon (s.enter st a b) := by
  unfold State.enter
  dsimp only
  refine FstCanon.ite hcan (FstCanon.ite hcan ?_)
  cases b with
  | some pb => exact State.pair_canon _ _ _ _ hcan
  | none =>
    dsimp only
    generalize (if st.isWave = true then (s.stream st).thr.path (a.getD (s.stream st).pc) else 0) = lanes
    generalize a.getD (s.stream st).pc = pc
    have hr := State.ready_canon s st lanes pc hcan
    generalize s.ready st lanes pc = r at hr ⊢
    have hp := State.present_canon r st lanes pc hr
    have kp := State.present_plans r st lanes pc
    generalize r.present st lanes pc = p at hp kp ⊢
    refine FstCanon.ite hr ?_
    have ht : ∀ f, (if st.isSuper then p.s.modCommon st.core f else p.s).Canon := fun f =>
      State.canon_ite (State.modCommon_canon _ _ _ hp) hp
    split
    · split
      · exact ht _
      · exact State.canon_mk (State.Canon.mem (ht _))
      · exact State.run_canon _ _ kp (ht _)
    · exact State.raise_canon _ _ _ (ht _)
    · exact hr
theorem State.eccError_canon (s : State) (st : StreamId) (kind : Nat) (place : Nat) (hcan : s.Canon) :
    (s.eccError st kind place).Canon := by
  unfold State.eccError
  repeat' with_reducible first
    | assumption | apply State.canon_ite | apply State.note_canon | apply State.endTask_canon | apply State.service_canon

/-! ## Clock -/

theorem State.tickTiles_canon (s : State) (hcan : s.Canon) : (s.tickTiles).Canon := by
  unfold State.tickTiles
  repeat' first
    | dsimp only | (show Mem.wf _ = true; exact hcan)
theorem State.tickLinks_canon (s : State) (hcan : s.Canon) : (s.tickLinks).Canon := by
  unfold State.tickLinks
  repeat' with_reducible first
    | assumption | intro _ | apply State.canon_ite | apply State.picked_canon | apply State.linkSend_canon | apply State.linkUse_canon
    | apply State.canon_foldl
theorem State.streamRecorder_canon (s : State) (d : Bool) (hcan : s.Canon) : (s.streamRecorder d).Canon := by
  unfold State.streamRecorder
  repeat' first
    | with_reducible first
      | assumption | apply State.canon_ite | apply State.modPort_canon
    | dsimp only
theorem State.tick_canon (s : State) (hcan : s.Canon) : (s.tick).Canon := by
  unfold State.tick
  repeat' first
    | with_reducible first
      | assumption | intro _ | apply State.modMem_canon | apply State.tickTiles_canon
    | dsimp only | split | (show Mem.wf _ = true; assumption)
    | (with_reducible apply State.canon_mk; with_reducible apply State.Canon.mem;
       with_reducible refine State.streamRecorder_canon _ _ (State.streamRecorder_canon _ _ (State.tickLinks_canon _ ?_)))
theorem State.tickShaders_canon (s : State) (hcan : s.Canon) : (s.tickShaders).Canon := by
  unfold State.tickShaders
  repeat' first
    | dsimp only | (show Mem.wf _ = true; exact hcan)
theorem State.tickSupers_canon (s : State) (hcan : s.Canon) : (s.tickSupers).Canon := by
  unfold State.tickSupers
  repeat' first
    | dsimp only | (show Mem.wf _ = true; exact hcan)
theorem State.coreClock_canon (s : State) (shader : Bool) (hcan : s.Canon) : (s.coreClock shader).Canon := by
  unfold State.coreClock
  repeat' with_reducible first
    | assumption | apply State.canon_ite | apply State.next_canon | apply State.tickShaders_canon | apply State.tickSupers_canon
theorem State.clockEdge_canon (s : State) (hcan : s.Canon) : (s.clockEdge).Canon := by
  unfold State.clockEdge
  repeat' with_reducible first
    | assumption | apply State.modSched_canon | apply State.next_canon | apply State.tick_canon

end Sys2Proof.Machine
end

