-- ==== Sys2Proof/Laws/CanonStep.lean ====
section
/-! SUPPORT. The canonical form of memory is kept by the rows and the step. -/

namespace Sys2Proof.Machine

/-! ## EXEC -/

theorem State.single_canon (s : State) (p : Plan) (k : p.Keeps) (h : s.Canon) : OutCanon (s.single p) :=
  OutCanon.next (State.run_canon _ _ (by simpa using k) h)
theorem execNop_canon (s : State) (h : s.Canon) : OutCanon (execNop s) :=
  State.single_canon _ _ (planNop_canon s) h
theorem execVnop_canon (s : State) (h : s.Canon) : OutCanon (execVnop s) :=
  State.single_canon _ _ (planVnop_canon s) h
theorem execLnop_canon (s : State) (h : s.Canon) : OutCanon (execLnop s) :=
  State.single_canon _ _ (planLnop_canon s) h
theorem execWnop_canon (s : State) (h : s.Canon) : OutCanon (execWnop s) :=
  State.single_canon _ _ (planWnop_canon s) h
theorem execMnop_canon (s : State) (h : s.Canon) : OutCanon (execMnop s) :=
  State.single_canon _ _ (planMnop_canon s) h
theorem execCnop_canon (s : State) (h : s.Canon) : OutCanon (execCnop s) :=
  State.single_canon _ _ (planCnop_canon s) h
theorem execYnop_canon (s : State) (h : s.Canon) : OutCanon (execYnop s) :=
  State.single_canon _ _ (planYnop_canon s) h
theorem execAdd_canon (o : SOp) (s : State) (h : s.Canon) : OutCanon (execAdd o s) :=
  State.single_canon _ _ (planAdd_canon o s) h
theorem execSub_canon (o : SOp) (s : State) (h : s.Canon) : OutCanon (execSub o s) :=
  State.single_canon _ _ (planSub_canon o s) h
theorem execMul_canon (o : SOp) (s : State) (h : s.Canon) : OutCanon (execMul o s) :=
  State.single_canon _ _ (planMul_canon o s) h
theorem execMulh_canon (o : SOp) (s : State) (h : s.Canon) : OutCanon (execMulh o s) :=
  State.single_canon _ _ (planMulh_canon o s) h
theorem execMulhn_canon (o : SOp) (s : State) (h : s.Canon) : OutCanon (execMulhn o s) :=
  State.single_canon _ _ (planMulhn_canon o s) h
theorem execDiv_canon (o : SOp) (s : State) (h : s.Canon) : OutCanon (execDiv o s) :=
  State.single_canon _ _ (planDiv_canon o s) h
theorem execDivn_canon (o : SOp) (s : State) (h : s.Canon) : OutCanon (execDivn o s) :=
  State.single_canon _ _ (planDivn_canon o s) h
theorem execRem_canon (o : SOp) (s : State) (h : s.Canon) : OutCanon (execRem o s) :=
  State.single_canon _ _ (planRem_canon o s) h
theorem execRemn_canon (o : SOp) (s : State) (h : s.Canon) : OutCanon (execRemn o s) :=
  State.single_canon _ _ (planRemn_canon o s) h
theorem execAnd_canon (o : SOp) (s : State) (h : s.Canon) : OutCanon (execAnd o s) :=
  State.single_canon _ _ (planAnd_canon o s) h
theorem execOr_canon (o : SOp) (s : State) (h : s.Canon) : OutCanon (execOr o s) :=
  State.single_canon _ _ (planOr_canon o s) h
theorem execXor_canon (o : SOp) (s : State) (h : s.Canon) : OutCanon (execXor o s) :=
  State.single_canon _ _ (planXor_canon o s) h
theorem execAndn_canon (o : SOp) (s : State) (h : s.Canon) : OutCanon (execAndn o s) :=
  State.single_canon _ _ (planAndn_canon o s) h
theorem execShl_canon (o : SOp) (s : State) (h : s.Canon) : OutCanon (execShl o s) :=
  State.single_canon _ _ (planShl_canon o s) h
theorem execShr_canon (o : SOp) (s : State) (h : s.Canon) : OutCanon (execShr o s) :=
  State.single_canon _ _ (planShr_canon o s) h
theorem execSar_canon (o : SOp) (s : State) (h : s.Canon) : OutCanon (execSar o s) :=
  State.single_canon _ _ (planSar_canon o s) h
theorem execRol_canon (o : SOp) (s : State) (h : s.Canon) : OutCanon (execRol o s) :=
  State.single_canon _ _ (planRol_canon o s) h
theorem execMin_canon (o : SOp) (s : State) (h : s.Canon) : OutCanon (execMin o s) :=
  State.single_canon _ _ (planMin_canon o s) h
theorem execMinn_canon (o : SOp) (s : State) (h : s.Canon) : OutCanon (execMinn o s) :=
  State.single_canon _ _ (planMinn_canon o s) h
theorem execMax_canon (o : SOp) (s : State) (h : s.Canon) : OutCanon (execMax o s) :=
  State.single_canon _ _ (planMax_canon o s) h
theorem execMaxn_canon (o : SOp) (s : State) (h : s.Canon) : OutCanon (execMaxn o s) :=
  State.single_canon _ _ (planMaxn_canon o s) h
theorem execClz_canon (o : SOp) (s : State) (h : s.Canon) : OutCanon (execClz o s) :=
  State.single_canon _ _ (planClz_canon o s) h
theorem execCtz_canon (o : SOp) (s : State) (h : s.Canon) : OutCanon (execCtz o s) :=
  State.single_canon _ _ (planCtz_canon o s) h
theorem execPopc_canon (o : SOp) (s : State) (h : s.Canon) : OutCanon (execPopc o s) :=
  State.single_canon _ _ (planPopc_canon o s) h
theorem execSext_canon (o : SOp) (s : State) (h : s.Canon) : OutCanon (execSext o s) :=
  State.single_canon _ _ (planSext_canon o s) h
theorem execZext_canon (o : SOp) (s : State) (h : s.Canon) : OutCanon (execZext o s) :=
  State.single_canon _ _ (planZext_canon o s) h
theorem execBfx_canon (o : SOp) (s : State) (h : s.Canon) : OutCanon (execBfx o s) :=
  State.single_canon _ _ (planBfx_canon o s) h
theorem execBfi_canon (o : SOp) (s : State) (h : s.Canon) : OutCanon (execBfi o s) :=
  State.single_canon _ _ (planBfi_canon o s) h
theorem execSel_canon (o : SOp) (s : State) (h : s.Canon) : OutCanon (execSel o s) :=
  State.single_canon _ _ (planSel_canon o s) h
theorem execLi_canon (o : SOp) (s : State) (h : s.Canon) : OutCanon (execLi o s) :=
  State.single_canon _ _ (planLi_canon o s) h
theorem execLih_canon (o : SOp) (s : State) (h : s.Canon) : OutCanon (execLih o s) :=
  State.single_canon _ _ (planLih_canon o s) h
theorem execCmp_canon (o : SOp) (s : State) (h : s.Canon) : OutCanon (execCmp o s) :=
  State.single_canon _ _ (planCmp_canon o s) h
theorem execPlog_canon (o : SOp) (s : State) (h : s.Canon) : OutCanon (execPlog o s) :=
  State.single_canon _ _ (planPlog_canon o s) h
theorem execPmov_canon (o : SOp) (s : State) (h : s.Canon) : OutCanon (execPmov o s) :=
  State.single_canon _ _ (planPmov_canon o s) h
theorem execPmovHToS_canon (o : SOp) (s : State) (h : s.Canon) : OutCanon (execPmovHToS o s) :=
  State.single_canon _ _ (planPmovHToS_canon o s) h
theorem execPmovHFromS_canon (o : SOp) (s : State) (h : s.Canon) : OutCanon (execPmovHFromS o s) :=
  State.single_canon _ _ (planPmovHFromS_canon o s) h
theorem execPmovB_canon (o : SOp) (s : State) (h : s.Canon) : OutCanon (execPmovB o s) :=
  State.single_canon _ _ (planPmovB_canon o s) h
theorem execFadd_canon (o : SOp) (s : State) (h : s.Canon) : OutCanon (execFadd o s) :=
  State.single_canon _ _ (planFadd_canon o s) h
theorem execFsub_canon (o : SOp) (s : State) (h : s.Canon) : OutCanon (execFsub o s) :=
  State.single_canon _ _ (planFsub_canon o s) h
theorem execFmul_canon (o : SOp) (s : State) (h : s.Canon) : OutCanon (execFmul o s) :=
  State.single_canon _ _ (planFmul_canon o s) h
theorem execFdiv_canon (o : SOp) (s : State) (h : s.Canon) : OutCanon (execFdiv o s) :=
  State.single_canon _ _ (planFdiv_canon o s) h
theorem execFsqrt_canon (o : SOp) (s : State) (h : s.Canon) : OutCanon (execFsqrt o s) :=
  State.single_canon _ _ (planFsqrt_canon o s) h
theorem execFfma_canon (o : SOp) (s : State) (h : s.Canon) : OutCanon (execFfma o s) :=
  State.single_canon _ _ (planFfma_canon o s) h
theorem execFcmp_canon (o : SOp) (s : State) (h : s.Canon) : OutCanon (execFcmp o s) :=
  State.single_canon _ _ (planFcmp_canon o s) h
theorem execFcvt_canon (o : SOp) (s : State) (h : s.Canon) : OutCanon (execFcvt o s) :=
  State.single_canon _ _ (planFcvt_canon o s) h
theorem execFminmax_canon (o : SOp) (s : State) (h : s.Canon) : OutCanon (execFminmax o s) :=
  State.single_canon _ _ (planFminmax_canon o s) h
theorem execMts_canon (o : SOp) (s : State) (h : s.Canon) : OutCanon (execMts o s) :=
  State.single_canon _ _ (planMts_canon o s) h
theorem execMfs_canon (o : SOp) (s : State) (h : s.Canon) : OutCanon (execMfs o s) :=
  State.single_canon _ _ (planMfs_canon o s) h
theorem execMtq_canon (o : SOp) (s : State) (h : s.Canon) : OutCanon (execMtq o s) :=
  State.single_canon _ _ (planMtq_canon o s) h
theorem execLea_canon (o : SOp) (s : State) (h : s.Canon) : OutCanon (execLea o s) :=
  State.single_canon _ _ (planLea_canon o s) h
theorem execAddpc_canon (o : SOp) (s : State) (h : s.Canon) : OutCanon (execAddpc o s) :=
  State.single_canon _ _ (planAddpc_canon o s) h
theorem execWid_canon (o : SOp) (s : State) (h : s.Canon) : OutCanon (execWid o s) :=
  State.single_canon _ _ (planWid_canon o s) h
theorem execCsrr_canon (o : SOp) (s : State) (h : s.Canon) : OutCanon (execCsrr o s) :=
  State.single_canon _ _ (planCsrr_canon o s) h
theorem execCsrw_canon (o : SOp) (s : State) (h : s.Canon) : OutCanon (execCsrw o s) :=
  State.single_canon _ _ (planCsrw_canon o s) h
theorem execCsrs_canon (o : SOp) (s : State) (h : s.Canon) : OutCanon (execCsrs o s) :=
  State.single_canon _ _ (planCsrs_canon o s) h
theorem execCsrc_canon (o : SOp) (s : State) (h : s.Canon) : OutCanon (execCsrc o s) :=
  State.single_canon _ _ (planCsrc_canon o s) h
theorem execModeWrite_canon (s : State) (hcan : s.Canon) : OutCanon (execModeWrite s) := by
  unfold execModeWrite
  repeat' with_reducible first
    | assumption | apply OutCanon.next | apply State.csrRow_canon
theorem execFstatWrite_canon (s : State) (hcan : s.Canon) : OutCanon (execFstatWrite s) := by
  unfold execFstatWrite
  repeat' with_reducible first
    | assumption | apply OutCanon.next | apply State.csrRow_canon
theorem execFaircfgWrite_canon (s : State) (hcan : s.Canon) : OutCanon (execFaircfgWrite s) := by
  unfold execFaircfgWrite
  repeat' with_reducible first
    | assumption | apply OutCanon.next | apply State.csrRow_canon
theorem execLstkWrite_canon (s : State) (hcan : s.Canon) : OutCanon (execLstkWrite s) := by
  unfold execLstkWrite
  repeat' with_reducible first
    | assumption | apply OutCanon.next | apply State.csrRow_canon
theorem execCurlimWrite_canon (s : State) (hcan : s.Canon) : OutCanon (execCurlimWrite s) := by
  unfold execCurlimWrite
  repeat' with_reducible first
    | assumption | apply OutCanon.next | apply State.csrRow_canon
theorem execCurwinWrite_canon (s : State) (hcan : s.Canon) : OutCanon (execCurwinWrite s) := by
  unfold execCurwinWrite
  repeat' with_reducible first
    | assumption | apply OutCanon.next | apply State.csrRow_canon
theorem execCauseWrite_canon (s : State) (hcan : s.Canon) : OutCanon (execCauseWrite s) := by
  unfold execCauseWrite
  repeat' with_reducible first
    | assumption | apply OutCanon.next | apply State.csrRow_canon
theorem execSvecWrite_canon (s : State) (hcan : s.Canon) : OutCanon (execSvecWrite s) := by
  unfold execSvecWrite
  repeat' with_reducible first
    | assumption | apply OutCanon.next | apply State.csrRow_canon
theorem execUvecWrite_canon (s : State) (hcan : s.Canon) : OutCanon (execUvecWrite s) := by
  unfold execUvecWrite
  repeat' with_reducible first
    | assumption | apply OutCanon.next | apply State.csrRow_canon
theorem execPtbaseWrite_canon (s : State) (hcan : s.Canon) : OutCanon (execPtbaseWrite s) := by
  unfold execPtbaseWrite
  repeat' first
    | with_reducible first
      | assumption | apply OutCanon.next | apply State.csrEvent_canon
    | split
theorem execBru_canon (o : SOp) (s : State) (h : s.Canon) : OutCanon (execBru o s) :=
  State.single_canon _ _ (planBru_canon o s) h
theorem execJmp_canon (o : SOp) (s : State) (h : s.Canon) : OutCanon (execJmp o s) :=
  State.single_canon _ _ (planJmp_canon o s) h
theorem execCall_canon (o : SOp) (s : State) (h : s.Canon) : OutCanon (execCall o s) :=
  State.single_canon _ _ (planCall_canon o s) h
theorem execRet_canon (o : SOp) (s : State) (h : s.Canon) : OutCanon (execRet o s) :=
  State.single_canon _ _ (planRet_canon o s) h
theorem execLoop_canon (o : SOp) (s : State) (h : s.Canon) : OutCanon (execLoop o s) :=
  State.single_canon _ _ (planLoop_canon o s) h
theorem execBrk_canon (o : SOp) (s : State) (h : s.Canon) : OutCanon (execBrk o s) :=
  State.single_canon _ _ (planBrk_canon o s) h
theorem execBrl_canon (o : SOp) (s : State) (h : s.Canon) : OutCanon (execBrl o s) :=
  State.single_canon _ _ (planBrl_canon o s) h
theorem execJmpl_canon (o : SOp) (s : State) (h : s.Canon) : OutCanon (execJmpl o s) :=
  State.single_canon _ _ (planJmpl_canon o s) h
theorem execJoin_canon (o : SOp) (s : State) (h : s.Canon) : OutCanon (execJoin o s) :=
  State.single_canon _ _ (planJoin_canon o s) h
theorem execYieldp_canon (o : SOp) (s : State) (h : s.Canon) : OutCanon (execYieldp o s) :=
  State.single_canon _ _ (planYieldp_canon o s) h
theorem execSysc_canon (o : SOp) (s : State) (h : s.Canon) : OutCanon (execSysc o s) :=
  State.single_canon _ _ (planSysc_canon o s) h
theorem execTrap_canon (o : SOp) (s : State) (h : s.Canon) : OutCanon (execTrap o s) :=
  State.single_canon _ _ (planTrap_canon o s) h
theorem execBrkpt_canon (o : SOp) (s : State) (h : s.Canon) : OutCanon (execBrkpt o s) :=
  State.single_canon _ _ (planBrkpt_canon o s) h
theorem execEret_canon (o : SOp) (s : State) (h : s.Canon) : OutCanon (execEret o s) :=
  State.single_canon _ _ (planEret_canon o s) h
theorem execUret_canon (o : SOp) (s : State) (h : s.Canon) : OutCanon (execUret o s) :=
  State.single_canon _ _ (planUret_canon o s) h
theorem execWfi_canon (o : SOp) (s : State) (h : s.Canon) : OutCanon (execWfi o s) :=
  State.single_canon _ _ (planWfi_canon o s) h
theorem execVadd_canon (o : VOp) (s : State) (h : s.Canon) : OutCanon (execVadd o s) :=
  State.single_canon _ _ (planVadd_canon o s) h
theorem execVsub_canon (o : VOp) (s : State) (h : s.Canon) : OutCanon (execVsub o s) :=
  State.single_canon _ _ (planVsub_canon o s) h
theorem execVmul_canon (o : VOp) (s : State) (h : s.Canon) : OutCanon (execVmul o s) :=
  State.single_canon _ _ (planVmul_canon o s) h
theorem execVmulh_canon (o : VOp) (s : State) (h : s.Canon) : OutCanon (execVmulh o s) :=
  State.single_canon _ _ (planVmulh_canon o s) h
theorem execVmad_canon (o : VOp) (s : State) (h : s.Canon) : OutCanon (execVmad o s) :=
  State.single_canon _ _ (planVmad_canon o s) h
theorem execVabs_canon (o : VOp) (s : State) (h : s.Canon) : OutCanon (execVabs o s) :=
  State.single_canon _ _ (planVabs_canon o s) h
theorem execVneg_canon (o : VOp) (s : State) (h : s.Canon) : OutCanon (execVneg o s) :=
  State.single_canon _ _ (planVneg_canon o s) h
theorem execVadds_canon (o : VOp) (s : State) (h : s.Canon) : OutCanon (execVadds o s) :=
  State.single_canon _ _ (planVadds_canon o s) h
theorem execVsubs_canon (o : VOp) (s : State) (h : s.Canon) : OutCanon (execVsubs o s) :=
  State.single_canon _ _ (planVsubs_canon o s) h
theorem execVmin_canon (o : VOp) (s : State) (h : s.Canon) : OutCanon (execVmin o s) :=
  State.single_canon _ _ (planVmin_canon o s) h
theorem execVmax_canon (o : VOp) (s : State) (h : s.Canon) : OutCanon (execVmax o s) :=
  State.single_canon _ _ (planVmax_canon o s) h
theorem execVavg_canon (o : VOp) (s : State) (h : s.Canon) : OutCanon (execVavg o s) :=
  State.single_canon _ _ (planVavg_canon o s) h
theorem execVsad_canon (o : VOp) (s : State) (h : s.Canon) : OutCanon (execVsad o s) :=
  State.single_canon _ _ (planVsad_canon o s) h
theorem execVand_canon (o : VOp) (s : State) (h : s.Canon) : OutCanon (execVand o s) :=
  State.single_canon _ _ (planVand_canon o s) h
theorem execVor_canon (o : VOp) (s : State) (h : s.Canon) : OutCanon (execVor o s) :=
  State.single_canon _ _ (planVor_canon o s) h
theorem execVxor_canon (o : VOp) (s : State) (h : s.Canon) : OutCanon (execVxor o s) :=
  State.single_canon _ _ (planVxor_canon o s) h
theorem execVandn_canon (o : VOp) (s : State) (h : s.Canon) : OutCanon (execVandn o s) :=
  State.single_canon _ _ (planVandn_canon o s) h
theorem execVshl_canon (o : VOp) (s : State) (h : s.Canon) : OutCanon (execVshl o s) :=
  State.single_canon _ _ (planVshl_canon o s) h
theorem execVshr_canon (o : VOp) (s : State) (h : s.Canon) : OutCanon (execVshr o s) :=
  State.single_canon _ _ (planVshr_canon o s) h
theorem execVsar_canon (o : VOp) (s : State) (h : s.Canon) : OutCanon (execVsar o s) :=
  State.single_canon _ _ (planVsar_canon o s) h
theorem execVclz_canon (o : VOp) (s : State) (h : s.Canon) : OutCanon (execVclz o s) :=
  State.single_canon _ _ (planVclz_canon o s) h
theorem execVpopc_canon (o : VOp) (s : State) (h : s.Canon) : OutCanon (execVpopc o s) :=
  State.single_canon _ _ (planVpopc_canon o s) h
theorem execVbfx_canon (o : VOp) (s : State) (h : s.Canon) : OutCanon (execVbfx o s) :=
  State.single_canon _ _ (planVbfx_canon o s) h
theorem execVbfi_canon (o : VOp) (s : State) (h : s.Canon) : OutCanon (execVbfi o s) :=
  State.single_canon _ _ (planVbfi_canon o s) h
theorem execVbsel_canon (o : VOp) (s : State) (h : s.Canon) : OutCanon (execVbsel o s) :=
  State.single_canon _ _ (planVbsel_canon o s) h
theorem execVcmp_canon (o : VOp) (s : State) (h : s.Canon) : OutCanon (execVcmp o s) :=
  State.single_canon _ _ (planVcmp_canon o s) h
theorem execVsel_canon (o : VOp) (s : State) (h : s.Canon) : OutCanon (execVsel o s) :=
  State.single_canon _ _ (planVsel_canon o s) h
theorem execVplog_canon (o : VOp) (s : State) (h : s.Canon) : OutCanon (execVplog o s) :=
  State.single_canon _ _ (planVplog_canon o s) h
theorem execVpcnt_canon (o : VOp) (s : State) (h : s.Canon) : OutCanon (execVpcnt o s) :=
  State.single_canon _ _ (planVpcnt_canon o s) h
theorem execVpfirst_canon (o : VOp) (s : State) (h : s.Canon) : OutCanon (execVpfirst o s) :=
  State.single_canon _ _ (planVpfirst_canon o s) h
theorem execVpany_canon (o : VOp) (s : State) (h : s.Canon) : OutCanon (execVpany o s) :=
  State.single_canon _ _ (planVpany_canon o s) h
theorem execVfadd_canon (o : VOp) (s : State) (h : s.Canon) : OutCanon (execVfadd o s) :=
  State.single_canon _ _ (planVfadd_canon o s) h
theorem execVfsub_canon (o : VOp) (s : State) (h : s.Canon) : OutCanon (execVfsub o s) :=
  State.single_canon _ _ (planVfsub_canon o s) h
theorem execVfmul_canon (o : VOp) (s : State) (h : s.Canon) : OutCanon (execVfmul o s) :=
  State.single_canon _ _ (planVfmul_canon o s) h
theorem execVffma_canon (o : VOp) (s : State) (h : s.Canon) : OutCanon (execVffma o s) :=
  State.single_canon _ _ (planVffma_canon o s) h
theorem execVfmin_canon (o : VOp) (s : State) (h : s.Canon) : OutCanon (execVfmin o s) :=
  State.single_canon _ _ (planVfmin_canon o s) h
theorem execVfmax_canon (o : VOp) (s : State) (h : s.Canon) : OutCanon (execVfmax o s) :=
  State.single_canon _ _ (planVfmax_canon o s) h
theorem execVrcp_canon (o : VOp) (s : State) (h : s.Canon) : OutCanon (execVrcp o s) :=
  State.single_canon _ _ (planVrcp_canon o s) h
theorem execVrsq_canon (o : VOp) (s : State) (h : s.Canon) : OutCanon (execVrsq o s) :=
  State.single_canon _ _ (planVrsq_canon o s) h
theorem execVsqrt_canon (o : VOp) (s : State) (h : s.Canon) : OutCanon (execVsqrt o s) :=
  State.single_canon _ _ (planVsqrt_canon o s) h
theorem execVexp2_canon (o : VOp) (s : State) (h : s.Canon) : OutCanon (execVexp2 o s) :=
  State.single_canon _ _ (planVexp2_canon o s) h
theorem execVlog2_canon (o : VOp) (s : State) (h : s.Canon) : OutCanon (execVlog2 o s) :=
  State.single_canon _ _ (planVlog2_canon o s) h
theorem execVsin_canon (o : VOp) (s : State) (h : s.Canon) : OutCanon (execVsin o s) :=
  State.single_canon _ _ (planVsin_canon o s) h
theorem execVcos_canon (o : VOp) (s : State) (h : s.Canon) : OutCanon (execVcos o s) :=
  State.single_canon _ _ (planVcos_canon o s) h
theorem execVtanh_canon (o : VOp) (s : State) (h : s.Canon) : OutCanon (execVtanh o s) :=
  State.single_canon _ _ (planVtanh_canon o s) h
theorem execVcvt_canon (o : VOp) (s : State) (h : s.Canon) : OutCanon (execVcvt o s) :=
  State.single_canon _ _ (planVcvt_canon o s) h
theorem execVquant_canon (o : VOp) (s : State) (h : s.Canon) : OutCanon (execVquant o s) :=
  State.single_canon _ _ (planVquant_canon o s) h
theorem execVdeq_canon (o : VOp) (s : State) (h : s.Canon) : OutCanon (execVdeq o s) :=
  State.single_canon _ _ (planVdeq_canon o s) h
theorem execVtbl_canon (o : VOp) (s : State) (h : s.Canon) : OutCanon (execVtbl o s) :=
  State.single_canon _ _ (planVtbl_canon o s) h
theorem execVperm_canon (o : VOp) (s : State) (h : s.Canon) : OutCanon (execVperm o s) :=
  State.single_canon _ _ (planVperm_canon o s) h
theorem execVslide_canon (o : VOp) (s : State) (h : s.Canon) : OutCanon (execVslide o s) :=
  State.single_canon _ _ (planVslide_canon o s) h
theorem execVshfl_canon (o : VOp) (s : State) (h : s.Canon) : OutCanon (execVshfl o s) :=
  State.single_canon _ _ (planVshfl_canon o s) h
theorem execVbcast_canon (o : VOp) (s : State) (h : s.Canon) : OutCanon (execVbcast o s) :=
  State.single_canon _ _ (planVbcast_canon o s) h
theorem execVext_canon (o : VOp) (s : State) (h : s.Canon) : OutCanon (execVext o s) :=
  State.single_canon _ _ (planVext_canon o s) h
theorem execVins_canon (o : VOp) (s : State) (h : s.Canon) : OutCanon (execVins o s) :=
  State.single_canon _ _ (planVins_canon o s) h
theorem execVzip_canon (o : VOp) (s : State) (h : s.Canon) : OutCanon (execVzip o s) :=
  State.single_canon _ _ (planVzip_canon o s) h
theorem execVunzip_canon (o : VOp) (s : State) (h : s.Canon) : OutCanon (execVunzip o s) :=
  State.single_canon _ _ (planVunzip_canon o s) h
theorem execVredadd_canon (o : VOp) (s : State) (h : s.Canon) : OutCanon (execVredadd o s) :=
  State.single_canon _ _ (planVredadd_canon o s) h
theorem execVredmin_canon (o : VOp) (s : State) (h : s.Canon) : OutCanon (execVredmin o s) :=
  State.single_canon _ _ (planVredmin_canon o s) h
theorem execVredmax_canon (o : VOp) (s : State) (h : s.Canon) : OutCanon (execVredmax o s) :=
  State.single_canon _ _ (planVredmax_canon o s) h
theorem execVredlog_canon (o : VOp) (s : State) (h : s.Canon) : OutCanon (execVredlog o s) :=
  State.single_canon _ _ (planVredlog_canon o s) h
theorem execVscan_canon (o : VOp) (s : State) (h : s.Canon) : OutCanon (execVscan o s) :=
  State.single_canon _ _ (planVscan_canon o s) h
theorem execVfredadd_canon (o : VOp) (s : State) (h : s.Canon) : OutCanon (execVfredadd o s) :=
  State.single_canon _ _ (planVfredadd_canon o s) h
theorem execVmov_canon (o : VOp) (s : State) (h : s.Canon) : OutCanon (execVmov o s) :=
  State.single_canon _ _ (planVmov_canon o s) h
theorem execVmovS_canon (o : VOp) (s : State) (h : s.Canon) : OutCanon (execVmovS o s) :=
  State.single_canon _ _ (planVmovS_canon o s) h
theorem execVli_canon (o : VOp) (s : State) (h : s.Canon) : OutCanon (execVli o s) :=
  State.single_canon _ _ (planVli_canon o s) h
theorem execVlane_canon (o : VOp) (s : State) (h : s.Canon) : OutCanon (execVlane o s) :=
  State.single_canon _ _ (planVlane_canon o s) h
theorem execTableWalk_canon (s : State) (hcan : s.Canon) : OutCanon (execTableWalk s) := by
  unfold execTableWalk
  repeat' first
    | with_reducible first
      | assumption | intro _ | apply OutCanon.next | apply OutCanon.ite | apply State.modMem_canon | apply State.row_canon
    | dsimp only | split
theorem execTableWalkComplete_canon (s : State) (hcan : s.Canon) : OutCanon (execTableWalkComplete s) := by
  unfold execTableWalkComplete
  repeat' first
    | with_reducible first
      | assumption | intro _ | apply OutCanon.next | apply OutCanon.ite | apply State.modMem_canon | apply State.installFound_canon
      | apply State.walked_canon | apply State.walkOver_canon | apply State.walkFault_canon | apply State.canon_foldl
    | dsimp only | split
theorem execRangeTableWrite_canon (s : State) (hcan : s.Canon) : OutCanon (execRangeTableWrite s) := by
  unfold execRangeTableWrite
  repeat' first
    | with_reducible first
      | assumption | apply OutCanon.next | apply State.rangeWrite_canon
    | split
theorem execFaultRecordPost_canon (s : State) (hcan : s.Canon) : OutCanon (execFaultRecordPost s) := by
  unfold execFaultRecordPost
  repeat' first
    | with_reducible first
      | assumption | apply OutCanon.next | apply State.postRecords_canon
    | split
theorem execFaultRingTailWrite_canon (s : State) (hcan : s.Canon) : OutCanon (execFaultRingTailWrite s) := by
  unfold execFaultRingTailWrite
  repeat' first
    | with_reducible first
      | assumption | apply OutCanon.next | apply State.tailWrite_canon
    | split
theorem execResumePortWrite_canon (s : State) (hcan : s.Canon) : OutCanon (execResumePortWrite s) := by
  unfold execResumePortWrite
  repeat' first
    | with_reducible first
      | assumption | apply OutCanon.next | apply State.resumeWrite_canon
    | split
theorem execRegisterWrite_canon (s : State) (hcan : s.Canon) : OutCanon (execRegisterWrite s) := by
  unfold execRegisterWrite
  repeat' first
    | with_reducible first
      | assumption | apply State.canon_ite | apply OutCanon.next | apply State.ignored_canon | apply State.csrEvent_canon
      | apply State.ctlWrite_canon
    | split
theorem execIpi_canon (s : State) (hcan : s.Canon) : OutCanon (execIpi s) := by
  unfold execIpi
  repeat' first
    | with_reducible first
      | assumption | apply State.canon_ite | apply OutCanon.next | apply State.pend_canon | apply State.ignored_canon
    | split
theorem execTimerCompare_canon (s : State) (hcan : s.Canon) : OutCanon (execTimerCompare s) := by
  unfold execTimerCompare
  repeat' first
    | with_reducible first
      | assumption | apply OutCanon.next | apply State.pend_canon
    | split
theorem execCounterRegionAccess_canon (s : State) (hcan : s.Canon) : OutCanon (execCounterRegionAccess s) := by
  unfold execCounterRegionAccess
  repeat' first
    | with_reducible first
      | assumption | apply OutCanon.next | refine SndCanon.snd (State.deviceRead_canon _ _ _ _ ?_) | apply State.deviceWrite_canon
    | split
theorem execLd_canon (o : LOp) (s : State) (h : s.Canon) : OutCanon (execLd o s) :=
  State.single_canon _ _ (planLd_canon o s) h
theorem execVld_canon (o : LOp) (s : State) (h : s.Canon) : OutCanon (execVld o s) :=
  State.single_canon _ _ (planVld_canon o s) h
theorem execVlds_canon (o : LOp) (s : State) (h : s.Canon) : OutCanon (execVlds o s) :=
  State.single_canon _ _ (planVlds_canon o s) h
theorem execVldg_canon (o : LOp) (s : State) (h : s.Canon) : OutCanon (execVldg o s) :=
  State.single_canon _ _ (planVldg_canon o s) h
theorem execGld_canon (o : LOp) (s : State) (h : s.Canon) : OutCanon (execGld o s) :=
  State.single_canon _ _ (planGld_canon o s) h
theorem execTld_canon (o : LOp) (s : State) (h : s.Canon) : OutCanon (execTld o s) :=
  State.single_canon _ _ (planTld_canon o s) h
theorem execLpf_canon (o : LOp) (s : State) (h : s.Canon) : OutCanon (execLpf o s) :=
  State.single_canon _ _ (planLpf_canon o s) h
theorem execLdx_canon (o : LOp) (s : State) (h : s.Canon) : OutCanon (execLdx o s) :=
  State.single_canon _ _ (planLdx_canon o s) h
theorem execAmadd_canon (o : LOp) (s : State) (h : s.Canon) : OutCanon (execAmadd o s) :=
  State.single_canon _ _ (planAmadd_canon o s) h
theorem execAmmin_canon (o : LOp) (s : State) (h : s.Canon) : OutCanon (execAmmin o s) :=
  State.single_canon _ _ (planAmmin_canon o s) h
theorem execAmmax_canon (o : LOp) (s : State) (h : s.Canon) : OutCanon (execAmmax o s) :=
  State.single_canon _ _ (planAmmax_canon o s) h
theorem execAmand_canon (o : LOp) (s : State) (h : s.Canon) : OutCanon (execAmand o s) :=
  State.single_canon _ _ (planAmand_canon o s) h
theorem execAmor_canon (o : LOp) (s : State) (h : s.Canon) : OutCanon (execAmor o s) :=
  State.single_canon _ _ (planAmor_canon o s) h
theorem execAmxor_canon (o : LOp) (s : State) (h : s.Canon) : OutCanon (execAmxor o s) :=
  State.single_canon _ _ (planAmxor_canon o s) h
theorem execAmswp_canon (o : LOp) (s : State) (h : s.Canon) : OutCanon (execAmswp o s) :=
  State.single_canon _ _ (planAmswp_canon o s) h
theorem execAmcas_canon (o : LOp) (s : State) (h : s.Canon) : OutCanon (execAmcas o s) :=
  State.single_canon _ _ (planAmcas_canon o s) h
theorem execAmfadd_canon (o : LOp) (s : State) (h : s.Canon) : OutCanon (execAmfadd o s) :=
  State.single_canon _ _ (planAmfadd_canon o s) h
theorem execAminc_canon (o : LOp) (s : State) (h : s.Canon) : OutCanon (execAminc o s) :=
  State.single_canon _ _ (planAminc_canon o s) h
theorem execLoadDataReturn_canon (s : State) (hcan : s.Canon) : OutCanon (execLoadDataReturn s) := by
  unfold execLoadDataReturn
  repeat' first
    | with_reducible first
      | assumption | apply OutCanon.next | apply State.modStream_canon | apply State.returnLoad_canon
    | split
theorem execMemoryValueReturn_canon (s : State) (hcan : s.Canon) : OutCanon (execMemoryValueReturn s) := by
  unfold execMemoryValueReturn
  repeat' first
    | with_reducible first
      | assumption | apply OutCanon.next | apply State.modStream_canon | apply State.landAt_canon
    | split
theorem execWriteBufferDrain_canon (s : State) (hcan : s.Canon) : OutCanon (execWriteBufferDrain s) := by
  unfold execWriteBufferDrain
  repeat' first
    | with_reducible first
      | assumption | apply OutCanon.next | apply State.modStream_canon | apply State.wbPass_canon
    | split
theorem execReservationKill_canon (s : State) (hcan : s.Canon) : OutCanon (execReservationKill s) := by
  unfold execReservationKill
  repeat' first
    | with_reducible first
      | assumption | apply OutCanon.next | apply State.modCommon_canon
    | split
theorem execReservationAgeExpiry_canon (s : State) (hcan : s.Canon) : OutCanon (execReservationAgeExpiry s) := by
  unfold execReservationAgeExpiry
  repeat' first
    | with_reducible first
      | assumption | apply OutCanon.next | apply State.modCommon_canon
    | split
theorem execSt_canon (o : WOp) (s : State) (h : s.Canon) : OutCanon (execSt o s) :=
  State.single_canon _ _ (planSt_canon o s) h
theorem execVst_canon (o : WOp) (s : State) (h : s.Canon) : OutCanon (execVst o s) :=
  State.single_canon _ _ (planVst_canon o s) h
theorem execVsts_canon (o : WOp) (s : State) (h : s.Canon) : OutCanon (execVsts o s) :=
  State.single_canon _ _ (planVsts_canon o s) h
theorem execVsct_canon (o : WOp) (s : State) (h : s.Canon) : OutCanon (execVsct o s) :=
  State.single_canon _ _ (planVsct_canon o s) h
theorem execGst_canon (o : WOp) (s : State) (h : s.Canon) : OutCanon (execGst o s) :=
  State.single_canon _ _ (planGst_canon o s) h
theorem execTst_canon (o : WOp) (s : State) (h : s.Canon) : OutCanon (execTst o s) :=
  State.single_canon _ _ (planTst_canon o s) h
theorem execStx_canon (o : WOp) (s : State) (h : s.Canon) : OutCanon (execStx o s) :=
  State.single_canon _ _ (planStx_canon o s) h
theorem execCadd_canon (o : WOp) (s : State) (h : s.Canon) : OutCanon (execCadd o s) :=
  State.single_canon _ _ (planCadd_canon o s) h
theorem execPartialJoinOnArrival_canon (s : State) (hcan : s.Canon) : OutCanon (execPartialJoinOnArrival s) := by
  unfold execPartialJoinOnArrival
  repeat' first
    | with_reducible first
      | assumption | apply OutCanon.next | apply State.recall_canon | apply State.joinOne_canon
    | split
theorem execCwb_canon (o : WOp) (s : State) (h : s.Canon) : OutCanon (execCwb o s) :=
  State.single_canon _ _ (planCwb_canon o s) h
theorem execCalll_canon (o : SOp) (s : State) (h : s.Canon) : OutCanon (execCalll o s) :=
  State.single_canon _ _ (planCalll_canon o s) h
theorem execRetl_canon (o : SOp) (s : State) (h : s.Canon) : OutCanon (execRetl o s) :=
  State.single_canon _ _ (planRetl_canon o s) h
theorem execTlbi_canon (o : SOp) (s : State) (h : s.Canon) : OutCanon (execTlbi o s) :=
  State.single_canon _ _ (planTlbi_canon o s) h
theorem execTlbiCompletion_canon (s : State) (hcan : s.Canon) : OutCanon (execTlbiCompletion s) := by
  unfold execTlbiCompletion
  repeat' first
    | with_reducible first
      | assumption | apply OutCanon.next | apply State.modStream_canon | apply State.tlbiAct_canon
    | split
theorem execCmaint_canon (o : SOp) (s : State) (h : s.Canon) : OutCanon (execCmaint o s) :=
  State.single_canon _ _ (planCmaint_canon o s) h
theorem execCmaintCompletion_canon (s : State) (hcan : s.Canon) : OutCanon (execCmaintCompletion s) := by
  unfold execCmaintCompletion
  repeat' first
    | with_reducible first
      | assumption | apply OutCanon.next | apply OutCanon.ite | apply State.modStream_canon | apply State.row_canon
    | split
theorem execEvadd_canon (o : SOp) (s : State) (h : s.Canon) : OutCanon (execEvadd o s) :=
  State.single_canon _ _ (planEvadd_canon o s) h
theorem execEvld_canon (o : SOp) (s : State) (h : s.Canon) : OutCanon (execEvld o s) :=
  State.single_canon _ _ (planEvld_canon o s) h
theorem execEvarm_canon (o : SOp) (s : State) (h : s.Canon) : OutCanon (execEvarm o s) :=
  State.single_canon _ _ (planEvarm_canon o s) h
theorem execEvwait_canon (o : SOp) (s : State) (h : s.Canon) : OutCanon (execEvwait o s) :=
  State.single_canon _ _ (planEvwait_canon o s) h
theorem execBar_canon (o : YOp) (s : State) (h : s.Canon) : OutCanon (execBar o s) :=
  State.single_canon _ _ (planBar_canon o s) h
theorem execBarphArrive_canon (o : YOp) (s : State) (h : s.Canon) : OutCanon (execBarphArrive o s) :=
  State.single_canon _ _ (planBarphArrive_canon o s) h
theorem execBarphWait_canon (o : YOp) (s : State) (h : s.Canon) : OutCanon (execBarphWait o s) :=
  State.single_canon _ _ (planBarphWait_canon o s) h
theorem execFence_canon (o : YOp) (s : State) (h : s.Canon) : OutCanon (execFence o s) :=
  State.single_canon _ _ (planFence_canon o s) h
theorem execTkwait_canon (o : YOp) (s : State) (h : s.Canon) : OutCanon (execTkwait o s) :=
  State.single_canon _ _ (planTkwait_canon o s) h
theorem execTktest_canon (o : YOp) (s : State) (h : s.Canon) : OutCanon (execTktest o s) :=
  State.single_canon _ _ (planTktest_canon o s) h
theorem execFlagw_canon (o : YOp) (s : State) (h : s.Canon) : OutCanon (execFlagw o s) :=
  State.single_canon _ _ (planFlagw_canon o s) h
theorem execFlagset_canon (o : YOp) (s : State) (h : s.Canon) : OutCanon (execFlagset o s) :=
  State.single_canon _ _ (planFlagset_canon o s) h
theorem execFlagSetArrival_canon (s : State) (hcan : s.Canon) : OutCanon (execFlagSetArrival s) := by
  unfold execFlagSetArrival
  repeat' first
    | with_reducible first
      | assumption | apply OutCanon.next | apply State.modTile_canon
    | dsimp only | split
theorem execUlien_canon (o : YOp) (s : State) (h : s.Canon) : OutCanon (execUlien o s) :=
  State.single_canon _ _ (planUlien_canon o s) h
theorem execHalt_canon (o : SOp) (s : State) (h : s.Canon) : OutCanon (execHalt o s) :=
  State.single_canon _ _ (planHalt_canon o s) h
theorem execArrayOccupancyEnd_canon (s : State) (hcan : s.Canon) : OutCanon (execArrayOccupancyEnd s) := by
  unfold execArrayOccupancyEnd
  repeat' first
    | with_reducible first
      | assumption | apply State.canon_ite | apply OutCanon.next | apply State.endArray_canon
    | split
theorem execDrainCommit_canon (s : State) (hcan : s.Canon) : OutCanon (execDrainCommit s) := by
  unfold execDrainCommit
  repeat' first
    | with_reducible first
      | assumption | intro _ | apply OutCanon.next | apply State.modTile_canon | apply State.commitDrain_canon | apply State.canon_foldl
    | dsimp only | split
theorem execMma_canon (o : MOp) (s : State) (h : s.Canon) : OutCanon (execMma o s) :=
  State.single_canon _ _ (planMma_canon o s) h
theorem execMmas_canon (o : MOp) (s : State) (h : s.Canon) : OutCanon (execMmas o s) :=
  State.single_canon _ _ (planMmas_canon o s) h
theorem execMzero_canon (o : MOp) (s : State) (h : s.Canon) : OutCanon (execMzero o s) :=
  State.single_canon _ _ (planMzero_canon o s) h
theorem execMdrain_canon (o : MOp) (s : State) (h : s.Canon) : OutCanon (execMdrain o s) :=
  State.single_canon _ _ (planMdrain_canon o s) h
theorem execMlaccSave_canon (o : MOp) (s : State) (h : s.Canon) : OutCanon (execMlaccSave o s) :=
  State.single_canon _ _ (planMlaccSave_canon o s) h
theorem execMlaccLoad_canon (o : MOp) (s : State) (h : s.Canon) : OutCanon (execMlaccLoad o s) :=
  State.single_canon _ _ (planMlaccLoad_canon o s) h
theorem execWvmac_canon (o : MOp) (s : State) (h : s.Canon) : OutCanon (execWvmac o s) :=
  State.single_canon _ _ (planWvmac_canon o s) h
theorem execTmoveCopyComplete_canon (s : State) (hcan : s.Canon) : OutCanon (execTmoveCopyComplete s) := by
  unfold execTmoveCopyComplete
  repeat' first
    | with_reducible first
      | assumption | intro _ | apply OutCanon.next | apply OutCanon.ite | apply State.modMem_canon | apply State.serveTier_canon
      | apply State.moveDone_canon | apply State.lookObjects_canon
    | dsimp only | split
theorem execCopy_canon (o : COp) (s : State) (h : s.Canon) : OutCanon (execCopy o s) :=
  State.single_canon _ _ (planCopy_canon o s) h
theorem execQbcast_canon (o : COp) (s : State) (h : s.Canon) : OutCanon (execQbcast o s) :=
  State.single_canon _ _ (planQbcast_canon o s) h
theorem execGath_canon (o : COp) (s : State) (h : s.Canon) : OutCanon (execGath o s) :=
  State.single_canon _ _ (planGath_canon o s) h
theorem execScat_canon (o : COp) (s : State) (h : s.Canon) : OutCanon (execScat o s) :=
  State.single_canon _ _ (planScat_canon o s) h
theorem execPfb_canon (o : COp) (s : State) (h : s.Canon) : OutCanon (execPfb o s) :=
  State.single_canon _ _ (planPfb_canon o s) h
theorem execDrop_canon (o : COp) (s : State) (h : s.Canon) : OutCanon (execDrop o s) :=
  State.single_canon _ _ (planDrop_canon o s) h
theorem execTmoveMove_canon (o : COp) (s : State) (h : s.Canon) : OutCanon (execTmoveMove o s) :=
  State.single_canon _ _ (planTmoveMove_canon o s) h
theorem execTmoveEvict_canon (o : COp) (s : State) (h : s.Canon) : OutCanon (execTmoveEvict o s) :=
  State.single_canon _ _ (planTmoveEvict_canon o s) h
theorem execColl_canon (o : COp) (s : State) (h : s.Canon) : OutCanon (execColl o s) :=
  State.single_canon _ _ (planColl_canon o s) h
theorem execCollectiveMatch_canon (s : State) (hcan : s.Canon) : OutCanon (execCollectiveMatch s) := by
  unfold execCollectiveMatch
  repeat' first
    | with_reducible first
      | assumption | apply OutCanon.next | apply OutCanon.ite | apply State.modCommand_canon
    | dsimp only | split
theorem execXsort_canon (o : COp) (s : State) (h : s.Canon) : OutCanon (execXsort o s) :=
  State.single_canon _ _ (planXsort_canon o s) h
theorem execTqpush_canon (o : COp) (s : State) (h : s.Canon) : OutCanon (execTqpush o s) :=
  State.single_canon _ _ (planTqpush_canon o s) h
theorem execRlaunch_canon (o : COp) (s : State) (h : s.Canon) : OutCanon (execRlaunch o s) :=
  State.single_canon _ _ (planRlaunch_canon o s) h
theorem execRlaunchRemoteEnd_canon (s : State) (hcan : s.Canon) : OutCanon (execRlaunchRemoteEnd s) := by
  unfold execRlaunchRemoteEnd
  repeat' first
    | with_reducible first
      | assumption | apply State.canon_ite | apply OutCanon.next | apply OutCanon.ite | apply State.modSched_canon | apply State.row_canon
      | apply State.ctrAdd_canon | apply State.enginePut_canon
    | dsimp only | split
theorem execRemoteLaunchReceive_canon (s : State) (hcan : s.Canon) : OutCanon (execRemoteLaunchReceive s) := by
  unfold execRemoteLaunchReceive
  repeat' first
    | with_reducible first
      | assumption | apply OutCanon.next | apply OutCanon.ite | apply State.modSched_canon | apply State.appendRecord_canon
      | apply State.seqPages_canon | apply State.putThrough_canon | refine SndCanon.of_eq (by with_reducible assumption) ?_
    | dsimp only | split
theorem execRtrace_canon (o : COp) (s : State) (h : s.Canon) : OutCanon (execRtrace o s) :=
  State.single_canon _ _ (planRtrace_canon o s) h
theorem execQfence_canon (o : COp) (s : State) (h : s.Canon) : OutCanon (execQfence o s) :=
  State.single_canon _ _ (planQfence_canon o s) h
theorem execBaseLanding_canon (s : State) (hcan : s.Canon) : OutCanon (execBaseLanding s) := by
  unfold execBaseLanding
  repeat' first
    | with_reducible first
      | assumption | intro _ | apply OutCanon.next | apply State.setStream_canon | apply State.modStream_canon | apply State.landOne_canon
      | apply State.canon_foldl
    | dsimp only | split
theorem execSashDirectoryAnswer_canon (s : State) (hcan : s.Canon) : OutCanon (execSashDirectoryAnswer s) := by
  unfold execSashDirectoryAnswer
  repeat' first
    | with_reducible first
      | assumption | apply OutCanon.next | apply State.modStream_canon
    | split
theorem execSopen_canon (o : COp) (s : State) (h : s.Canon) : OutCanon (execSopen o s) :=
  State.single_canon _ _ (planSopen_canon o s) h
theorem execSopenEvicted_canon (o : COp) (s : State) (h : s.Canon) : OutCanon (execSopenEvicted o s) :=
  State.single_canon _ _ (planSopenEvicted_canon o s) h
theorem execSatt_canon (o : COp) (s : State) (h : s.Canon) : OutCanon (execSatt o s) :=
  State.single_canon _ _ (planSatt_canon o s) h
theorem execSrel_canon (o : COp) (s : State) (h : s.Canon) : OutCanon (execSrel o s) :=
  State.single_canon _ _ (planSrel_canon o s) h
theorem execSevict_canon (o : COp) (s : State) (h : s.Canon) : OutCanon (execSevict o s) :=
  State.single_canon _ _ (planSevict_canon o s) h
theorem execSdrop_canon (o : COp) (s : State) (h : s.Canon) : OutCanon (execSdrop o s) :=
  State.single_canon _ _ (planSdrop_canon o s) h
theorem execEvictionWritebackFault_canon (s : State) (hcan : s.Canon) : OutCanon (execEvictionWritebackFault s) := by
  unfold execEvictionWritebackFault
  repeat' first
    | with_reducible first
      | assumption | apply OutCanon.next | apply OutCanon.ite | apply State.modSched_canon | apply State.note_canon
      | apply State.keepSash_canon | apply State.bringFails_canon
    | dsimp only | split
theorem execSashWritebackAck_canon (s : State) (hcan : s.Canon) : OutCanon (execSashWritebackAck s) := by
  unfold execSashWritebackAck
  repeat' first
    | with_reducible first
      | assumption | apply OutCanon.next | apply OutCanon.ite | apply State.row_canon | apply State.endCommand_canon
      | apply State.engineWrite_canon | apply State.modSash_canon | apply State.own__canon | apply State.settleSash_canon
      | apply State.backPages_canon | apply State.sashFault_canon | apply State.keepSash_canon | apply State.passHome_canon
      | apply State.evictDone_canon | refine SndCanon.of_eq (by with_reducible assumption) ?_
    | dsimp only | split
theorem execSattAttach_canon (s : State) (hcan : s.Canon) : OutCanon (execSattAttach s) := by
  unfold execSattAttach
  repeat' first
    | with_reducible first
      | assumption | apply OutCanon.next | apply OutCanon.ite | apply State.attachDone_canon
    | split
theorem execSashRestoreComplete_canon (s : State) (hcan : s.Canon) : OutCanon (execSashRestoreComplete s) := by
  unfold execSashRestoreComplete
  repeat' first
    | with_reducible first
      | assumption | intro _ | apply State.canon_ite | apply OutCanon.next | apply OutCanon.ite | apply SndCanon.ite
      | apply State.next_canon | apply Eng.andThen_canon | apply State.engineRead_canon | apply State.modSash_canon
      | apply State.own__canon | apply State.fillPages_canon | apply State.settleSash_canon | apply State.backPages_canon
      | apply State.sashFault_canon | apply State.bringError_canon | refine SndCanon.of_eq (by with_reducible assumption) ?_
    | dsimp only | split | with_reducible apply SndCanon.mk
theorem execSrelComplete_canon (s : State) (hcan : s.Canon) : OutCanon (execSrelComplete s) := by
  unfold execSrelComplete
  repeat' first
    | with_reducible first
      | assumption | apply OutCanon.next | apply OutCanon.ite | apply State.modCommand_canon | apply State.reachStatus_canon
      | apply State.putStatus_canon | apply State.releaseSash_canon | refine SndCanon.of_eq (by with_reducible assumption) ?_
    | dsimp only | split
theorem execEngineCommandStart_canon (s : State) (hcan : s.Canon) : OutCanon (execEngineCommandStart s) := by
  unfold execEngineCommandStart
  repeat' first
    | with_reducible first
      | assumption | apply OutCanon.next | apply State.startCommand_canon
    | split
theorem execEngineCommandComplete_canon (s : State) (hcan : s.Canon) : OutCanon (execEngineCommandComplete s) := by
  unfold execEngineCommandComplete
  repeat' first
    | with_reducible first
      | assumption | apply OutCanon.next | apply State.completeCommand_canon
    | split
theorem execClusterCacheWriteback_canon (s : State) (hcan : s.Canon) : OutCanon (execClusterCacheWriteback s) := by
  unfold execClusterCacheWriteback
  repeat' first
    | with_reducible first
      | assumption | apply OutCanon.next | apply State.clWriteback_canon
    | split
theorem execLeaseExpiry_canon (s : State) (hcan : s.Canon) : OutCanon (execLeaseExpiry s) := by
  unfold execLeaseExpiry
  repeat' first
    | with_reducible first
      | assumption | apply OutCanon.next | apply State.expire_canon
    | split
theorem execEpochSweep_canon (s : State) (hcan : s.Canon) : OutCanon (execEpochSweep s) := by
  unfold execEpochSweep
  repeat' first
    | with_reducible first
      | assumption | apply OutCanon.next | apply State.sweep_canon
    | split
theorem execRetentionEntry_canon (s : State) (hcan : s.Canon) : OutCanon (execRetentionEntry s) := by
  unfold execRetentionEntry
  repeat' first
    | with_reducible first
      | assumption | intro _ | apply State.canon_ite | apply OutCanon.next | apply OutCanon.ite | apply State.modCommon_canon
      | apply State.modMem_canon | apply State.clPush_canon | apply State.wbDrain_canon | apply State.settle_canon
      | apply State.joinCluster_canon | apply State.canon_foldl
    | dsimp only | split
theorem execRetentionWake_canon (s : State) (hcan : s.Canon) : OutCanon (execRetentionWake s) := by
  unfold execRetentionWake
  repeat' first
    | with_reducible first
      | assumption | intro _ | apply State.canon_ite | apply OutCanon.next | apply OutCanon.ite | apply State.modCommon_canon
      | apply State.modMem_canon | apply State.setCluster_canon | apply State.canon_foldl
    | dsimp only | split
theorem execDirectoryReadRequest_canon (s : State) (hcan : s.Canon) : OutCanon (execDirectoryReadRequest s) := by
  unfold execDirectoryReadRequest
  repeat' first
    | with_reducible first
      | assumption | apply OutCanon.next | apply State.agentRead_canon
    | split
theorem execDirectoryOwnershipRequest_canon (s : State) (hcan : s.Canon) : OutCanon (execDirectoryOwnershipRequest s) := by
  unfold execDirectoryOwnershipRequest
  repeat' first
    | with_reducible first
      | assumption | apply OutCanon.next | apply State.agentOwn_canon
    | split
theorem execEvictionNotice_canon (s : State) (hcan : s.Canon) : OutCanon (execEvictionNotice s) := by
  unfold execEvictionNotice
  repeat' first
    | with_reducible first
      | assumption | apply OutCanon.next | apply State.notice_canon | apply State.evictLine_canon
    | split
theorem execForward_canon (s : State) (hcan : s.Canon) : OutCanon (execForward s) := by
  unfold execForward
  repeat' first
    | with_reducible first
      | assumption | apply OutCanon.next | apply State.forwarded_canon
    | split
theorem execInvalidation_canon (s : State) (hcan : s.Canon) : OutCanon (execInvalidation s) := by
  unfold execInvalidation
  repeat' first
    | with_reducible first
      | assumption | apply State.canon_ite | apply OutCanon.next | apply State.row_canon | apply State.putHome_canon
      | apply State.killAt_canon | apply State.loseLine_canon
    | dsimp only | split
theorem execInvalidationAck_canon (s : State) (hcan : s.Canon) : OutCanon (execInvalidationAck s) := by
  unfold execInvalidationAck
  repeat' first
    | with_reducible first
      | assumption | intro _ | apply OutCanon.next | apply State.modMem_canon | apply State.unfence_canon
    | split
theorem execOwnershipGrant_canon (s : State) (hcan : s.Canon) : OutCanon (execOwnershipGrant s) := by
  unfold execOwnershipGrant
  repeat' first
    | with_reducible first
      | assumption | intro _ | apply OutCanon.next | apply State.modMem_canon | refine FstCanon.fst (State.fromHome_canon _ _ ?_)
      | apply State.agentRoom_canon
    | dsimp only | split | (show Mem.wf _ = true; assumption)
theorem execWriteUpdatePush_canon (s : State) (hcan : s.Canon) : OutCanon (execWriteUpdatePush s) := by
  unfold execWriteUpdatePush
  repeat' first
    | with_reducible first
      | assumption | apply OutCanon.next | apply State.pushUpdate_canon
    | split
theorem execTokenBucketRefill_canon (s : State) (hcan : s.Canon) : OutCanon (execTokenBucketRefill s) := by
  unfold execTokenBucketRefill
  repeat' with_reducible first
    | assumption | intro _ | apply OutCanon.next | apply State.refill_canon | apply State.canon_foldl
theorem execHostWrite_canon (s : State) (hcan : s.Canon) : OutCanon (execHostWrite s) := by
  unfold execHostWrite
  repeat' first
    | with_reducible first
      | assumption | apply OutCanon.next | apply State.canon_ite | apply State.writeFrom_canon
    | split
theorem execPatrolScrub_canon (s : State) (hcan : s.Canon) : OutCanon (execPatrolScrub s) := by
  unfold execPatrolScrub
  repeat' first
    | with_reducible first
      | assumption | intro _ | apply OutCanon.next | apply OutCanon.ite | apply State.modMem_canon | apply State.picked_canon
      | apply State.note_canon
    | split
theorem execHostAttach_canon (s : State) (hcan : s.Canon) : OutCanon (execHostAttach s) := by
  unfold execHostAttach
  repeat' first
    | with_reducible first
      | assumption | apply OutCanon.next | apply State.attachHost_canon
    | split
theorem execDoorbell_canon (s : State) (hcan : s.Canon) : OutCanon (execDoorbell s) := by
  unfold execDoorbell
  repeat' first
    | with_reducible first
      | assumption | apply OutCanon.next | apply State.ring_canon | apply State.lookQueue_canon
    | split
theorem execQueueMap_canon (s : State) (hcan : s.Canon) : OutCanon (execQueueMap s) := by
  unfold execQueueMap
  repeat' with_reducible first
    | assumption | apply OutCanon.next | apply State.mapBest_canon
theorem State.lookRecord_canon (s : State) (q n : Nat) (hcan : s.Canon) : (s.lookRecord q n).Canon :=
  State.looked_canon _ _ (State.lookQueue_canon _ _ hcan)
theorem execRecordBegin_canon (s : State) (hcan : s.Canon) : OutCanon (execRecordBegin s) := by
  unfold execRecordBegin
  repeat' first
    | with_reducible first
      | assumption | apply State.canon_ite | apply OutCanon.next | apply OutCanon.ite | apply State.putStatus__canon
      | apply State.beginRecord_canon | apply State.lookRecord_canon
    | split
theorem execRecordCancel_canon (s : State) (hcan : s.Canon) : OutCanon (execRecordCancel s) := by
  unfold execRecordCancel
  repeat' first
    | with_reducible first
      | assumption | apply OutCanon.next | apply OutCanon.ite | apply State.modSched_canon | apply State.cancelNow_canon
      | apply State.cancelBegun_canon | apply State.lookRecord_canon
    | dsimp only | split
theorem execSlotReclaim_canon (s : State) (hcan : s.Canon) : OutCanon (execSlotReclaim s) := by
  unfold execSlotReclaim
  repeat' first
    | with_reducible first
      | assumption | apply OutCanon.next | apply OutCanon.ite | apply State.picked_canon | apply State.unmapStart_canon
      | apply State.unmapEnd_canon
    | split
theorem execGroupEnd_canon (s : State) (hcan : s.Canon) : OutCanon (execGroupEnd s) := by
  unfold execGroupEnd
  repeat' first
    | with_reducible first
      | assumption | apply OutCanon.next | apply State.unitEnd_canon
    | split
theorem execGroupDispatch_canon (s : State) (hcan : s.Canon) : OutCanon (execGroupDispatch s) := by
  unfold execGroupDispatch
  repeat' first
    | with_reducible first
      | assumption | apply State.canon_ite | apply OutCanon.next | apply State.dispatchNext_canon
    | split
theorem execLocalityScoreDecay_canon (s : State) (hcan : s.Canon) : OutCanon (execLocalityScoreDecay s) := by
  unfold execLocalityScoreDecay
  repeat' first
    | with_reducible apply OutCanon.next | dsimp only | (show Mem.wf _ = true; exact hcan)
theorem execGangLaunch_canon (s : State) (hcan : s.Canon) : OutCanon (execGangLaunch s) := by
  unfold execGangLaunch
  repeat' first
    | with_reducible first
      | assumption | apply State.canon_ite | apply OutCanon.next | apply State.launchGang_canon
    | split
theorem execGangReadyReport_canon (s : State) (hcan : s.Canon) : OutCanon (execGangReadyReport s) := by
  unfold execGangReadyReport
  repeat' first
    | with_reducible first
      | assumption | apply State.canon_ite | apply OutCanon.next | apply State.dieReady_canon
    | split
theorem execGangRelease_canon (s : State) (hcan : s.Canon) : OutCanon (execGangRelease s) := by
  unfold execGangRelease
  repeat' first
    | with_reducible first
      | assumption | intro _ | apply OutCanon.next | apply OutCanon.ite | apply State.modPlaced_canon | apply State.releaseTask_canon
      | apply State.canon_foldl
    | dsimp only | split
theorem execRerun_canon (s : State) (hcan : s.Canon) : OutCanon (execRerun s) := by
  unfold execRerun
  repeat' first
    | with_reducible first
      | assumption | apply OutCanon.next | apply State.taskEnds_canon | apply State.relaunch_canon
    | split
theorem execPreload_canon (s : State) (hcan : s.Canon) : OutCanon (execPreload s) := by
  unfold execPreload
  repeat' first
    | with_reducible first
      | assumption | apply OutCanon.next | apply OutCanon.ite | apply State.park_canon | apply State.stageParked_canon
    | split
theorem execParkedTaskStart_canon (s : State) (hcan : s.Canon) : OutCanon (execParkedTaskStart s) := by
  unfold execParkedTaskStart
  repeat' first
    | with_reducible first
      | assumption | apply OutCanon.next | apply State.startParked_canon
    | split
theorem execPreemptionRequest_canon (s : State) (hcan : s.Canon) : OutCanon (execPreemptionRequest s) := by
  unfold execPreemptionRequest
  repeat' first
    | with_reducible first
      | assumption | apply OutCanon.next | apply State.askPreempt_canon
    | split
theorem execPreemptionSave_canon (s : State) (hcan : s.Canon) : OutCanon (execPreemptionSave s) := by
  unfold execPreemptionSave
  repeat' first
    | with_reducible first
      | assumption | apply OutCanon.next | apply OutCanon.ite | apply State.leaveSaved_canon | apply State.save_canon
    | dsimp only | split
theorem execContextRestore_canon (s : State) (hcan : s.Canon) : OutCanon (execContextRestore s) := by
  unfold execContextRestore
  repeat' first
    | with_reducible first
      | assumption | apply OutCanon.next | apply State.restore_canon
    | split
theorem execBudgetExpiry_canon (s : State) (hcan : s.Canon) : OutCanon (execBudgetExpiry s) := by
  unfold execBudgetExpiry
  repeat' first
    | with_reducible first
      | assumption | apply OutCanon.next | apply OutCanon.ite | apply State.note_canon | apply State.modLaunch_canon
      | apply State.askPreempt_canon
    | split
theorem execBudgetFinalExpiry_canon (s : State) (hcan : s.Canon) : OutCanon (execBudgetFinalExpiry s) := by
  unfold execBudgetFinalExpiry
  repeat' first
    | with_reducible first
      | assumption | apply State.canon_ite | apply OutCanon.next | apply OutCanon.ite | apply State.endTask_canon
      | apply State.endGroups_canon
    | split
theorem execDelayedTriggerAction_canon (s : State) (hcan : s.Canon) : OutCanon (execDelayedTriggerAction s) := by
  unfold execDelayedTriggerAction
  repeat' first
    | with_reducible first
      | assumption | apply State.canon_ite | apply OutCanon.next | apply State.modPort_canon | apply State.doneTrigger_canon
      | apply State.credit_canon | apply State.sendUli_canon
    | dsimp only | split
theorem State.bindContext_canon (s : State) (d : Bool) (ctx grant : Nat) (hcan : s.Canon) : (s.bindContext d ctx grant).Canon := by
  unfold State.bindContext
  repeat' first
    | with_reducible first
      | assumption | apply State.canon_ite | apply State.picked_canon | apply State.modPort_canon | apply State.answer_canon
    | split
theorem State.askCancel_canon (s : State) (d : Bool) (q n : Nat) (hcan : s.Canon) : (s.askCancel d q n).Canon := by
  unfold State.askCancel
  repeat' first
    | with_reducible first
      | assumption | apply State.canon_ite | apply State.row_canon | apply State.picked_canon | apply State.answer_canon
    | dsimp only
theorem State.appendNow_canon (s : State) (d : Bool) (a : BitVec 16) (q : Nat) (b : Blob) (off : Nat) (hcan : s.Canon) (u : State)
    (h : s.appendNow d a q b off = some u) : u.Canon := by
  unfold State.appendNow at h
  split at h
  · cases h; exact State.answer_canon _ _ _ hcan
  · split at h <;> cases h
    exact State.appendBlob_canon _ _ _ _ _ _ (State.modPort_canon _ _ _ hcan)
/-- A command of a submission keeps the form, whatever its outcome. -/
theorem State.submitOne_canon (s : State) (d : Bool) (ctx : Nat) (c : GpuCommand) (hcan : s.Canon) (u : State)
    (h : s.submitOne d ctx c = some u) : u.Canon := by
  unfold State.submitOne at h
  split at h
  · cases h; exact State.bindContext_canon _ _ _ _ hcan
  · cases h; exact State.answer_canon _ _ _ hcan
  · split at h
    · exact State.appendNow_canon _ _ _ _ _ _ hcan _ h
    · cases h; exact State.answer_canon _ _ _ hcan
  · cases h; exact State.askCancel_canon _ _ _ _ hcan
theorem State.submitAll_canon (s : State) (d : Bool) (ctx fence : Nat) (l : List (BitVec 32)) (n : Nat) (hcan : s.Canon) :
    (s.submitAll d ctx fence l n).Canon := by
  induction n generalizing s l with
  | zero => exact hcan
  | succ n ih =>
    unfold State.submitAll
    repeat' first
      | with_reducible first
        | assumption | apply State.canon_ite | apply State.modPort_canon | apply State.answer_canon | apply ih
      | split
    all_goals exact State.submitOne_canon _ _ _ _ hcan _ (by assumption)
theorem State.submit_canon (s : State) (d : Bool) (ctx fence : Nat) (l : List (BitVec 32)) (hcan : s.Canon) :
    (s.submit d ctx fence l).Canon := by
  unfold State.submit
  repeat' first
    | with_reducible first
      | assumption | apply State.canon_ite | apply State.modPort_canon | apply State.submitAll_canon
    | split
theorem State.portResets_canon (s : State) (d : Bool) (k : ResetKind) (hcan : s.Canon) : (s.portResets d k).Canon := by
  unfold State.portResets
  repeat' with_reducible first
    | assumption | apply State.canon_ite | apply State.modPort_canon | apply State.dropHostAgent_canon
theorem State.engineError_canon (s : State) (st : StreamId) (q place : Nat) (hcan : s.Canon) : (s.engineError st q place).Canon := by
  unfold State.engineError
  repeat' first
    | with_reducible first
      | assumption | apply State.canon_ite | apply State.failCommand_canon
    | split
theorem execBind_canon (s : State) (hcan : s.Canon) : OutCanon (execBind s) := by
  unfold execBind
  repeat' first
    | with_reducible first
      | assumption | apply State.canon_ite | apply OutCanon.next | apply State.bindContext_canon | apply State.submit_canon
    | split
theorem execAppend_canon (s : State) (hcan : s.Canon) : OutCanon (execAppend s) := by
  unfold execAppend
  repeat' first
    | with_reducible first
      | assumption | apply State.canon_ite | apply OutCanon.next | apply OutCanon.ite | apply State.modPort_canon
      | apply State.answer_canon | apply State.appendBlob_canon | apply State.submit_canon
    | dsimp only | split
theorem execCancel_canon (s : State) (hcan : s.Canon) : OutCanon (execCancel s) := by
  unfold execCancel
  repeat' first
    | with_reducible first
      | assumption | apply OutCanon.next | apply OutCanon.ite | apply State.answer_canon | apply State.askCancel_canon
      | apply State.submit_canon
    | dsimp only | split
theorem execHostBlobAccess_canon (s : State) (hcan : s.Canon) : OutCanon (execHostBlobAccess s) := by
  unfold execHostBlobAccess
  repeat' first
    | with_reducible first
      | assumption | apply OutCanon.next | apply OutCanon.ite | apply State.putThrough_canon
      | refine SndCanon.snd (State.readThrough_canon _ _ _ _ _ ?_) | apply State.modPort_canon | apply State.blobPages_canon
      | refine SndCanon.of_eq (by with_reducible assumption) ?_
    | dsimp only | split
theorem execHostCounterRead_canon (s : State) (hcan : s.Canon) : OutCanon (execHostCounterRead s) := by
  unfold execHostCounterRead
  repeat' first
    | with_reducible first
      | assumption | apply State.canon_ite | apply OutCanon.next | apply State.modPort_canon
    | split
theorem execHostCounterWrite_canon (s : State) (hcan : s.Canon) : OutCanon (execHostCounterWrite s) := by
  unfold execHostCounterWrite
  repeat' first
    | with_reducible first
      | assumption | apply State.canon_ite | apply OutCanon.next | apply State.ctrAdd_canon
    | split
theorem execPortReset_canon (s : State) (hcan : s.Canon) : OutCanon (execPortReset s) := by
  unfold execPortReset
  repeat' first
    | with_reducible first
      | assumption | apply State.canon_ite | apply OutCanon.next | apply State.portResets_canon | apply State.portDown_canon
    | split
theorem execVirtqueueNotification_canon (s : State) (hcan : s.Canon) : OutCanon (execVirtqueueNotification s) := by
  unfold execVirtqueueNotification
  repeat' first
    | with_reducible first
      | assumption | apply State.canon_ite | apply OutCanon.next | apply State.raiseSource_canon
    | split
theorem execFlitReceive_canon (s : State) (hcan : s.Canon) : OutCanon (execFlitReceive s) := by
  unfold execFlitReceive
  repeat' first
    | with_reducible first
      | assumption | apply State.canon_ite | apply OutCanon.next | apply State.takeFlit_canon
    | split
theorem execLinkRetrain_canon (s : State) (hcan : s.Canon) : OutCanon (execLinkRetrain s) := by
  unfold execLinkRetrain
  repeat' first
    | with_reducible first
      | assumption | apply OutCanon.next | apply OutCanon.ite | apply State.row_canon | apply State.picked_canon
      | apply State.modLink_canon | apply State.linkDown_canon
    | split
theorem execBoot_canon (s : State) (hcan : s.Canon) : OutCanon (execBoot s) := by
  unfold execBoot
  repeat' with_reducible first
    | assumption | apply OutCanon.next | apply State.bootUp_canon
theorem execThermalLimit_canon (s : State) (hcan : s.Canon) : OutCanon (execThermalLimit s) := by
  unfold execThermalLimit
  repeat' first
    | with_reducible first
      | assumption | apply OutCanon.next | apply State.note_canon | apply State.raiseSource_canon | apply State.setSteps_canon
    | dsimp only | split
theorem execThermalRecover_canon (s : State) (hcan : s.Canon) : OutCanon (execThermalRecover s) := by
  unfold execThermalRecover
  repeat' first
    | with_reducible first
      | assumption | apply State.canon_ite | apply OutCanon.next | apply State.setSteps_canon
    | split
theorem execMergeStage_canon (s : State) (hcan : s.Canon) : OutCanon (execMergeStage s) := by
  unfold execMergeStage
  repeat' first
    | with_reducible first
      | assumption | apply OutCanon.next | apply State.mergeClock_canon
    | split
theorem execIdleCountExpiry_canon (s : State) (hcan : s.Canon) : OutCanon (execIdleCountExpiry s) := by
  unfold execIdleCountExpiry
  repeat' first
    | with_reducible first
      | assumption | apply State.canon_ite | apply OutCanon.next | apply State.setStream_canon
    | dsimp only | split
theorem execResultLanding_canon (s : State) (hcan : s.Canon) : OutCanon (execResultLanding s) := by
  unfold execResultLanding
  repeat' first
    | with_reducible first
      | assumption | apply OutCanon.next | apply State.landDue_canon
    | split
theorem execShutterDelivery_canon (s : State) (hcan : s.Canon) : OutCanon (execShutterDelivery s) := by
  unfold execShutterDelivery
  repeat' first
    | with_reducible first
      | assumption | apply OutCanon.next | apply State.landDue_canon
    | split
theorem execQueueEntryArrival_canon (s : State) (hcan : s.Canon) : OutCanon (execQueueEntryArrival s) := by
  unfold execQueueEntryArrival
  repeat' first
    | with_reducible first
      | assumption | intro _ | apply OutCanon.next | apply State.passOut_canon | apply State.canon_foldl
    | split
theorem execEmptyBundle_canon (s : State) (h : s.Canon) : OutCanon (execEmptyBundle s) :=
  OutCanon.next (State.run_canon _ _ (fun _ h => nomatch h) h)
theorem execCooperativeMmaIssue_canon (s : State) (hcan : s.Canon) : OutCanon (execCooperativeMmaIssue s) := by
  unfold execCooperativeMmaIssue
  repeat' first
    | with_reducible first
      | assumption | apply OutCanon.next | apply State.coopClock_canon
    | split
theorem execShaderPartitionSelect_canon (s : State) (hcan : s.Canon) : OutCanon (execShaderPartitionSelect s) := by
  unfold execShaderPartitionSelect
  repeat' first
    | with_reducible first
      | assumption | apply OutCanon.next | apply State.selectWave_canon
    | split
theorem execPathWaitLimit_canon (s : State) (hcan : s.Canon) : OutCanon (execPathWaitLimit s) := by
  unfold execPathWaitLimit
  repeat' first
    | with_reducible first
      | assumption | apply OutCanon.next | apply State.modStream_canon
    | dsimp only | split
theorem execUliEntry_canon (s : State) (hcan : s.Canon) : OutCanon (execUliEntry s) := by
  unfold execUliEntry
  repeat' first
    | with_reducible first
      | assumption | apply OutCanon.next | apply OutCanon.ite | apply State.setStream_canon | apply State.clearReservations_canon
    | dsimp only | split
theorem execDebugHalt_canon (s : State) (hcan : s.Canon) : OutCanon (execDebugHalt s) := by
  unfold execDebugHalt
  repeat' first
    | with_reducible first
      | assumption | apply OutCanon.next | apply State.modStream_canon
    | dsimp only | split
theorem execDebugResume_canon (s : State) (hcan : s.Canon) : OutCanon (execDebugResume s) := by
  unfold execDebugResume
  repeat' first
    | with_reducible first
      | assumption | apply OutCanon.next | apply State.modStream_canon
    | split
theorem execSupervisorInterrupt_canon (s : State) (hcan : s.Canon) : OutCanon (execSupervisorInterrupt s) := by
  unfold execSupervisorInterrupt
  repeat' first
    | with_reducible first
      | assumption | apply OutCanon.next | apply OutCanon.ite | apply State.picked_canon | apply State.service_canon
    | dsimp only | split
theorem execUncorrectableError_canon (s : State) (hcan : s.Canon) : OutCanon (execUncorrectableError s) := by
  unfold execUncorrectableError
  repeat' first
    | with_reducible first
      | assumption | apply OutCanon.next | apply State.pageError_canon | apply State.eccError_canon | apply State.engineError_canon
    | split
theorem exec_canon (i : Instr) (s : State) (h : s.Canon) : OutCanon (exec i s) := by
  cases i
  case nop => exact execNop_canon s h
  case add o => exact execAdd_canon o s h
  case sub o => exact execSub_canon o s h
  case mul o => exact execMul_canon o s h
  case mulh o => exact execMulh_canon o s h
  case mulhn o => exact execMulhn_canon o s h
  case div o => exact execDiv_canon o s h
  case divn o => exact execDivn_canon o s h
  case rem o => exact execRem_canon o s h
  case remn o => exact execRemn_canon o s h
  case and o => exact execAnd_canon o s h
  case or o => exact execOr_canon o s h
  case xor o => exact execXor_canon o s h
  case andn o => exact execAndn_canon o s h
  case shl o => exact execShl_canon o s h
  case shr o => exact execShr_canon o s h
  case sar o => exact execSar_canon o s h
  case rol o => exact execRol_canon o s h
  case min o => exact execMin_canon o s h
  case minn o => exact execMinn_canon o s h
  case max o => exact execMax_canon o s h
  case maxn o => exact execMaxn_canon o s h
  case clz o => exact execClz_canon o s h
  case ctz o => exact execCtz_canon o s h
  case popc o => exact execPopc_canon o s h
  case sext o => exact execSext_canon o s h
  case zext o => exact execZext_canon o s h
  case bfx o => exact execBfx_canon o s h
  case bfi o => exact execBfi_canon o s h
  case sel o => exact execSel_canon o s h
  case li o => exact execLi_canon o s h
  case lih o => exact execLih_canon o s h
  case cmp o => exact execCmp_canon o s h
  case plog o => exact execPlog_canon o s h
  case pmov o => exact execPmov_canon o s h
  case pmovHToS o => exact execPmovHToS_canon o s h
  case pmovHFromS o => exact execPmovHFromS_canon o s h
  case pmovB o => exact execPmovB_canon o s h
  case fadd o => exact execFadd_canon o s h
  case fsub o => exact execFsub_canon o s h
  case fmul o => exact execFmul_canon o s h
  case fdiv o => exact execFdiv_canon o s h
  case fsqrt o => exact execFsqrt_canon o s h
  case ffma o => exact execFfma_canon o s h
  case fcmp o => exact execFcmp_canon o s h
  case fcvt o => exact execFcvt_canon o s h
  case fminmax o => exact execFminmax_canon o s h
  case bru o => exact execBru_canon o s h
  case jmp o => exact execJmp_canon o s h
  case call o => exact execCall_canon o s h
  case ret o => exact execRet_canon o s h
  case loop o => exact execLoop_canon o s h
  case brk o => exact execBrk_canon o s h
  case brl o => exact execBrl_canon o s h
  case jmpl o => exact execJmpl_canon o s h
  case calll o => exact execCalll_canon o s h
  case retl o => exact execRetl_canon o s h
  case join o => exact execJoin_canon o s h
  case yieldp o => exact execYieldp_canon o s h
  case csrr o => exact execCsrr_canon o s h
  case csrw o => exact execCsrw_canon o s h
  case csrs o => exact execCsrs_canon o s h
  case csrc o => exact execCsrc_canon o s h
  case sysc o => exact execSysc_canon o s h
  case trap o => exact execTrap_canon o s h
  case eret o => exact execEret_canon o s h
  case uret o => exact execUret_canon o s h
  case wfi o => exact execWfi_canon o s h
  case halt o => exact execHalt_canon o s h
  case brkpt o => exact execBrkpt_canon o s h
  case tlbi o => exact execTlbi_canon o s h
  case cmaint o => exact execCmaint_canon o s h
  case mts o => exact execMts_canon o s h
  case mfs o => exact execMfs_canon o s h
  case mtq o => exact execMtq_canon o s h
  case evadd o => exact execEvadd_canon o s h
  case evld o => exact execEvld_canon o s h
  case evarm o => exact execEvarm_canon o s h
  case evwait o => exact execEvwait_canon o s h
  case lea o => exact execLea_canon o s h
  case addpc o => exact execAddpc_canon o s h
  case wid o => exact execWid_canon o s h
  case vnop => exact execVnop_canon s h
  case vadd o => exact execVadd_canon o s h
  case vsub o => exact execVsub_canon o s h
  case vmul o => exact execVmul_canon o s h
  case vmulh o => exact execVmulh_canon o s h
  case vmad o => exact execVmad_canon o s h
  case vabs o => exact execVabs_canon o s h
  case vneg o => exact execVneg_canon o s h
  case vmin o => exact execVmin_canon o s h
  case vmax o => exact execVmax_canon o s h
  case vadds o => exact execVadds_canon o s h
  case vsubs o => exact execVsubs_canon o s h
  case vavg o => exact execVavg_canon o s h
  case vsad o => exact execVsad_canon o s h
  case vand o => exact execVand_canon o s h
  case vor o => exact execVor_canon o s h
  case vxor o => exact execVxor_canon o s h
  case vandn o => exact execVandn_canon o s h
  case vshl o => exact execVshl_canon o s h
  case vshr o => exact execVshr_canon o s h
  case vsar o => exact execVsar_canon o s h
  case vclz o => exact execVclz_canon o s h
  case vpopc o => exact execVpopc_canon o s h
  case vbfx o => exact execVbfx_canon o s h
  case vbfi o => exact execVbfi_canon o s h
  case vbsel o => exact execVbsel_canon o s h
  case vfadd o => exact execVfadd_canon o s h
  case vfsub o => exact execVfsub_canon o s h
  case vfmul o => exact execVfmul_canon o s h
  case vffma o => exact execVffma_canon o s h
  case vfmin o => exact execVfmin_canon o s h
  case vfmax o => exact execVfmax_canon o s h
  case vrcp o => exact execVrcp_canon o s h
  case vrsq o => exact execVrsq_canon o s h
  case vsqrt o => exact execVsqrt_canon o s h
  case vexp2 o => exact execVexp2_canon o s h
  case vlog2 o => exact execVlog2_canon o s h
  case vsin o => exact execVsin_canon o s h
  case vcos o => exact execVcos_canon o s h
  case vtanh o => exact execVtanh_canon o s h
  case vcvt o => exact execVcvt_canon o s h
  case vquant o => exact execVquant_canon o s h
  case vdeq o => exact execVdeq_canon o s h
  case vcmp o => exact execVcmp_canon o s h
  case vsel o => exact execVsel_canon o s h
  case vplog o => exact execVplog_canon o s h
  case vpcnt o => exact execVpcnt_canon o s h
  case vpfirst o => exact execVpfirst_canon o s h
  case vpany o => exact execVpany_canon o s h
  case vtbl o => exact execVtbl_canon o s h
  case vperm o => exact execVperm_canon o s h
  case vslide o => exact execVslide_canon o s h
  case vshfl o => exact execVshfl_canon o s h
  case vbcast o => exact execVbcast_canon o s h
  case vext o => exact execVext_canon o s h
  case vins o => exact execVins_canon o s h
  case vzip o => exact execVzip_canon o s h
  case vunzip o => exact execVunzip_canon o s h
  case vredadd o => exact execVredadd_canon o s h
  case vredmin o => exact execVredmin_canon o s h
  case vredmax o => exact execVredmax_canon o s h
  case vredlog o => exact execVredlog_canon o s h
  case vscan o => exact execVscan_canon o s h
  case vfredadd o => exact execVfredadd_canon o s h
  case vmov o => exact execVmov_canon o s h
  case vmovS o => exact execVmovS_canon o s h
  case vli o => exact execVli_canon o s h
  case vlane o => exact execVlane_canon o s h
  case lnop => exact execLnop_canon s h
  case ld o => exact execLd_canon o s h
  case vld o => exact execVld_canon o s h
  case vlds o => exact execVlds_canon o s h
  case vldg o => exact execVldg_canon o s h
  case tld o => exact execTld_canon o s h
  case gld o => exact execGld_canon o s h
  case ldx o => exact execLdx_canon o s h
  case lpf o => exact execLpf_canon o s h
  case amadd o => exact execAmadd_canon o s h
  case ammin o => exact execAmmin_canon o s h
  case ammax o => exact execAmmax_canon o s h
  case amand o => exact execAmand_canon o s h
  case amor o => exact execAmor_canon o s h
  case amxor o => exact execAmxor_canon o s h
  case amswp o => exact execAmswp_canon o s h
  case amcas o => exact execAmcas_canon o s h
  case amfadd o => exact execAmfadd_canon o s h
  case aminc o => exact execAminc_canon o s h
  case wnop => exact execWnop_canon s h
  case st o => exact execSt_canon o s h
  case vst o => exact execVst_canon o s h
  case vsts o => exact execVsts_canon o s h
  case vsct o => exact execVsct_canon o s h
  case tst o => exact execTst_canon o s h
  case gst o => exact execGst_canon o s h
  case stx o => exact execStx_canon o s h
  case cadd o => exact execCadd_canon o s h
  case cwb o => exact execCwb_canon o s h
  case mnop => exact execMnop_canon s h
  case mma o => exact execMma_canon o s h
  case mmas o => exact execMmas_canon o s h
  case mzero o => exact execMzero_canon o s h
  case mdrain o => exact execMdrain_canon o s h
  case mlaccSave o => exact execMlaccSave_canon o s h
  case mlaccLoad o => exact execMlaccLoad_canon o s h
  case wvmac o => exact execWvmac_canon o s h
  case cnop => exact execCnop_canon s h
  case copy o => exact execCopy_canon o s h
  case gath o => exact execGath_canon o s h
  case scat o => exact execScat_canon o s h
  case qbcast o => exact execQbcast_canon o s h
  case pfb o => exact execPfb_canon o s h
  case drop o => exact execDrop_canon o s h
  case coll o => exact execColl_canon o s h
  case xsort o => exact execXsort_canon o s h
  case tmoveMove o => exact execTmoveMove_canon o s h
  case tmoveEvict o => exact execTmoveEvict_canon o s h
  case tqpush o => exact execTqpush_canon o s h
  case rlaunch o => exact execRlaunch_canon o s h
  case rtrace o => exact execRtrace_canon o s h
  case qfence o => exact execQfence_canon o s h
  case sopen o => exact execSopen_canon o s h
  case sopenEvicted o => exact execSopenEvicted_canon o s h
  case satt o => exact execSatt_canon o s h
  case srel o => exact execSrel_canon o s h
  case sevict o => exact execSevict_canon o s h
  case sdrop o => exact execSdrop_canon o s h
  case ynop => exact execYnop_canon s h
  case bar o => exact execBar_canon o s h
  case barphArrive o => exact execBarphArrive_canon o s h
  case barphWait o => exact execBarphWait_canon o s h
  case fence o => exact execFence_canon o s h
  case tkwait o => exact execTkwait_canon o s h
  case tktest o => exact execTktest_canon o s h
  case flagw o => exact execFlagw_canon o s h
  case flagset o => exact execFlagset_canon o s h
  case ulien o => exact execUlien_canon o s h
  case mergeStage => exact execMergeStage_canon s h
  case idleCountExpiry => exact execIdleCountExpiry_canon s h
  case shaderPartitionSelect => exact execShaderPartitionSelect_canon s h
  case pathWaitLimit => exact execPathWaitLimit_canon s h
  case resultLanding => exact execResultLanding_canon s h
  case shutterDelivery => exact execShutterDelivery_canon s h
  case queueEntryArrival => exact execQueueEntryArrival_canon s h
  case flagSetArrival => exact execFlagSetArrival_canon s h
  case loadDataReturn => exact execLoadDataReturn_canon s h
  case memoryValueReturn => exact execMemoryValueReturn_canon s h
  case writeBufferDrain => exact execWriteBufferDrain_canon s h
  case emptyBundle => exact execEmptyBundle_canon s h
  case tlbiCompletion => exact execTlbiCompletion_canon s h
  case cmaintCompletion => exact execCmaintCompletion_canon s h
  case delayedTriggerAction => exact execDelayedTriggerAction_canon s h
  case cooperativeMmaIssue => exact execCooperativeMmaIssue_canon s h
  case arrayOccupancyEnd => exact execArrayOccupancyEnd_canon s h
  case drainCommit => exact execDrainCommit_canon s h
  case engineCommandStart => exact execEngineCommandStart_canon s h
  case engineCommandComplete => exact execEngineCommandComplete_canon s h
  case collectiveMatch => exact execCollectiveMatch_canon s h
  case rlaunchRemoteEnd => exact execRlaunchRemoteEnd_canon s h
  case remoteLaunchReceive => exact execRemoteLaunchReceive_canon s h
  case baseLanding => exact execBaseLanding_canon s h
  case sashDirectoryAnswer => exact execSashDirectoryAnswer_canon s h
  case sattAttach => exact execSattAttach_canon s h
  case srelComplete => exact execSrelComplete_canon s h
  case sashWritebackAck => exact execSashWritebackAck_canon s h
  case sashRestoreComplete => exact execSashRestoreComplete_canon s h
  case evictionWritebackFault => exact execEvictionWritebackFault_canon s h
  case reservationKill => exact execReservationKill_canon s h
  case reservationAgeExpiry => exact execReservationAgeExpiry_canon s h
  case modeWrite => exact execModeWrite_canon s h
  case fstatWrite => exact execFstatWrite_canon s h
  case faircfgWrite => exact execFaircfgWrite_canon s h
  case lstkWrite => exact execLstkWrite_canon s h
  case curlimWrite => exact execCurlimWrite_canon s h
  case curwinWrite => exact execCurwinWrite_canon s h
  case causeWrite => exact execCauseWrite_canon s h
  case svecWrite => exact execSvecWrite_canon s h
  case uvecWrite => exact execUvecWrite_canon s h
  case ptbaseWrite => exact execPtbaseWrite_canon s h
  case registerWrite => exact execRegisterWrite_canon s h
  case faultRecordPost => exact execFaultRecordPost_canon s h
  case resumePortWrite => exact execResumePortWrite_canon s h
  case faultRingTailWrite => exact execFaultRingTailWrite_canon s h
  case uncorrectableError => exact execUncorrectableError_canon s h
  case uliEntry => exact execUliEntry_canon s h
  case debugHalt => exact execDebugHalt_canon s h
  case preemptionRequest => exact execPreemptionRequest_canon s h
  case preemptionSave => exact execPreemptionSave_canon s h
  case contextRestore => exact execContextRestore_canon s h
  case budgetExpiry => exact execBudgetExpiry_canon s h
  case budgetFinalExpiry => exact execBudgetFinalExpiry_canon s h
  case clusterCacheWriteback => exact execClusterCacheWriteback_canon s h
  case leaseExpiry => exact execLeaseExpiry_canon s h
  case epochSweep => exact execEpochSweep_canon s h
  case retentionEntry => exact execRetentionEntry_canon s h
  case retentionWake => exact execRetentionWake_canon s h
  case partialJoinOnArrival => exact execPartialJoinOnArrival_canon s h
  case rangeTableWrite => exact execRangeTableWrite_canon s h
  case directoryReadRequest => exact execDirectoryReadRequest_canon s h
  case directoryOwnershipRequest => exact execDirectoryOwnershipRequest_canon s h
  case evictionNotice => exact execEvictionNotice_canon s h
  case forward => exact execForward_canon s h
  case invalidation => exact execInvalidation_canon s h
  case invalidationAck => exact execInvalidationAck_canon s h
  case ownershipGrant => exact execOwnershipGrant_canon s h
  case writeUpdatePush => exact execWriteUpdatePush_canon s h
  case tokenBucketRefill => exact execTokenBucketRefill_canon s h
  case tableWalk => exact execTableWalk_canon s h
  case tableWalkComplete => exact execTableWalkComplete_canon s h
  case tmoveCopyComplete => exact execTmoveCopyComplete_canon s h
  case doorbell => exact execDoorbell_canon s h
  case recordBegin => exact execRecordBegin_canon s h
  case queueMap => exact execQueueMap_canon s h
  case slotReclaim => exact execSlotReclaim_canon s h
  case recordCancel => exact execRecordCancel_canon s h
  case groupDispatch => exact execGroupDispatch_canon s h
  case localityScoreDecay => exact execLocalityScoreDecay_canon s h
  case gangLaunch => exact execGangLaunch_canon s h
  case gangReadyReport => exact execGangReadyReport_canon s h
  case gangRelease => exact execGangRelease_canon s h
  case groupEnd => exact execGroupEnd_canon s h
  case rerun => exact execRerun_canon s h
  case preload => exact execPreload_canon s h
  case parkedTaskStart => exact execParkedTaskStart_canon s h
  case hostWrite => exact execHostWrite_canon s h
  case hostBlobAccess => exact execHostBlobAccess_canon s h
  case bind => exact execBind_canon s h
  case append => exact execAppend_canon s h
  case cancel => exact execCancel_canon s h
  case hostCounterRead => exact execHostCounterRead_canon s h
  case hostCounterWrite => exact execHostCounterWrite_canon s h
  case counterRegionAccess => exact execCounterRegionAccess_canon s h
  case portReset => exact execPortReset_canon s h
  case supervisorInterrupt => exact execSupervisorInterrupt_canon s h
  case timerCompare => exact execTimerCompare_canon s h
  case ipi => exact execIpi_canon s h
  case flitReceive => exact execFlitReceive_canon s h
  case linkRetrain => exact execLinkRetrain_canon s h
  case boot => exact execBoot_canon s h
  case patrolScrub => exact execPatrolScrub_canon s h
  case thermalLimit => exact execThermalLimit_canon s h
  case thermalRecover => exact execThermalRecover_canon s h
  case debugResume => exact execDebugResume_canon s h
  case virtqueueNotification => exact execVirtqueueNotification_canon s h
  case hostAttach => exact execHostAttach_canon s h
theorem step_canon (s : State) (h : s.Canon) : OutCanon (step s) := by
  unfold step
  split
  · exact OutCanon.next (State.clockEdge_canon _ h)
  · exact exec_canon _ _ (State.canon_mk (State.Canon.mem h))
  · exact OutCanon.next (State.coreClock_canon _ _ (State.canon_mk (State.Canon.mem h)))
  · rename_i st a b r _
    have k := State.enter_canon { s with agenda := r } st a b (State.canon_mk (State.Canon.mem h))
    split
    · next e => exact OutCanon.next (FstCanon.of_eq e k)
    · next e => exact exec_canon _ _ (FstCanon.of_eq e k)

end Sys2Proof.Machine
end

