-- ==== Sys2Proof/Laws/Codec.lean ====
section
/-! SUPPORT. A slot word read back gives the fields that it was written from, and the opcode. -/

set_option linter.unusedSimpArgs false

namespace Sys2Proof

/-! A part of the low half, of the high half, the whole of a word. -/

theorem ext_lo (a : BitVec m) (b : BitVec n) {s l : Nat} (h : s + l ≤ n) :
    (a ++ b).extractLsb' s l = b.extractLsb' s l := by
  ext i hi; simp only [BitVec.getElem_extractLsb', BitVec.getLsbD_append]; rw [if_pos (by omega)]
theorem ext_hi (a : BitVec m) (b : BitVec n) {s l : Nat} (h : n ≤ s) :
    (a ++ b).extractLsb' s l = a.extractLsb' (s - n) l := by
  ext i hi; simp only [BitVec.getElem_extractLsb', BitVec.getLsbD_append]; rw [if_neg (by omega)]; congr 1; omega
theorem ext_all (b : BitVec n) : b.extractLsb' 0 n = b := by
  ext i hi; simp [hi]
/-! A bit of the low half, of the high half, of a flag. -/

theorem bit_lo (a : BitVec m) (b : BitVec n) {s : Nat} (h : s < n) : (a ++ b).getLsbD s = b.getLsbD s := by
  simp [BitVec.getLsbD_append, h]
theorem bit_hi (a : BitVec m) (b : BitVec n) {s : Nat} (h : n ≤ s) : (a ++ b).getLsbD s = a.getLsbD (s - n) := by
  simp [BitVec.getLsbD_append, Nat.not_lt.2 h]

theorem getLsbD_ofBool (b : Bool) : (BitVec.ofBool b).getLsbD 0 = b := by cases b <;> rfl

/-! Operand fields, types and orders. -/

@[simp] theorem Src.ofBits_toBits (x : Src) : Src.ofBits x.toBits = x := by
  cases x <;> simp (disch := decide) only [Src.ofBits, Src.toBits, ext_lo, ext_hi, ext_all, bit_lo, bit_hi, BitVec.reduceToNat] <;> simp [ext_all]
@[simp] theorem Dst.ofBits_toBits (x : Dst) : Dst.ofBits x.toBits = x := by
  simp (disch := decide) only [getLsbD_ofBool, Nat.reduceSub, Dst.ofBits, Dst.toBits, ext_lo, ext_hi, ext_all, bit_lo, bit_hi]
@[simp] theorem Pred.ofBits_toBits (x : Pred) : Pred.ofBits x.toBits = x := by
  simp (disch := decide) only [getLsbD_ofBool, Nat.reduceSub, Pred.ofBits, Pred.toBits, ext_lo, ext_hi, ext_all, bit_lo, bit_hi]
@[simp] theorem ElTy.ofCode_code (t : ElTy) : ElTy.ofCode t.code = some t := by cases t <;> rfl
@[simp] theorem MemOrder.ofCode_code (t : MemOrder) : MemOrder.ofCode t.code = some t := by cases t <;> rfl

/-! Slot words: the fields and the opcode. -/

theorem SOp.ofWord_toWord (o : SOp) (c : BitVec 8) : SOp.ofWord (o.toWord c) = o := by
  simp (disch := decide) only [Src.ofBits_toBits, Dst.ofBits_toBits, Pred.ofBits_toBits, ElTy.ofCode_code,
    MemOrder.ofCode_code, getLsbD_ofBool, Nat.reduceSub, SOp.ofWord, SOp.toWord, ext_lo, ext_hi, ext_all, bit_lo, bit_hi]
theorem SOp.code_toWord (o : SOp) (c : BitVec 8) : (o.toWord c).extractLsb' 56 8 = c := by
  simp (disch := decide) only [Src.ofBits_toBits, Dst.ofBits_toBits, Pred.ofBits_toBits, ElTy.ofCode_code,
    MemOrder.ofCode_code, getLsbD_ofBool, Nat.reduceSub, SOp.toWord, ext_lo, ext_hi, ext_all]
theorem VOp.ofWord_toWord (o : VOp) (c : BitVec 8) (h : o.width ≠ 3) : VOp.ofWord (o.toWord c) = some o := by
  simp (disch := decide) only [Src.ofBits_toBits, Dst.ofBits_toBits, Pred.ofBits_toBits, ElTy.ofCode_code,
    MemOrder.ofCode_code, getLsbD_ofBool, Nat.reduceSub, VOp.ofWord, VOp.toWord, ext_lo, ext_hi, ext_all, bit_lo, bit_hi]; exact if_neg h
theorem VOp.code_toWord (o : VOp) (c : BitVec 8) : (o.toWord c).extractLsb' 56 8 = c := by
  simp (disch := decide) only [Src.ofBits_toBits, Dst.ofBits_toBits, Pred.ofBits_toBits, ElTy.ofCode_code,
    MemOrder.ofCode_code, getLsbD_ofBool, Nat.reduceSub, VOp.toWord, ext_lo, ext_hi, ext_all]
theorem LOp.ofWord_toWord (o : LOp) (c : BitVec 8) : LOp.ofWord (o.toWord c) = some o := by
  simp (disch := decide) only [Src.ofBits_toBits, Dst.ofBits_toBits, Pred.ofBits_toBits, ElTy.ofCode_code,
    MemOrder.ofCode_code, getLsbD_ofBool, Nat.reduceSub, LOp.ofWord, LOp.toWord, ext_lo, ext_hi, ext_all, bit_lo, bit_hi]
theorem LOp.code_toWord (o : LOp) (c : BitVec 8) : (o.toWord c).extractLsb' 56 8 = c := by
  simp (disch := decide) only [Src.ofBits_toBits, Dst.ofBits_toBits, Pred.ofBits_toBits, ElTy.ofCode_code,
    MemOrder.ofCode_code, getLsbD_ofBool, Nat.reduceSub, LOp.toWord, ext_lo, ext_hi, ext_all]
theorem WOp.ofWord_toWord (o : WOp) (c : BitVec 8) : WOp.ofWord (o.toWord c) = some o := by
  simp (disch := decide) only [Src.ofBits_toBits, Dst.ofBits_toBits, Pred.ofBits_toBits, ElTy.ofCode_code,
    MemOrder.ofCode_code, getLsbD_ofBool, Nat.reduceSub, WOp.ofWord, WOp.toWord, ext_lo, ext_hi, ext_all, bit_lo, bit_hi]
theorem WOp.code_toWord (o : WOp) (c : BitVec 8) : (o.toWord c).extractLsb' 56 8 = c := by
  simp (disch := decide) only [Src.ofBits_toBits, Dst.ofBits_toBits, Pred.ofBits_toBits, ElTy.ofCode_code,
    MemOrder.ofCode_code, getLsbD_ofBool, Nat.reduceSub, WOp.toWord, ext_lo, ext_hi, ext_all]
theorem MOp.ofWord_toWord (o : MOp) (c : BitVec 6) : MOp.ofWord (o.toWord c) = o := by
  simp (disch := decide) only [Src.ofBits_toBits, Dst.ofBits_toBits, Pred.ofBits_toBits, ElTy.ofCode_code,
    MemOrder.ofCode_code, getLsbD_ofBool, Nat.reduceSub, MOp.ofWord, MOp.toWord, ext_lo, ext_hi, ext_all, bit_lo, bit_hi]
theorem MOp.code_toWord (o : MOp) (c : BitVec 6) : (o.toWord c).extractLsb' 58 6 = c := by
  simp (disch := decide) only [Src.ofBits_toBits, Dst.ofBits_toBits, Pred.ofBits_toBits, ElTy.ofCode_code,
    MemOrder.ofCode_code, getLsbD_ofBool, Nat.reduceSub, MOp.toWord, ext_lo, ext_hi, ext_all]
theorem COp.ofWord_toWord (o : COp) (c : BitVec 8) : COp.ofWord (o.toWord c) = o := by
  simp (disch := decide) only [Src.ofBits_toBits, Dst.ofBits_toBits, Pred.ofBits_toBits, ElTy.ofCode_code,
    MemOrder.ofCode_code, getLsbD_ofBool, Nat.reduceSub, COp.ofWord, COp.toWord, ext_lo, ext_hi, ext_all, bit_lo, bit_hi]
theorem COp.code_toWord (o : COp) (c : BitVec 8) : (o.toWord c).extractLsb' 56 8 = c := by
  simp (disch := decide) only [Src.ofBits_toBits, Dst.ofBits_toBits, Pred.ofBits_toBits, ElTy.ofCode_code,
    MemOrder.ofCode_code, getLsbD_ofBool, Nat.reduceSub, COp.toWord, ext_lo, ext_hi, ext_all]
theorem YOp.ofWord_bits (o : YOp) (c : BitVec 6) : YOp.ofWord (o.bits c) = some o := by
  simp (disch := decide) only [Src.ofBits_toBits, Dst.ofBits_toBits, Pred.ofBits_toBits, ElTy.ofCode_code,
    MemOrder.ofCode_code, getLsbD_ofBool, Nat.reduceSub, YOp.ofWord, YOp.bits, ext_lo, ext_hi, ext_all, bit_lo, bit_hi]
theorem YOp.code_bits (o : YOp) (c : BitVec 6) : (o.bits c).extractLsb' 26 6 = c := by
  simp (disch := decide) only [Src.ofBits_toBits, Dst.ofBits_toBits, Pred.ofBits_toBits, ElTy.ofCode_code,
    MemOrder.ofCode_code, getLsbD_ofBool, Nat.reduceSub, YOp.bits, ext_lo, ext_hi, ext_all]
theorem YOp.low_toWord (o : YOp) (c : BitVec 6) : (o.toWord c).setWidth 32 = o.bits c := by
  simp [YOp.toWord]

end Sys2Proof
end

