-- ==== Sys2Proof/Laws/State.lean ====
section
/-! SUPPORT. What each update of the state leaves in each field. -/

namespace Sys2Proof.Machine

/-! ## `setStream` -/

@[simp] theorem State.setStream_streams (s : State) (st : StreamId) (x : Stream) : (s.setStream st x).streams = Table.put s.streams st x := rfl
@[simp] theorem State.setStream_barriers (s : State) (st : StreamId) (x : Stream) : (s.setStream st x).barriers = s.barriers := rfl
@[simp] theorem State.setStream_tiles (s : State) (st : StreamId) (x : Stream) : (s.setStream st x).tiles = s.tiles := rfl
@[simp] theorem State.setStream_shaders (s : State) (st : StreamId) (x : Stream) : (s.setStream st x).shaders = s.shaders := rfl
@[simp] theorem State.setStream_supers (s : State) (st : StreamId) (x : Stream) : (s.setStream st x).supers = s.supers := rfl
@[simp] theorem State.setStream_mm (s : State) (st : StreamId) (x : Stream) : (s.setStream st x).mm = s.mm := rfl
@[simp] theorem State.setStream_sched (s : State) (st : StreamId) (x : Stream) : (s.setStream st x).sched = s.sched := rfl
@[simp] theorem State.setStream_edge (s : State) (st : StreamId) (x : Stream) : (s.setStream st x).edge = s.edge := rfl
@[simp] theorem State.setStream_ltime (s : State) (st : StreamId) (x : Stream) : (s.setStream st x).ltime = s.ltime := rfl
@[simp] theorem State.setStream_wraps (s : State) (st : StreamId) (x : Stream) : (s.setStream st x).wraps = s.wraps := rfl
@[simp] theorem State.setStream_shaderPhase (s : State) (st : StreamId) (x : Stream) : (s.setStream st x).shaderPhase = s.shaderPhase := rfl
@[simp] theorem State.setStream_superPhase (s : State) (st : StreamId) (x : Stream) : (s.setStream st x).superPhase = s.superPhase := rfl
@[simp] theorem State.setStream_free (s : State) (st : StreamId) (x : Stream) : (s.setStream st x).free = s.free := rfl
@[simp] theorem State.setStream_subject (s : State) (st : StreamId) (x : Stream) : (s.setStream st x).subject = s.subject := rfl
@[simp] theorem State.setStream_agenda (s : State) (st : StreamId) (x : Stream) : (s.setStream st x).agenda = s.agenda := rfl
@[simp] theorem State.setStream_iss (s : State) (st : StreamId) (x : Stream) : (s.setStream st x).iss = s.iss := rfl

/-! ## `modStream` -/

@[simp] theorem State.modStream_streams (s : State) (st : StreamId) (f : Stream → Stream) : (s.modStream st f).streams = Table.put s.streams st (f (s.stream st)) := rfl
@[simp] theorem State.modStream_barriers (s : State) (st : StreamId) (f : Stream → Stream) : (s.modStream st f).barriers = s.barriers := rfl
@[simp] theorem State.modStream_tiles (s : State) (st : StreamId) (f : Stream → Stream) : (s.modStream st f).tiles = s.tiles := rfl
@[simp] theorem State.modStream_shaders (s : State) (st : StreamId) (f : Stream → Stream) : (s.modStream st f).shaders = s.shaders := rfl
@[simp] theorem State.modStream_supers (s : State) (st : StreamId) (f : Stream → Stream) : (s.modStream st f).supers = s.supers := rfl
@[simp] theorem State.modStream_mm (s : State) (st : StreamId) (f : Stream → Stream) : (s.modStream st f).mm = s.mm := rfl
@[simp] theorem State.modStream_sched (s : State) (st : StreamId) (f : Stream → Stream) : (s.modStream st f).sched = s.sched := rfl
@[simp] theorem State.modStream_edge (s : State) (st : StreamId) (f : Stream → Stream) : (s.modStream st f).edge = s.edge := rfl
@[simp] theorem State.modStream_ltime (s : State) (st : StreamId) (f : Stream → Stream) : (s.modStream st f).ltime = s.ltime := rfl
@[simp] theorem State.modStream_wraps (s : State) (st : StreamId) (f : Stream → Stream) : (s.modStream st f).wraps = s.wraps := rfl
@[simp] theorem State.modStream_shaderPhase (s : State) (st : StreamId) (f : Stream → Stream) : (s.modStream st f).shaderPhase = s.shaderPhase := rfl
@[simp] theorem State.modStream_superPhase (s : State) (st : StreamId) (f : Stream → Stream) : (s.modStream st f).superPhase = s.superPhase := rfl
@[simp] theorem State.modStream_free (s : State) (st : StreamId) (f : Stream → Stream) : (s.modStream st f).free = s.free := rfl
@[simp] theorem State.modStream_subject (s : State) (st : StreamId) (f : Stream → Stream) : (s.modStream st f).subject = s.subject := rfl
@[simp] theorem State.modStream_agenda (s : State) (st : StreamId) (f : Stream → Stream) : (s.modStream st f).agenda = s.agenda := rfl
@[simp] theorem State.modStream_iss (s : State) (st : StreamId) (f : Stream → Stream) : (s.modStream st f).iss = s.iss := rfl

/-! ## `modTile` -/

@[simp] theorem State.modTile_streams (s : State) (n : Nat) (f : TileCore → TileCore) : (s.modTile n f).streams = s.streams := rfl
@[simp] theorem State.modTile_barriers (s : State) (n : Nat) (f : TileCore → TileCore) : (s.modTile n f).barriers = s.barriers := rfl
@[simp] theorem State.modTile_tiles (s : State) (n : Nat) (f : TileCore → TileCore) : (s.modTile n f).tiles = Table.put s.tiles n (f (s.tile n)) := rfl
@[simp] theorem State.modTile_shaders (s : State) (n : Nat) (f : TileCore → TileCore) : (s.modTile n f).shaders = s.shaders := rfl
@[simp] theorem State.modTile_supers (s : State) (n : Nat) (f : TileCore → TileCore) : (s.modTile n f).supers = s.supers := rfl
@[simp] theorem State.modTile_mm (s : State) (n : Nat) (f : TileCore → TileCore) : (s.modTile n f).mm = s.mm := rfl
@[simp] theorem State.modTile_sched (s : State) (n : Nat) (f : TileCore → TileCore) : (s.modTile n f).sched = s.sched := rfl
@[simp] theorem State.modTile_edge (s : State) (n : Nat) (f : TileCore → TileCore) : (s.modTile n f).edge = s.edge := rfl
@[simp] theorem State.modTile_ltime (s : State) (n : Nat) (f : TileCore → TileCore) : (s.modTile n f).ltime = s.ltime := rfl
@[simp] theorem State.modTile_wraps (s : State) (n : Nat) (f : TileCore → TileCore) : (s.modTile n f).wraps = s.wraps := rfl
@[simp] theorem State.modTile_shaderPhase (s : State) (n : Nat) (f : TileCore → TileCore) : (s.modTile n f).shaderPhase = s.shaderPhase := rfl
@[simp] theorem State.modTile_superPhase (s : State) (n : Nat) (f : TileCore → TileCore) : (s.modTile n f).superPhase = s.superPhase := rfl
@[simp] theorem State.modTile_free (s : State) (n : Nat) (f : TileCore → TileCore) : (s.modTile n f).free = s.free := rfl
@[simp] theorem State.modTile_subject (s : State) (n : Nat) (f : TileCore → TileCore) : (s.modTile n f).subject = s.subject := rfl
@[simp] theorem State.modTile_agenda (s : State) (n : Nat) (f : TileCore → TileCore) : (s.modTile n f).agenda = s.agenda := rfl
@[simp] theorem State.modTile_iss (s : State) (n : Nat) (f : TileCore → TileCore) : (s.modTile n f).iss = s.iss := rfl

/-! ## `modShader` -/

@[simp] theorem State.modShader_streams (s : State) (n : Nat) (f : ShaderCore → ShaderCore) : (s.modShader n f).streams = s.streams := rfl
@[simp] theorem State.modShader_barriers (s : State) (n : Nat) (f : ShaderCore → ShaderCore) : (s.modShader n f).barriers = s.barriers := rfl
@[simp] theorem State.modShader_tiles (s : State) (n : Nat) (f : ShaderCore → ShaderCore) : (s.modShader n f).tiles = s.tiles := rfl
@[simp] theorem State.modShader_shaders (s : State) (n : Nat) (f : ShaderCore → ShaderCore) : (s.modShader n f).shaders = Table.put s.shaders n (f (s.shader n)) := rfl
@[simp] theorem State.modShader_supers (s : State) (n : Nat) (f : ShaderCore → ShaderCore) : (s.modShader n f).supers = s.supers := rfl
@[simp] theorem State.modShader_mm (s : State) (n : Nat) (f : ShaderCore → ShaderCore) : (s.modShader n f).mm = s.mm := rfl
@[simp] theorem State.modShader_sched (s : State) (n : Nat) (f : ShaderCore → ShaderCore) : (s.modShader n f).sched = s.sched := rfl
@[simp] theorem State.modShader_edge (s : State) (n : Nat) (f : ShaderCore → ShaderCore) : (s.modShader n f).edge = s.edge := rfl
@[simp] theorem State.modShader_ltime (s : State) (n : Nat) (f : ShaderCore → ShaderCore) : (s.modShader n f).ltime = s.ltime := rfl
@[simp] theorem State.modShader_wraps (s : State) (n : Nat) (f : ShaderCore → ShaderCore) : (s.modShader n f).wraps = s.wraps := rfl
@[simp] theorem State.modShader_shaderPhase (s : State) (n : Nat) (f : ShaderCore → ShaderCore) : (s.modShader n f).shaderPhase = s.shaderPhase := rfl
@[simp] theorem State.modShader_superPhase (s : State) (n : Nat) (f : ShaderCore → ShaderCore) : (s.modShader n f).superPhase = s.superPhase := rfl
@[simp] theorem State.modShader_free (s : State) (n : Nat) (f : ShaderCore → ShaderCore) : (s.modShader n f).free = s.free := rfl
@[simp] theorem State.modShader_subject (s : State) (n : Nat) (f : ShaderCore → ShaderCore) : (s.modShader n f).subject = s.subject := rfl
@[simp] theorem State.modShader_agenda (s : State) (n : Nat) (f : ShaderCore → ShaderCore) : (s.modShader n f).agenda = s.agenda := rfl
@[simp] theorem State.modShader_iss (s : State) (n : Nat) (f : ShaderCore → ShaderCore) : (s.modShader n f).iss = s.iss := rfl

/-! ## `modSuper` -/

@[simp] theorem State.modSuper_streams (s : State) (n : Nat) (f : SuperCore → SuperCore) : (s.modSuper n f).streams = s.streams := rfl
@[simp] theorem State.modSuper_barriers (s : State) (n : Nat) (f : SuperCore → SuperCore) : (s.modSuper n f).barriers = s.barriers := rfl
@[simp] theorem State.modSuper_tiles (s : State) (n : Nat) (f : SuperCore → SuperCore) : (s.modSuper n f).tiles = s.tiles := rfl
@[simp] theorem State.modSuper_shaders (s : State) (n : Nat) (f : SuperCore → SuperCore) : (s.modSuper n f).shaders = s.shaders := rfl
@[simp] theorem State.modSuper_supers (s : State) (n : Nat) (f : SuperCore → SuperCore) : (s.modSuper n f).supers = Table.put s.supers n (f (s.super n)) := rfl
@[simp] theorem State.modSuper_mm (s : State) (n : Nat) (f : SuperCore → SuperCore) : (s.modSuper n f).mm = s.mm := rfl
@[simp] theorem State.modSuper_sched (s : State) (n : Nat) (f : SuperCore → SuperCore) : (s.modSuper n f).sched = s.sched := rfl
@[simp] theorem State.modSuper_edge (s : State) (n : Nat) (f : SuperCore → SuperCore) : (s.modSuper n f).edge = s.edge := rfl
@[simp] theorem State.modSuper_ltime (s : State) (n : Nat) (f : SuperCore → SuperCore) : (s.modSuper n f).ltime = s.ltime := rfl
@[simp] theorem State.modSuper_wraps (s : State) (n : Nat) (f : SuperCore → SuperCore) : (s.modSuper n f).wraps = s.wraps := rfl
@[simp] theorem State.modSuper_shaderPhase (s : State) (n : Nat) (f : SuperCore → SuperCore) : (s.modSuper n f).shaderPhase = s.shaderPhase := rfl
@[simp] theorem State.modSuper_superPhase (s : State) (n : Nat) (f : SuperCore → SuperCore) : (s.modSuper n f).superPhase = s.superPhase := rfl
@[simp] theorem State.modSuper_free (s : State) (n : Nat) (f : SuperCore → SuperCore) : (s.modSuper n f).free = s.free := rfl
@[simp] theorem State.modSuper_subject (s : State) (n : Nat) (f : SuperCore → SuperCore) : (s.modSuper n f).subject = s.subject := rfl
@[simp] theorem State.modSuper_agenda (s : State) (n : Nat) (f : SuperCore → SuperCore) : (s.modSuper n f).agenda = s.agenda := rfl
@[simp] theorem State.modSuper_iss (s : State) (n : Nat) (f : SuperCore → SuperCore) : (s.modSuper n f).iss = s.iss := rfl

/-! ## `modMem` -/

@[simp] theorem State.modMem_streams (s : State) (f : MemSys → MemSys) : (s.modMem f).streams = s.streams := rfl
@[simp] theorem State.modMem_barriers (s : State) (f : MemSys → MemSys) : (s.modMem f).barriers = s.barriers := rfl
@[simp] theorem State.modMem_tiles (s : State) (f : MemSys → MemSys) : (s.modMem f).tiles = s.tiles := rfl
@[simp] theorem State.modMem_shaders (s : State) (f : MemSys → MemSys) : (s.modMem f).shaders = s.shaders := rfl
@[simp] theorem State.modMem_supers (s : State) (f : MemSys → MemSys) : (s.modMem f).supers = s.supers := rfl
@[simp] theorem State.modMem_mm (s : State) (f : MemSys → MemSys) : (s.modMem f).mm = f s.mm := rfl
@[simp] theorem State.modMem_sched (s : State) (f : MemSys → MemSys) : (s.modMem f).sched = s.sched := rfl
@[simp] theorem State.modMem_edge (s : State) (f : MemSys → MemSys) : (s.modMem f).edge = s.edge := rfl
@[simp] theorem State.modMem_ltime (s : State) (f : MemSys → MemSys) : (s.modMem f).ltime = s.ltime := rfl
@[simp] theorem State.modMem_wraps (s : State) (f : MemSys → MemSys) : (s.modMem f).wraps = s.wraps := rfl
@[simp] theorem State.modMem_shaderPhase (s : State) (f : MemSys → MemSys) : (s.modMem f).shaderPhase = s.shaderPhase := rfl
@[simp] theorem State.modMem_superPhase (s : State) (f : MemSys → MemSys) : (s.modMem f).superPhase = s.superPhase := rfl
@[simp] theorem State.modMem_free (s : State) (f : MemSys → MemSys) : (s.modMem f).free = s.free := rfl
@[simp] theorem State.modMem_subject (s : State) (f : MemSys → MemSys) : (s.modMem f).subject = s.subject := rfl
@[simp] theorem State.modMem_agenda (s : State) (f : MemSys → MemSys) : (s.modMem f).agenda = s.agenda := rfl
@[simp] theorem State.modMem_iss (s : State) (f : MemSys → MemSys) : (s.modMem f).iss = s.iss := rfl

/-! ## `modSched` -/

@[simp] theorem State.modSched_streams (s : State) (f : Sched → Sched) : (s.modSched f).streams = s.streams := rfl
@[simp] theorem State.modSched_barriers (s : State) (f : Sched → Sched) : (s.modSched f).barriers = s.barriers := rfl
@[simp] theorem State.modSched_tiles (s : State) (f : Sched → Sched) : (s.modSched f).tiles = s.tiles := rfl
@[simp] theorem State.modSched_shaders (s : State) (f : Sched → Sched) : (s.modSched f).shaders = s.shaders := rfl
@[simp] theorem State.modSched_supers (s : State) (f : Sched → Sched) : (s.modSched f).supers = s.supers := rfl
@[simp] theorem State.modSched_mm (s : State) (f : Sched → Sched) : (s.modSched f).mm = s.mm := rfl
@[simp] theorem State.modSched_sched (s : State) (f : Sched → Sched) : (s.modSched f).sched = f s.sched := rfl
@[simp] theorem State.modSched_edge (s : State) (f : Sched → Sched) : (s.modSched f).edge = s.edge := rfl
@[simp] theorem State.modSched_ltime (s : State) (f : Sched → Sched) : (s.modSched f).ltime = s.ltime := rfl
@[simp] theorem State.modSched_wraps (s : State) (f : Sched → Sched) : (s.modSched f).wraps = s.wraps := rfl
@[simp] theorem State.modSched_shaderPhase (s : State) (f : Sched → Sched) : (s.modSched f).shaderPhase = s.shaderPhase := rfl
@[simp] theorem State.modSched_superPhase (s : State) (f : Sched → Sched) : (s.modSched f).superPhase = s.superPhase := rfl
@[simp] theorem State.modSched_free (s : State) (f : Sched → Sched) : (s.modSched f).free = s.free := rfl
@[simp] theorem State.modSched_subject (s : State) (f : Sched → Sched) : (s.modSched f).subject = s.subject := rfl
@[simp] theorem State.modSched_agenda (s : State) (f : Sched → Sched) : (s.modSched f).agenda = s.agenda := rfl
@[simp] theorem State.modSched_iss (s : State) (f : Sched → Sched) : (s.modSched f).iss = s.iss := rfl

/-! ## `modEdge` -/

@[simp] theorem State.modEdge_streams (s : State) (f : Edge → Edge) : (s.modEdge f).streams = s.streams := rfl
@[simp] theorem State.modEdge_barriers (s : State) (f : Edge → Edge) : (s.modEdge f).barriers = s.barriers := rfl
@[simp] theorem State.modEdge_tiles (s : State) (f : Edge → Edge) : (s.modEdge f).tiles = s.tiles := rfl
@[simp] theorem State.modEdge_shaders (s : State) (f : Edge → Edge) : (s.modEdge f).shaders = s.shaders := rfl
@[simp] theorem State.modEdge_supers (s : State) (f : Edge → Edge) : (s.modEdge f).supers = s.supers := rfl
@[simp] theorem State.modEdge_mm (s : State) (f : Edge → Edge) : (s.modEdge f).mm = s.mm := rfl
@[simp] theorem State.modEdge_sched (s : State) (f : Edge → Edge) : (s.modEdge f).sched = s.sched := rfl
@[simp] theorem State.modEdge_edge (s : State) (f : Edge → Edge) : (s.modEdge f).edge = f s.edge := rfl
@[simp] theorem State.modEdge_ltime (s : State) (f : Edge → Edge) : (s.modEdge f).ltime = s.ltime := rfl
@[simp] theorem State.modEdge_wraps (s : State) (f : Edge → Edge) : (s.modEdge f).wraps = s.wraps := rfl
@[simp] theorem State.modEdge_shaderPhase (s : State) (f : Edge → Edge) : (s.modEdge f).shaderPhase = s.shaderPhase := rfl
@[simp] theorem State.modEdge_superPhase (s : State) (f : Edge → Edge) : (s.modEdge f).superPhase = s.superPhase := rfl
@[simp] theorem State.modEdge_free (s : State) (f : Edge → Edge) : (s.modEdge f).free = s.free := rfl
@[simp] theorem State.modEdge_subject (s : State) (f : Edge → Edge) : (s.modEdge f).subject = s.subject := rfl
@[simp] theorem State.modEdge_agenda (s : State) (f : Edge → Edge) : (s.modEdge f).agenda = s.agenda := rfl
@[simp] theorem State.modEdge_iss (s : State) (f : Edge → Edge) : (s.modEdge f).iss = s.iss := rfl

/-! ## `post` -/

@[simp] theorem State.post_streams (s : State) (l : List Item) : (s.post l).streams = s.streams := rfl
@[simp] theorem State.post_barriers (s : State) (l : List Item) : (s.post l).barriers = s.barriers := rfl
@[simp] theorem State.post_tiles (s : State) (l : List Item) : (s.post l).tiles = s.tiles := rfl
@[simp] theorem State.post_shaders (s : State) (l : List Item) : (s.post l).shaders = s.shaders := rfl
@[simp] theorem State.post_supers (s : State) (l : List Item) : (s.post l).supers = s.supers := rfl
@[simp] theorem State.post_mm (s : State) (l : List Item) : (s.post l).mm = s.mm := rfl
@[simp] theorem State.post_sched (s : State) (l : List Item) : (s.post l).sched = s.sched := rfl
@[simp] theorem State.post_edge (s : State) (l : List Item) : (s.post l).edge = s.edge := rfl
@[simp] theorem State.post_ltime (s : State) (l : List Item) : (s.post l).ltime = s.ltime := rfl
@[simp] theorem State.post_wraps (s : State) (l : List Item) : (s.post l).wraps = s.wraps := rfl
@[simp] theorem State.post_shaderPhase (s : State) (l : List Item) : (s.post l).shaderPhase = s.shaderPhase := rfl
@[simp] theorem State.post_superPhase (s : State) (l : List Item) : (s.post l).superPhase = s.superPhase := rfl
@[simp] theorem State.post_free (s : State) (l : List Item) : (s.post l).free = s.free := rfl
@[simp] theorem State.post_subject (s : State) (l : List Item) : (s.post l).subject = s.subject := rfl
@[simp] theorem State.post_agenda (s : State) (l : List Item) : (s.post l).agenda = s.agenda ++ l := rfl
@[simp] theorem State.post_iss (s : State) (l : List Item) : (s.post l).iss = s.iss := rfl

/-! ## `row` -/

@[simp] theorem State.row_streams (s : State) (i : Instr) (x : Subject) : (s.row i x).streams = s.streams := rfl
@[simp] theorem State.row_barriers (s : State) (i : Instr) (x : Subject) : (s.row i x).barriers = s.barriers := rfl
@[simp] theorem State.row_tiles (s : State) (i : Instr) (x : Subject) : (s.row i x).tiles = s.tiles := rfl
@[simp] theorem State.row_shaders (s : State) (i : Instr) (x : Subject) : (s.row i x).shaders = s.shaders := rfl
@[simp] theorem State.row_supers (s : State) (i : Instr) (x : Subject) : (s.row i x).supers = s.supers := rfl
@[simp] theorem State.row_mm (s : State) (i : Instr) (x : Subject) : (s.row i x).mm = s.mm := rfl
@[simp] theorem State.row_sched (s : State) (i : Instr) (x : Subject) : (s.row i x).sched = s.sched := rfl
@[simp] theorem State.row_edge (s : State) (i : Instr) (x : Subject) : (s.row i x).edge = s.edge := rfl
@[simp] theorem State.row_ltime (s : State) (i : Instr) (x : Subject) : (s.row i x).ltime = s.ltime := rfl
@[simp] theorem State.row_wraps (s : State) (i : Instr) (x : Subject) : (s.row i x).wraps = s.wraps := rfl
@[simp] theorem State.row_shaderPhase (s : State) (i : Instr) (x : Subject) : (s.row i x).shaderPhase = s.shaderPhase := rfl
@[simp] theorem State.row_superPhase (s : State) (i : Instr) (x : Subject) : (s.row i x).superPhase = s.superPhase := rfl
@[simp] theorem State.row_free (s : State) (i : Instr) (x : Subject) : (s.row i x).free = s.free := rfl
@[simp] theorem State.row_subject (s : State) (i : Instr) (x : Subject) : (s.row i x).subject = s.subject := rfl
@[simp] theorem State.row_agenda (s : State) (i : Instr) (x : Subject) : (s.row i x).agenda = s.agenda ++ [.row i x] := rfl
@[simp] theorem State.row_iss (s : State) (i : Instr) (x : Subject) : (s.row i x).iss = s.iss := rfl

/-! ## `next` -/

@[simp] theorem State.next_streams (s : State) (l : List Item) : (s.next l).streams = s.streams := rfl
@[simp] theorem State.next_barriers (s : State) (l : List Item) : (s.next l).barriers = s.barriers := rfl
@[simp] theorem State.next_tiles (s : State) (l : List Item) : (s.next l).tiles = s.tiles := rfl
@[simp] theorem State.next_shaders (s : State) (l : List Item) : (s.next l).shaders = s.shaders := rfl
@[simp] theorem State.next_supers (s : State) (l : List Item) : (s.next l).supers = s.supers := rfl
@[simp] theorem State.next_mm (s : State) (l : List Item) : (s.next l).mm = s.mm := rfl
@[simp] theorem State.next_sched (s : State) (l : List Item) : (s.next l).sched = s.sched := rfl
@[simp] theorem State.next_edge (s : State) (l : List Item) : (s.next l).edge = s.edge := rfl
@[simp] theorem State.next_ltime (s : State) (l : List Item) : (s.next l).ltime = s.ltime := rfl
@[simp] theorem State.next_wraps (s : State) (l : List Item) : (s.next l).wraps = s.wraps := rfl
@[simp] theorem State.next_shaderPhase (s : State) (l : List Item) : (s.next l).shaderPhase = s.shaderPhase := rfl
@[simp] theorem State.next_superPhase (s : State) (l : List Item) : (s.next l).superPhase = s.superPhase := rfl
@[simp] theorem State.next_free (s : State) (l : List Item) : (s.next l).free = s.free := rfl
@[simp] theorem State.next_subject (s : State) (l : List Item) : (s.next l).subject = s.subject := rfl
@[simp] theorem State.next_agenda (s : State) (l : List Item) : (s.next l).agenda = l ++ s.agenda := rfl
@[simp] theorem State.next_iss (s : State) (l : List Item) : (s.next l).iss = s.iss := rfl

/-! ## `picked` -/

@[simp] theorem State.picked_streams (s : State) : (s.picked).streams = s.streams := rfl
@[simp] theorem State.picked_barriers (s : State) : (s.picked).barriers = s.barriers := rfl
@[simp] theorem State.picked_tiles (s : State) : (s.picked).tiles = s.tiles := rfl
@[simp] theorem State.picked_shaders (s : State) : (s.picked).shaders = s.shaders := rfl
@[simp] theorem State.picked_supers (s : State) : (s.picked).supers = s.supers := rfl
@[simp] theorem State.picked_mm (s : State) : (s.picked).mm = s.mm := rfl
@[simp] theorem State.picked_sched (s : State) : (s.picked).sched = s.sched := rfl
@[simp] theorem State.picked_edge (s : State) : (s.picked).edge = s.edge := rfl
@[simp] theorem State.picked_ltime (s : State) : (s.picked).ltime = s.ltime := rfl
@[simp] theorem State.picked_wraps (s : State) : (s.picked).wraps = s.wraps := rfl
@[simp] theorem State.picked_shaderPhase (s : State) : (s.picked).shaderPhase = s.shaderPhase := rfl
@[simp] theorem State.picked_superPhase (s : State) : (s.picked).superPhase = s.superPhase := rfl
@[simp] theorem State.picked_free (s : State) : (s.picked).free = s.free + 1 := rfl
@[simp] theorem State.picked_subject (s : State) : (s.picked).subject = s.subject := rfl
@[simp] theorem State.picked_agenda (s : State) : (s.picked).agenda = s.agenda := rfl
@[simp] theorem State.picked_iss (s : State) : (s.picked).iss = s.iss := rfl

/-! ## `modCommon` -/

@[simp] theorem State.modCommon_streams (s : State) (c : CoreId) (f : Common → Common) : (s.modCommon c f).streams = s.streams := by cases c <;> rfl
@[simp] theorem State.modCommon_barriers (s : State) (c : CoreId) (f : Common → Common) : (s.modCommon c f).barriers = s.barriers := by cases c <;> rfl
@[simp] theorem State.modCommon_mm (s : State) (c : CoreId) (f : Common → Common) : (s.modCommon c f).mm = s.mm := by cases c <;> rfl
@[simp] theorem State.modCommon_sched (s : State) (c : CoreId) (f : Common → Common) : (s.modCommon c f).sched = s.sched := by cases c <;> rfl
@[simp] theorem State.modCommon_edge (s : State) (c : CoreId) (f : Common → Common) : (s.modCommon c f).edge = s.edge := by cases c <;> rfl
@[simp] theorem State.modCommon_ltime (s : State) (c : CoreId) (f : Common → Common) : (s.modCommon c f).ltime = s.ltime := by cases c <;> rfl
@[simp] theorem State.modCommon_wraps (s : State) (c : CoreId) (f : Common → Common) : (s.modCommon c f).wraps = s.wraps := by cases c <;> rfl
@[simp] theorem State.modCommon_shaderPhase (s : State) (c : CoreId) (f : Common → Common) : (s.modCommon c f).shaderPhase = s.shaderPhase := by cases c <;> rfl
@[simp] theorem State.modCommon_superPhase (s : State) (c : CoreId) (f : Common → Common) : (s.modCommon c f).superPhase = s.superPhase := by cases c <;> rfl
@[simp] theorem State.modCommon_free (s : State) (c : CoreId) (f : Common → Common) : (s.modCommon c f).free = s.free := by cases c <;> rfl
@[simp] theorem State.modCommon_subject (s : State) (c : CoreId) (f : Common → Common) : (s.modCommon c f).subject = s.subject := by cases c <;> rfl
@[simp] theorem State.modCommon_agenda (s : State) (c : CoreId) (f : Common → Common) : (s.modCommon c f).agenda = s.agenda := by cases c <;> rfl
@[simp] theorem State.modCommon_iss (s : State) (c : CoreId) (f : Common → Common) : (s.modCommon c f).iss = s.iss := by cases c <;> rfl

end Sys2Proof.Machine
end

