-- ==== Sys2Proof/Laws/Table.lean ====
section
/-! SUPPORT. What a table holds after an update, and what a state's parts are after one of them is changed. -/

namespace Sys2Proof

variable {κ α : Type} [DecidableEq κ]

/-- The key that was put holds the value. -/
@[simp] theorem Table.get_put_self (d : α) (t : Table κ α) (k : κ) (v : α) : Table.get d (Table.put t k v) k = v := by
  induction t with
  | nil => simp [Table.put, Table.get]
  | cons e t ih =>
    obtain ⟨j, w⟩ := e
    by_cases h : j = k <;> simp [Table.put, Table.get, h, ih]

/-- Every other key holds what it held. -/
theorem Table.get_put_ne (d : α) (t : Table κ α) {j k : κ} (v : α) (h : j ≠ k) :
    Table.get d (Table.put t k v) j = Table.get d t j := by
  induction t with
  | nil => simp [Table.put, Table.get, Ne.symm h]
  | cons e t ih =>
    obtain ⟨i, w⟩ := e
    by_cases hk : i = k
    · subst hk
      simp [Table.put, Table.get, Ne.symm h]
    · by_cases hj : i = j
      · subst hj
        simp [Table.put, Table.get, hk]
      · simp [Table.put, Table.get, hk, hj, ih]

namespace Machine

/-- The stream that was set. -/
@[simp] theorem State.stream_setStream_self (s : State) (st : StreamId) (x : Stream) : (s.setStream st x).stream st = x := by
  simp [State.stream]

/-- Every other stream is as it was. -/
theorem State.stream_setStream_ne (s : State) {st u : StreamId} (x : Stream) (h : u ≠ st) :
    (s.setStream st x).stream u = s.stream u := by
  simp [State.stream, Table.get_put_ne _ _ _ h]

/-- The stream that was changed. -/
@[simp] theorem State.stream_modStream_self (s : State) (st : StreamId) (f : Stream → Stream) :
    (s.modStream st f).stream st = f (s.stream st) := by
  simp [State.modStream]

/-- Every other stream is as it was. -/
theorem State.stream_modStream_ne (s : State) {st u : StreamId} (f : Stream → Stream) (h : u ≠ st) :
    (s.modStream st f).stream u = s.stream u := s.stream_setStream_ne _ h

/-- The tile core that was changed. -/
@[simp] theorem State.tile_modTile_self (s : State) (n : Nat) (f : TileCore → TileCore) :
    (s.modTile n f).tile n = f (s.tile n) := by
  simp [State.tile, State.clocks]

/-- Every other tile core is as it was. -/
theorem State.tile_modTile_ne (s : State) {n m : Nat} (f : TileCore → TileCore) (h : m ≠ n) :
    (s.modTile n f).tile m = s.tile m := by
  simp [State.tile, State.clocks, Table.get_put_ne _ _ _ h]

/-- What does not concern streams keeps them. -/
@[simp] theorem State.stream_modTile (s : State) (n : Nat) (f : TileCore → TileCore) (st : StreamId) :
    (s.modTile n f).stream st = s.stream st := rfl
@[simp] theorem State.stream_modMem (s : State) (f : MemSys → MemSys) (st : StreamId) : (s.modMem f).stream st = s.stream st := rfl
@[simp] theorem State.stream_picked (s : State) (st : StreamId) : s.picked.stream st = s.stream st := rfl
@[simp] theorem State.stream_row (s : State) (i : Instr) (x : Subject) (st : StreamId) : (s.row i x).stream st = s.stream st := rfl
@[simp] theorem State.stream_modCommon (s : State) (c : CoreId) (f : Common → Common) (st : StreamId) :
    (s.modCommon c f).stream st = s.stream st := by simp [State.stream]

/-- What does not concern tile cores keeps them. -/
@[simp] theorem State.tile_setStream (s : State) (st : StreamId) (x : Stream) (n : Nat) : (s.setStream st x).tile n = s.tile n := rfl
@[simp] theorem State.tile_modStream (s : State) (st : StreamId) (f : Stream → Stream) (n : Nat) :
    (s.modStream st f).tile n = s.tile n := rfl
@[simp] theorem State.tile_modMem (s : State) (f : MemSys → MemSys) (n : Nat) : (s.modMem f).tile n = s.tile n := rfl

end Machine

end Sys2Proof
end

