-- ==== Sys2Proof/Laws/Issue.lean ====
section
/-! SUPPORT. The issue of a bundle of one operation: what its plan does when every check passes, and when one does not. -/

namespace Sys2Proof.Machine

/-- The state with the slot of its own bundle is itself. -/
@[simp] theorem State.iss_slot_self (s : State) : { s with iss := { s.iss with slot := s.iss.slot } } = s := rfl

/-- One operation overfills no queue that has room for it. -/
@[simp] theorem State.overflows_single (s : State) (p : Plan) : s.overflows [p] = false := by
  have h : ∀ (q : Plan → Bool), ([p].filter q).length ≤ 1 := fun q => List.length_filter_le q [p]
  simp only [State.overflows, List.any_eq_false, Bool.and_eq_true, decide_eq_true_eq, not_and]
  intro k _ h1
  exact absurd h1 (by have := h fun p => decide (p.out = some (BitVec.ofNat 2 k)); omega)

/-- A plan of an operation that passes every check goes. -/
theorem State.verdict_go {s : State} {i : Instr} {p : Plan} (h : s.opens i = true) (he : p.enc = true) (hp : p.priv = true)
    (hh : p.hold = false) (hv : p.val = none) (ha : p.addr = .ok) : s.verdict [p] = .go := by
  simp only [State.opens, Bool.and_eq_true] at h
  have hq : ((popped s.hdr).any fun q => (s.queue s.iss.st q).isEmpty) = false := by
    have := h.1.2
    simp only [List.all_eq_true, List.any_eq_false] at this ⊢
    intro q hq
    simpa using this q hq
  simp [State.verdict, h.1.1, he, hp, hh, hv, ha, hq, Plan.reaches]

/-- The state after such a plan, when it reads no lost latch entry but those of the operation. -/
theorem State.run_issued {s : State} {i : Instr} {p : Plan} (h : s.admits i = true) (hs : p.slot = s.iss.slot)
    (he : p.enc = s.encOk i s.iss.slot) (hp : p.priv = true) (hh : p.hold = s.queueHold i) (hl : p.lost = s.readsLost i)
    (hv : p.val = none) (ha : p.addr = .ok) : s.run [p] = s.issuedThen i p.eff p.fin := by
  simp only [State.admits, Bool.and_eq_true, Bool.not_eq_true'] at h
  have ho := h.1
  simp only [State.opens, Bool.and_eq_true] at ho
  have hg := State.verdict_go (p := p) h.1 (he.trans ho.2) hp (hh.trans h.2) hv ha
  simp only [State.run, hg, State.effects, State.finals, List.foldl_cons, List.foldl_nil, List.any_cons, List.any_nil,
    Bool.or_false, hl, hs, State.issuedThen, State.taken]
  split <;> rfl

/-- The state after a plan that is no more than the operation's encoding: a predicated-off operation (R96, R128). -/
theorem State.run_bare {s : State} {i : Instr} (h : s.opens i = true) :
    s.run [{ slot := s.iss.slot, enc := s.encOk i s.iss.slot }] = s.skipped := by
  have ho := h
  simp only [State.opens, Bool.and_eq_true] at ho
  have hg := State.verdict_go (p := { slot := s.iss.slot, enc := s.encOk i s.iss.slot }) h ho.2 rfl rfl rfl rfl
  simp only [State.run, hg]
  rfl

/-- The issue of an operation with a plain plan. -/
theorem State.single_plan {s : State} {i : Instr} {f : State → State} (h : s.admits i = true) :
    s.single (s.plan i f) = .next (s.issued i f) := by
  simp only [State.single]
  rw [State.run_issued (i := i) h rfl rfl rfl rfl rfl rfl rfl]
  rfl

/-- A scalar operation whose test bit is 1 has its plan; with 0 it has no effect. -/
theorem State.scalar_on {s : State} {i : Instr} {o : SOp} {p : Plan} (h : s.testS o.pred = true) : s.scalar i o p = p := by
  simp [State.scalar, h]
theorem State.single_off {s : State} {i : Instr} {o : SOp} {p : Plan} (h : s.opens i = true) (ht : s.testS o.pred = false) :
    s.single (s.scalar i o p) = .next s.skipped := by
  simp [State.single, State.scalar, ht, State.run_bare h]

/-- The issue of a scalar operation that writes S[d]. -/
theorem State.single_planS {s : State} {i : Instr} {o : SOp} {lat : Nat} {v : Word} (h : s.admits i = true) (ht : s.testS o.pred = true) :
    s.single (s.planS i o lat v) = .next (s.issued i fun t => t.putS lat o.dst v 0 0) := by
  rw [State.planS, State.scalar_on ht, State.single_plan h]

/-- The issue of a scalar operation that writes P[d]. -/
theorem State.single_planP {s : State} {i : Instr} {o : SOp} {lat : Nat} {m v : PWord} {ff : BitVec 5} (h : s.admits i = true)
    (ht : s.testS o.pred = true) :
    s.single (s.planP i o lat m v ff) = .next (s.issued i fun t => t.putP lat o.dst (m &&& t.own) v ff) := by
  rw [State.planP, State.scalar_on ht, State.single_plan h]
  rfl

end Sys2Proof.Machine
end

