-- ==== Sys2Proof/Laws/PerInstr.lean ====
section
/-! SUPPORT. Decoding the encoding of a well-formed operation gives it back: one lemma for each row of the opcode table. -/

namespace Sys2Proof.Laws.Codec

/-- Where the encoding of an instruction is legal on some core type, its slot word decodes to it. An event has no word. -/
def Statement (i : Instr) : Prop :=
  ∀ ct, i.legal ct = true → ∀ sl w, encode i = some (sl, w) → decodeSlot sl w = some i

/-- A legal operation passes its own test. -/
theorem ok_of_legal {ct : CoreType} {i : Instr} (h : i.legal ct = true) : (i.shape ct).ok = true := by
  simp only [Instr.legal, Shape.legal, Bool.and_eq_true] at h
  exact h.1.1.1

theorem and_left {a b : Bool} (h : (a && b) = true) : a = true := by cases a <;> simp_all

/-- A V operation whose span is legal has a width other than 11. -/
theorem VOp.form_ok {ct : CoreType} {o : VOp} {t : ElTy} {c : TyClass} {d : DstKind} {l : List (SrcKind × Src)} {u r : Bool}
    (h : (o.formIn ct t c d l u r).ok = true) : o.spanOk ct = true := by
  simp only [VOp.formIn, Bool.and_eq_true] at h
  exact h.1.2
theorem VOp.width_ne {ct : CoreType} {o : VOp} (h : o.spanOk ct = true) : o.width ≠ 3 := by
  intro hw
  cases ct <;> simp [VOp.spanOk, hw] at h

theorem of_event {i : Instr} (h : encode i = none) : Statement i := by
  intro ct _ sl w he
  rw [h] at he
  cases he

theorem of_snop (h : encode .nop = some (.s, 0)) : Statement .nop := by
  intro ct _ sl w he; rw [h] at he; cases he; rfl
theorem of_vnop (h : encode .vnop = some (.va, 0)) : Statement .vnop := by
  intro ct _ sl w he; rw [h] at he; cases he; rfl
theorem of_lnop (h : encode .lnop = some (.l, 0)) : Statement .lnop := by
  intro ct _ sl w he; rw [h] at he; cases he; rfl
theorem of_wnop (h : encode .wnop = some (.w, 0)) : Statement .wnop := by
  intro ct _ sl w he; rw [h] at he; cases he; rfl
theorem of_mnop (h : encode .mnop = some (.m, 0)) : Statement .mnop := by
  intro ct _ sl w he; rw [h] at he; cases he; rfl
theorem of_cnop (h : encode .cnop = some (.c, 0)) : Statement .cnop := by
  intro ct _ sl w he; rw [h] at he; cases he; rfl
theorem of_ynop (h : encode .ynop = some (.y, 0)) : Statement .ynop := by
  intro ct _ sl w he; rw [h] at he; cases he; rfl

theorem of_s {i : Instr} {o : SOp} {c : BitVec 8} (h : encode i = some (.s, o.toWord c)) (hc : c ≠ 0#8)
    (hd : ∀ ct, (i.shape ct).ok = true → opS c.toNat o = some i) : Statement i := by
  intro ct hl sl w he; rw [h] at he; cases he
  simp only [decodeSlot, decodeS, SOp.code_toWord, SOp.ofWord_toWord, if_neg hc, hd ct (ok_of_legal hl)]
theorem of_v {i : Instr} {o : VOp} {c : BitVec 8} (h : encode i = some (.va, o.toWord c)) (hc : c ≠ 0#8)
    (hw : ∀ ct, (i.shape ct).ok = true → o.spanOk ct = true)
    (hd : ∀ ct, (i.shape ct).ok = true → opV c.toNat o = some i) : Statement i := by
  intro ct hl sl w he; rw [h] at he; cases he
  have hn := VOp.width_ne (hw ct (ok_of_legal hl))
  simp only [decodeSlot, decodeV, VOp.code_toWord, VOp.ofWord_toWord o c hn, if_neg hc, hd ct (ok_of_legal hl)]
theorem of_l {i : Instr} {o : LOp} {c : BitVec 8} (h : encode i = some (.l, o.toWord c)) (hc : c ≠ 0#8)
    (hd : ∀ ct, (i.shape ct).ok = true → opL c.toNat o = some i) : Statement i := by
  intro ct hl sl w he; rw [h] at he; cases he
  simp only [decodeSlot, decodeL, LOp.code_toWord, LOp.ofWord_toWord, if_neg hc, hd ct (ok_of_legal hl)]
theorem of_w {i : Instr} {o : WOp} {c : BitVec 8} (h : encode i = some (.w, o.toWord c)) (hc : c ≠ 0#8)
    (hd : ∀ ct, (i.shape ct).ok = true → opW c.toNat o = some i) : Statement i := by
  intro ct hl sl w he; rw [h] at he; cases he
  simp only [decodeSlot, decodeW, WOp.code_toWord, WOp.ofWord_toWord, if_neg hc, hd ct (ok_of_legal hl)]
theorem of_m {i : Instr} {o : MOp} {c : BitVec 6} (h : encode i = some (.m, o.toWord c)) (hc : c ≠ 0#6)
    (hd : ∀ ct, (i.shape ct).ok = true → opM c.toNat o = some i) : Statement i := by
  intro ct hl sl w he; rw [h] at he; cases he
  simp only [decodeSlot, decodeM, MOp.code_toWord, MOp.ofWord_toWord, if_neg hc, hd ct (ok_of_legal hl)]
theorem of_c {i : Instr} {o : COp} {c : BitVec 8} (h : encode i = some (.c, o.toWord c)) (hc : c ≠ 0#8)
    (hd : ∀ ct, (i.shape ct).ok = true → opC c.toNat o = some i) : Statement i := by
  intro ct hl sl w he; rw [h] at he; cases he
  simp only [decodeSlot, decodeC, COp.code_toWord, COp.ofWord_toWord, if_neg hc, hd ct (ok_of_legal hl)]
theorem of_y {i : Instr} {o : YOp} {c : BitVec 6} (h : encode i = some (.y, o.toWord c)) (hc : c ≠ 0#6)
    (hd : ∀ ct, (i.shape ct).ok = true → opY c.toNat o = some i) : Statement i := by
  intro ct hl sl w he; rw [h] at he; cases he
  simp only [decodeSlot, decodeY, YOp.low_toWord, YOp.code_bits, YOp.ofWord_bits, if_neg hc, hd ct (ok_of_legal hl)]

/-- A field of two bits, as a number. -/
theorem two_bits {n : Nat} (x : BitVec n) (k : BitVec 2) : x.extractLsb' 0 2 = k ↔ fld x 0 2 = k.toNat := by
  rw [BitVec.toNat_eq, BitVec.extractLsb'_toNat]; rfl

theorem nop : Statement .nop := of_snop rfl
theorem add (o : SOp) : Statement (.add o) := of_s (c := 0x01) rfl (by decide) fun _ _ => rfl
theorem sub (o : SOp) : Statement (.sub o) := of_s (c := 0x02) rfl (by decide) fun _ _ => rfl
theorem mul (o : SOp) : Statement (.mul o) := of_s (c := 0x03) rfl (by decide) fun _ _ => rfl
theorem mulh (o : SOp) : Statement (.mulh o) := of_s (c := 0x04) rfl (by decide) fun _ _ => rfl
theorem mulhn (o : SOp) : Statement (.mulhn o) := of_s (c := 0x05) rfl (by decide) fun _ _ => rfl
theorem div (o : SOp) : Statement (.div o) := of_s (c := 0x06) rfl (by decide) fun _ _ => rfl
theorem divn (o : SOp) : Statement (.divn o) := of_s (c := 0x07) rfl (by decide) fun _ _ => rfl
theorem rem (o : SOp) : Statement (.rem o) := of_s (c := 0x08) rfl (by decide) fun _ _ => rfl
theorem remn (o : SOp) : Statement (.remn o) := of_s (c := 0x09) rfl (by decide) fun _ _ => rfl
theorem and (o : SOp) : Statement (.and o) := of_s (c := 0x0A) rfl (by decide) fun _ _ => rfl
theorem or (o : SOp) : Statement (.or o) := of_s (c := 0x0B) rfl (by decide) fun _ _ => rfl
theorem xor (o : SOp) : Statement (.xor o) := of_s (c := 0x0C) rfl (by decide) fun _ _ => rfl
theorem andn (o : SOp) : Statement (.andn o) := of_s (c := 0x0D) rfl (by decide) fun _ _ => rfl
theorem shl (o : SOp) : Statement (.shl o) := of_s (c := 0x0E) rfl (by decide) fun _ _ => rfl
theorem shr (o : SOp) : Statement (.shr o) := of_s (c := 0x0F) rfl (by decide) fun _ _ => rfl
theorem sar (o : SOp) : Statement (.sar o) := of_s (c := 0x10) rfl (by decide) fun _ _ => rfl
theorem rol (o : SOp) : Statement (.rol o) := of_s (c := 0x11) rfl (by decide) fun _ _ => rfl
theorem min (o : SOp) : Statement (.min o) := of_s (c := 0x12) rfl (by decide) fun _ _ => rfl
theorem minn (o : SOp) : Statement (.minn o) := of_s (c := 0x13) rfl (by decide) fun _ _ => rfl
theorem max (o : SOp) : Statement (.max o) := of_s (c := 0x14) rfl (by decide) fun _ _ => rfl
theorem maxn (o : SOp) : Statement (.maxn o) := of_s (c := 0x15) rfl (by decide) fun _ _ => rfl
theorem clz (o : SOp) : Statement (.clz o) := of_s (c := 0x16) rfl (by decide) fun _ _ => rfl
theorem ctz (o : SOp) : Statement (.ctz o) := of_s (c := 0x17) rfl (by decide) fun _ _ => rfl
theorem popc (o : SOp) : Statement (.popc o) := of_s (c := 0x18) rfl (by decide) fun _ _ => rfl
theorem sext (o : SOp) : Statement (.sext o) := of_s (c := 0x19) rfl (by decide) fun _ _ => rfl
theorem zext (o : SOp) : Statement (.zext o) := of_s (c := 0x1A) rfl (by decide) fun _ _ => rfl
theorem bfx (o : SOp) : Statement (.bfx o) := of_s (c := 0x1B) rfl (by decide) fun _ _ => rfl
theorem bfi (o : SOp) : Statement (.bfi o) := of_s (c := 0x1C) rfl (by decide) fun _ _ => rfl
theorem sel (o : SOp) : Statement (.sel o) := of_s (c := 0x1D) rfl (by decide) fun _ _ => rfl
theorem li (o : SOp) : Statement (.li o) := of_s (c := 0x1E) rfl (by decide) fun _ _ => rfl
theorem lih (o : SOp) : Statement (.lih o) := of_s (c := 0x1F) rfl (by decide) fun _ _ => rfl
theorem cmp (o : SOp) : Statement (.cmp o) := of_s (c := 0x20) rfl (by decide) fun _ _ => rfl
theorem plog (o : SOp) : Statement (.plog o) := of_s (c := 0x21) rfl (by decide) fun _ _ => rfl
theorem pmov (o : SOp) : Statement (.pmov o) := of_s (c := 0x22) rfl (by decide) fun ct h => by
  simp only [Instr.shape, SOp.p, SOp.sub, Bool.and_eq_true, beq_iff_eq] at h
  exact if_pos ((two_bits _ _).2 h.1)
theorem pmovHToS (o : SOp) : Statement (.pmovHToS o) := of_s (c := 0x22) rfl (by decide) fun ct h => by
  simp only [Instr.shape, SOp.s1, SOp.sub, Bool.and_eq_true, beq_iff_eq] at h
  have h1 : o.imm.extractLsb' 0 2 = 1#2 := (two_bits _ _).2 h.1
  show (if _ then _ else _) = _
  rw [if_neg (by rw [h1]; decide), if_pos h1]
theorem pmovHFromS (o : SOp) : Statement (.pmovHFromS o) := of_s (c := 0x22) rfl (by decide) fun ct h => by
  simp only [Instr.shape, SOp.p, SOp.sub, Bool.and_eq_true, beq_iff_eq] at h
  have h1 : o.imm.extractLsb' 0 2 = 2#2 := (two_bits _ _).2 h.1
  show (if _ then _ else _) = _
  rw [if_neg (by rw [h1]; decide), if_neg (by rw [h1]; decide), if_pos h1]
theorem pmovB (o : SOp) : Statement (.pmovB o) := of_s (c := 0x22) rfl (by decide) fun ct h => by
  simp only [Instr.shape, SOp.p, SOp.sub, Bool.and_eq_true, beq_iff_eq] at h
  have h1 : o.imm.extractLsb' 0 2 = 3#2 := (two_bits _ _).2 h.1
  show (if _ then _ else _) = _
  rw [if_neg (by rw [h1]; decide), if_neg (by rw [h1]; decide), if_neg (by rw [h1]; decide)]
theorem fadd (o : SOp) : Statement (.fadd o) := of_s (c := 0x28) rfl (by decide) fun _ _ => rfl
theorem fsub (o : SOp) : Statement (.fsub o) := of_s (c := 0x29) rfl (by decide) fun _ _ => rfl
theorem fmul (o : SOp) : Statement (.fmul o) := of_s (c := 0x2A) rfl (by decide) fun _ _ => rfl
theorem fdiv (o : SOp) : Statement (.fdiv o) := of_s (c := 0x2B) rfl (by decide) fun _ _ => rfl
theorem fsqrt (o : SOp) : Statement (.fsqrt o) := of_s (c := 0x2C) rfl (by decide) fun _ _ => rfl
theorem ffma (o : SOp) : Statement (.ffma o) := of_s (c := 0x2D) rfl (by decide) fun _ _ => rfl
theorem fcmp (o : SOp) : Statement (.fcmp o) := of_s (c := 0x2E) rfl (by decide) fun _ _ => rfl
theorem fcvt (o : SOp) : Statement (.fcvt o) := of_s (c := 0x2F) rfl (by decide) fun _ _ => rfl
theorem fminmax (o : SOp) : Statement (.fminmax o) := of_s (c := 0x30) rfl (by decide) fun _ _ => rfl
theorem bru (o : SOp) : Statement (.bru o) := of_s (c := 0x38) rfl (by decide) fun _ _ => rfl
theorem jmp (o : SOp) : Statement (.jmp o) := of_s (c := 0x39) rfl (by decide) fun _ _ => rfl
theorem call (o : SOp) : Statement (.call o) := of_s (c := 0x3A) rfl (by decide) fun _ _ => rfl
theorem ret (o : SOp) : Statement (.ret o) := of_s (c := 0x3B) rfl (by decide) fun _ _ => rfl
theorem loop (o : SOp) : Statement (.loop o) := of_s (c := 0x3C) rfl (by decide) fun _ _ => rfl
theorem brk (o : SOp) : Statement (.brk o) := of_s (c := 0x3D) rfl (by decide) fun _ _ => rfl
theorem brl (o : SOp) : Statement (.brl o) := of_s (c := 0x40) rfl (by decide) fun _ _ => rfl
theorem jmpl (o : SOp) : Statement (.jmpl o) := of_s (c := 0x41) rfl (by decide) fun _ _ => rfl
theorem calll (o : SOp) : Statement (.calll o) := of_s (c := 0x42) rfl (by decide) fun _ _ => rfl
theorem retl (o : SOp) : Statement (.retl o) := of_s (c := 0x43) rfl (by decide) fun _ _ => rfl
theorem join (o : SOp) : Statement (.join o) := of_s (c := 0x44) rfl (by decide) fun _ _ => rfl
theorem yieldp (o : SOp) : Statement (.yieldp o) := of_s (c := 0x45) rfl (by decide) fun _ _ => rfl
theorem csrr (o : SOp) : Statement (.csrr o) := of_s (c := 0x48) rfl (by decide) fun _ _ => rfl
theorem csrw (o : SOp) : Statement (.csrw o) := of_s (c := 0x49) rfl (by decide) fun _ _ => rfl
theorem csrs (o : SOp) : Statement (.csrs o) := of_s (c := 0x4A) rfl (by decide) fun _ _ => rfl
theorem csrc (o : SOp) : Statement (.csrc o) := of_s (c := 0x4B) rfl (by decide) fun _ _ => rfl
theorem sysc (o : SOp) : Statement (.sysc o) := of_s (c := 0x4C) rfl (by decide) fun _ _ => rfl
theorem trap (o : SOp) : Statement (.trap o) := of_s (c := 0x4D) rfl (by decide) fun _ _ => rfl
theorem eret (o : SOp) : Statement (.eret o) := of_s (c := 0x4E) rfl (by decide) fun _ _ => rfl
theorem uret (o : SOp) : Statement (.uret o) := of_s (c := 0x4F) rfl (by decide) fun _ _ => rfl
theorem wfi (o : SOp) : Statement (.wfi o) := of_s (c := 0x50) rfl (by decide) fun _ _ => rfl
theorem halt (o : SOp) : Statement (.halt o) := of_s (c := 0x51) rfl (by decide) fun _ _ => rfl
theorem brkpt (o : SOp) : Statement (.brkpt o) := of_s (c := 0x52) rfl (by decide) fun _ _ => rfl
theorem tlbi (o : SOp) : Statement (.tlbi o) := of_s (c := 0x53) rfl (by decide) fun _ _ => rfl
theorem cmaint (o : SOp) : Statement (.cmaint o) := of_s (c := 0x54) rfl (by decide) fun _ _ => rfl
theorem mts (o : SOp) : Statement (.mts o) := of_s (c := 0x58) rfl (by decide) fun _ _ => rfl
theorem mfs (o : SOp) : Statement (.mfs o) := of_s (c := 0x59) rfl (by decide) fun _ _ => rfl
theorem mtq (o : SOp) : Statement (.mtq o) := of_s (c := 0x5A) rfl (by decide) fun _ _ => rfl
theorem evadd (o : SOp) : Statement (.evadd o) := of_s (c := 0x60) rfl (by decide) fun _ _ => rfl
theorem evld (o : SOp) : Statement (.evld o) := of_s (c := 0x61) rfl (by decide) fun _ _ => rfl
theorem evarm (o : SOp) : Statement (.evarm o) := of_s (c := 0x62) rfl (by decide) fun _ _ => rfl
theorem evwait (o : SOp) : Statement (.evwait o) := of_s (c := 0x63) rfl (by decide) fun _ _ => rfl
theorem lea (o : SOp) : Statement (.lea o) := of_s (c := 0x68) rfl (by decide) fun _ _ => rfl
theorem addpc (o : SOp) : Statement (.addpc o) := of_s (c := 0x69) rfl (by decide) fun _ _ => rfl
theorem wid (o : SOp) : Statement (.wid o) := of_s (c := 0x6A) rfl (by decide) fun _ _ => rfl
theorem vnop : Statement .vnop := of_vnop rfl
theorem vadd (o : VOp) : Statement (.vadd o) := of_v (c := 0x01) rfl (by decide) (fun _ h => VOp.form_ok h) fun _ _ => rfl
theorem vsub (o : VOp) : Statement (.vsub o) := of_v (c := 0x02) rfl (by decide) (fun _ h => VOp.form_ok h) fun _ _ => rfl
theorem vmul (o : VOp) : Statement (.vmul o) := of_v (c := 0x03) rfl (by decide) (fun _ h => VOp.form_ok h) fun _ _ => rfl
theorem vmulh (o : VOp) : Statement (.vmulh o) := of_v (c := 0x04) rfl (by decide) (fun _ h => VOp.form_ok h) fun _ _ => rfl
theorem vmad (o : VOp) : Statement (.vmad o) := of_v (c := 0x05) rfl (by decide) (fun _ h => VOp.form_ok h) fun _ _ => rfl
theorem vabs (o : VOp) : Statement (.vabs o) := of_v (c := 0x06) rfl (by decide) (fun _ h => VOp.form_ok h) fun _ _ => rfl
theorem vneg (o : VOp) : Statement (.vneg o) := of_v (c := 0x07) rfl (by decide) (fun _ h => VOp.form_ok h) fun _ _ => rfl
theorem vmin (o : VOp) : Statement (.vmin o) := of_v (c := 0x08) rfl (by decide) (fun _ h => VOp.form_ok h) fun _ _ => rfl
theorem vmax (o : VOp) : Statement (.vmax o) := of_v (c := 0x09) rfl (by decide) (fun _ h => VOp.form_ok h) fun _ _ => rfl
theorem vadds (o : VOp) : Statement (.vadds o) := of_v (c := 0x0A) rfl (by decide) (fun _ h => VOp.form_ok h) fun _ _ => rfl
theorem vsubs (o : VOp) : Statement (.vsubs o) := of_v (c := 0x0B) rfl (by decide) (fun _ h => VOp.form_ok h) fun _ _ => rfl
theorem vavg (o : VOp) : Statement (.vavg o) := of_v (c := 0x0C) rfl (by decide) (fun _ h => VOp.form_ok h) fun _ _ => rfl
theorem vsad (o : VOp) : Statement (.vsad o) := of_v (c := 0x0D) rfl (by decide) (fun _ h => VOp.form_ok h) fun _ _ => rfl
theorem vand (o : VOp) : Statement (.vand o) := of_v (c := 0x10) rfl (by decide) (fun _ h => VOp.form_ok h) fun _ _ => rfl
theorem vor (o : VOp) : Statement (.vor o) := of_v (c := 0x11) rfl (by decide) (fun _ h => VOp.form_ok h) fun _ _ => rfl
theorem vxor (o : VOp) : Statement (.vxor o) := of_v (c := 0x12) rfl (by decide) (fun _ h => VOp.form_ok h) fun _ _ => rfl
theorem vandn (o : VOp) : Statement (.vandn o) := of_v (c := 0x13) rfl (by decide) (fun _ h => VOp.form_ok h) fun _ _ => rfl
theorem vshl (o : VOp) : Statement (.vshl o) := of_v (c := 0x14) rfl (by decide) (fun _ h => VOp.form_ok h) fun _ _ => rfl
theorem vshr (o : VOp) : Statement (.vshr o) := of_v (c := 0x15) rfl (by decide) (fun _ h => VOp.form_ok h) fun _ _ => rfl
theorem vsar (o : VOp) : Statement (.vsar o) := of_v (c := 0x16) rfl (by decide) (fun _ h => VOp.form_ok h) fun _ _ => rfl
theorem vclz (o : VOp) : Statement (.vclz o) := of_v (c := 0x17) rfl (by decide) (fun _ h => VOp.form_ok h) fun _ _ => rfl
theorem vpopc (o : VOp) : Statement (.vpopc o) := of_v (c := 0x18) rfl (by decide) (fun _ h => VOp.form_ok h) fun _ _ => rfl
theorem vbfx (o : VOp) : Statement (.vbfx o) := of_v (c := 0x19) rfl (by decide) (fun _ h => VOp.form_ok h) fun _ _ => rfl
theorem vbfi (o : VOp) : Statement (.vbfi o) := of_v (c := 0x1A) rfl (by decide) (fun _ h => VOp.form_ok (d := .v) h) fun _ _ => rfl
theorem vbsel (o : VOp) : Statement (.vbsel o) := of_v (c := 0x1B) rfl (by decide) (fun _ h => VOp.form_ok h) fun _ _ => rfl
theorem vfadd (o : VOp) : Statement (.vfadd o) := of_v (c := 0x20) rfl (by decide) (fun _ h => VOp.form_ok h) fun _ _ => rfl
theorem vfsub (o : VOp) : Statement (.vfsub o) := of_v (c := 0x21) rfl (by decide) (fun _ h => VOp.form_ok h) fun _ _ => rfl
theorem vfmul (o : VOp) : Statement (.vfmul o) := of_v (c := 0x22) rfl (by decide) (fun _ h => VOp.form_ok h) fun _ _ => rfl
theorem vffma (o : VOp) : Statement (.vffma o) := of_v (c := 0x23) rfl (by decide) (fun _ h => VOp.form_ok h) fun _ _ => rfl
theorem vfmin (o : VOp) : Statement (.vfmin o) := of_v (c := 0x24) rfl (by decide) (fun _ h => VOp.form_ok h) fun _ _ => rfl
theorem vfmax (o : VOp) : Statement (.vfmax o) := of_v (c := 0x25) rfl (by decide) (fun _ h => VOp.form_ok h) fun _ _ => rfl
theorem vrcp (o : VOp) : Statement (.vrcp o) := of_v (c := 0x28) rfl (by decide) (fun _ h => VOp.form_ok h) fun _ _ => rfl
theorem vrsq (o : VOp) : Statement (.vrsq o) := of_v (c := 0x29) rfl (by decide) (fun _ h => VOp.form_ok h) fun _ _ => rfl
theorem vsqrt (o : VOp) : Statement (.vsqrt o) := of_v (c := 0x2A) rfl (by decide) (fun _ h => VOp.form_ok h) fun _ _ => rfl
theorem vexp2 (o : VOp) : Statement (.vexp2 o) := of_v (c := 0x2B) rfl (by decide) (fun _ h => VOp.form_ok h) fun _ _ => rfl
theorem vlog2 (o : VOp) : Statement (.vlog2 o) := of_v (c := 0x2C) rfl (by decide) (fun _ h => VOp.form_ok h) fun _ _ => rfl
theorem vsin (o : VOp) : Statement (.vsin o) := of_v (c := 0x2D) rfl (by decide) (fun _ h => VOp.form_ok h) fun _ _ => rfl
theorem vcos (o : VOp) : Statement (.vcos o) := of_v (c := 0x2E) rfl (by decide) (fun _ h => VOp.form_ok h) fun _ _ => rfl
theorem vtanh (o : VOp) : Statement (.vtanh o) := of_v (c := 0x2F) rfl (by decide) (fun _ h => VOp.form_ok h) fun _ _ => rfl
theorem vcvt (o : VOp) : Statement (.vcvt o) := of_v (c := 0x30) rfl (by decide) (fun _ h => VOp.form_ok h) fun _ _ => rfl
theorem vquant (o : VOp) : Statement (.vquant o) := of_v (c := 0x31) rfl (by decide) (fun _ h => VOp.form_ok (d := .vq) h) fun _ _ => rfl
theorem vdeq (o : VOp) : Statement (.vdeq o) := of_v (c := 0x32) rfl (by decide) (fun _ h => VOp.form_ok (d := .v4) h) fun _ _ => rfl
theorem vcmp (o : VOp) : Statement (.vcmp o) := of_v (c := 0x38) rfl (by decide) (fun _ h => VOp.form_ok h) fun _ _ => rfl
theorem vsel (o : VOp) : Statement (.vsel o) := of_v (c := 0x39) rfl (by decide) (fun _ h => VOp.form_ok h) fun _ _ => rfl
theorem vplog (o : VOp) : Statement (.vplog o) := of_v (c := 0x3A) rfl (by decide) (fun _ h => VOp.form_ok h) fun _ _ => rfl
theorem vpcnt (o : VOp) : Statement (.vpcnt o) := of_v (c := 0x3B) rfl (by decide) (fun _ h => VOp.form_ok h) fun _ _ => rfl
theorem vpfirst (o : VOp) : Statement (.vpfirst o) := of_v (c := 0x3C) rfl (by decide) (fun _ h => VOp.form_ok h) fun _ _ => rfl
theorem vpany (o : VOp) : Statement (.vpany o) := of_v (c := 0x3D) rfl (by decide) (fun _ h => VOp.form_ok h) fun _ _ => rfl
theorem vtbl (o : VOp) : Statement (.vtbl o) := of_v (c := 0x40) rfl (by decide) (fun _ h => VOp.form_ok h) fun _ _ => rfl
theorem vperm (o : VOp) : Statement (.vperm o) := of_v (c := 0x41) rfl (by decide) (fun _ h => VOp.form_ok h) fun _ _ => rfl
theorem vslide (o : VOp) : Statement (.vslide o) := of_v (c := 0x42) rfl (by decide) (fun _ h => VOp.form_ok h) fun _ _ => rfl
theorem vshfl (o : VOp) : Statement (.vshfl o) := of_v (c := 0x43) rfl (by decide) (fun _ h => VOp.form_ok h) fun _ _ => rfl
theorem vbcast (o : VOp) : Statement (.vbcast o) := of_v (c := 0x44) rfl (by decide) (fun _ h => VOp.form_ok h) fun _ _ => rfl
theorem vext (o : VOp) : Statement (.vext o) := of_v (c := 0x45) rfl (by decide) (fun _ h => VOp.form_ok h) fun _ _ => rfl
theorem vins (o : VOp) : Statement (.vins o) := of_v (c := 0x46) rfl (by decide) (fun _ h => VOp.form_ok h) fun _ _ => rfl
theorem vzip (o : VOp) : Statement (.vzip o) := of_v (c := 0x47) rfl (by decide) (fun _ h => VOp.form_ok h) fun _ _ => rfl
theorem vunzip (o : VOp) : Statement (.vunzip o) := of_v (c := 0x48) rfl (by decide) (fun _ h => VOp.form_ok h) fun _ _ => rfl
theorem vredadd (o : VOp) : Statement (.vredadd o) := of_v (c := 0x50) rfl (by decide) (fun _ h => VOp.form_ok h) fun _ _ => rfl
theorem vredmin (o : VOp) : Statement (.vredmin o) := of_v (c := 0x51) rfl (by decide) (fun _ h => VOp.form_ok h) fun _ _ => rfl
theorem vredmax (o : VOp) : Statement (.vredmax o) := of_v (c := 0x52) rfl (by decide) (fun _ h => VOp.form_ok h) fun _ _ => rfl
theorem vredlog (o : VOp) : Statement (.vredlog o) := of_v (c := 0x53) rfl (by decide) (fun _ h => VOp.form_ok h) fun _ _ => rfl
theorem vscan (o : VOp) : Statement (.vscan o) := of_v (c := 0x54) rfl (by decide) (fun _ h => VOp.form_ok h) fun _ _ => rfl
theorem vfredadd (o : VOp) : Statement (.vfredadd o) := of_v (c := 0x55) rfl (by decide) (fun _ h => VOp.form_ok h) fun _ _ => rfl
theorem vmov (o : VOp) : Statement (.vmov o) := of_v (c := 0x58) rfl (by decide) (fun _ h => VOp.form_ok h) fun ct h => by
  simp only [Instr.shape, VOp.form, VOp.formIn, VOp.below, Bool.and_eq_true, decide_eq_true_eq] at h
  have h1 : o.imm = 0#7 := BitVec.eq_of_toNat_eq (by simpa using h.1.1.1.2)
  exact if_pos (by rw [h1]; rfl)
theorem vmovS (o : VOp) : Statement (.vmovS o) := of_v (c := 0x58) rfl (by decide) (fun _ h => VOp.form_ok h) fun ct h => by
  simp only [Instr.shape, VOp.form, VOp.formIn, VOp.below, Bool.and_eq_true, decide_eq_true_eq] at h
  have h1 : o.imm.toNat < 2 := h.1.1.1.2.1
  have h2 : fld o.imm 0 1 = 1 := by simpa [VOp.sub] using h.1.1.1.2.2
  have h3 : o.imm = 1#7 := BitVec.eq_of_toNat_eq (by simp only [fld] at h2; simp at h2; simp; omega)
  exact if_neg (by rw [h3]; decide)
theorem vli (o : VOp) : Statement (.vli o) := of_v (c := 0x59) rfl (by decide) (fun _ h => (and_left h)) fun _ _ => rfl
theorem vlane (o : VOp) : Statement (.vlane o) := of_v (c := 0x5A) rfl (by decide) (fun _ h => VOp.form_ok h) fun _ _ => rfl
theorem lnop : Statement .lnop := of_lnop rfl
theorem ld (o : LOp) : Statement (.ld o) := of_l (c := 0x01) rfl (by decide) fun _ _ => rfl
theorem vld (o : LOp) : Statement (.vld o) := of_l (c := 0x02) rfl (by decide) fun _ _ => rfl
theorem vlds (o : LOp) : Statement (.vlds o) := of_l (c := 0x03) rfl (by decide) fun _ _ => rfl
theorem vldg (o : LOp) : Statement (.vldg o) := of_l (c := 0x04) rfl (by decide) fun _ _ => rfl
theorem tld (o : LOp) : Statement (.tld o) := of_l (c := 0x05) rfl (by decide) fun _ _ => rfl
theorem gld (o : LOp) : Statement (.gld o) := of_l (c := 0x06) rfl (by decide) fun _ _ => rfl
theorem ldx (o : LOp) : Statement (.ldx o) := of_l (c := 0x07) rfl (by decide) fun _ _ => rfl
theorem lpf (o : LOp) : Statement (.lpf o) := of_l (c := 0x08) rfl (by decide) fun _ _ => rfl
theorem amadd (o : LOp) : Statement (.amadd o) := of_l (c := 0x10) rfl (by decide) fun _ _ => rfl
theorem ammin (o : LOp) : Statement (.ammin o) := of_l (c := 0x11) rfl (by decide) fun _ _ => rfl
theorem ammax (o : LOp) : Statement (.ammax o) := of_l (c := 0x12) rfl (by decide) fun _ _ => rfl
theorem amand (o : LOp) : Statement (.amand o) := of_l (c := 0x13) rfl (by decide) fun _ _ => rfl
theorem amor (o : LOp) : Statement (.amor o) := of_l (c := 0x14) rfl (by decide) fun _ _ => rfl
theorem amxor (o : LOp) : Statement (.amxor o) := of_l (c := 0x15) rfl (by decide) fun _ _ => rfl
theorem amswp (o : LOp) : Statement (.amswp o) := of_l (c := 0x16) rfl (by decide) fun _ _ => rfl
theorem amcas (o : LOp) : Statement (.amcas o) := of_l (c := 0x17) rfl (by decide) fun _ _ => rfl
theorem amfadd (o : LOp) : Statement (.amfadd o) := of_l (c := 0x18) rfl (by decide) fun _ _ => rfl
theorem aminc (o : LOp) : Statement (.aminc o) := of_l (c := 0x19) rfl (by decide) fun _ _ => rfl
theorem wnop : Statement .wnop := of_wnop rfl
theorem st (o : WOp) : Statement (.st o) := of_w (c := 0x01) rfl (by decide) fun _ _ => rfl
theorem vst (o : WOp) : Statement (.vst o) := of_w (c := 0x02) rfl (by decide) fun _ _ => rfl
theorem vsts (o : WOp) : Statement (.vsts o) := of_w (c := 0x03) rfl (by decide) fun _ _ => rfl
theorem vsct (o : WOp) : Statement (.vsct o) := of_w (c := 0x04) rfl (by decide) fun _ _ => rfl
theorem tst (o : WOp) : Statement (.tst o) := of_w (c := 0x05) rfl (by decide) fun _ _ => rfl
theorem gst (o : WOp) : Statement (.gst o) := of_w (c := 0x06) rfl (by decide) fun _ _ => rfl
theorem stx (o : WOp) : Statement (.stx o) := of_w (c := 0x07) rfl (by decide) fun _ _ => rfl
theorem cadd (o : WOp) : Statement (.cadd o) := of_w (c := 0x08) rfl (by decide) fun _ _ => rfl
theorem cwb (o : WOp) : Statement (.cwb o) := of_w (c := 0x09) rfl (by decide) fun _ _ => rfl
theorem mnop : Statement .mnop := of_mnop rfl
theorem mma (o : MOp) : Statement (.mma o) := of_m (c := 0x01) rfl (by decide) fun _ _ => rfl
theorem mmas (o : MOp) : Statement (.mmas o) := of_m (c := 0x02) rfl (by decide) fun _ _ => rfl
theorem mzero (o : MOp) : Statement (.mzero o) := of_m (c := 0x03) rfl (by decide) fun _ _ => rfl
theorem mdrain (o : MOp) : Statement (.mdrain o) := of_m (c := 0x04) rfl (by decide) fun _ _ => rfl
theorem mlaccSave (o : MOp) : Statement (.mlaccSave o) := of_m (c := 5) rfl (by decide) fun ct h => by
  simp only [Instr.shape, Shape.plain, Bool.and_eq_true, beq_iff_eq] at h
  exact if_pos (by rw [h.2]; rfl)
theorem mlaccLoad (o : MOp) : Statement (.mlaccLoad o) := of_m (c := 5) rfl (by decide) fun ct h => by
  simp only [Instr.shape, Shape.plain, Bool.and_eq_true, beq_iff_eq] at h
  exact if_neg (by rw [h.2]; decide)
theorem wvmac (o : MOp) : Statement (.wvmac o) := of_m (c := 0x06) rfl (by decide) fun _ _ => rfl
theorem cnop : Statement .cnop := of_cnop rfl
theorem copy (o : COp) : Statement (.copy o) := of_c (c := 0x01) rfl (by decide) fun _ _ => rfl
theorem gath (o : COp) : Statement (.gath o) := of_c (c := 0x02) rfl (by decide) fun _ _ => rfl
theorem scat (o : COp) : Statement (.scat o) := of_c (c := 0x03) rfl (by decide) fun _ _ => rfl
theorem qbcast (o : COp) : Statement (.qbcast o) := of_c (c := 0x04) rfl (by decide) fun _ _ => rfl
theorem pfb (o : COp) : Statement (.pfb o) := of_c (c := 0x05) rfl (by decide) fun _ _ => rfl
theorem drop (o : COp) : Statement (.drop o) := of_c (c := 0x06) rfl (by decide) fun _ _ => rfl
theorem coll (o : COp) : Statement (.coll o) := of_c (c := 0x07) rfl (by decide) fun _ _ => rfl
theorem xsort (o : COp) : Statement (.xsort o) := of_c (c := 0x08) rfl (by decide) fun _ _ => rfl
theorem tmoveMove (o : COp) : Statement (.tmoveMove o) := of_c (c := 9) rfl (by decide) fun ct h => by
  simp only [Instr.shape, COp.form, Shape.plain, Bool.and_eq_true, beq_iff_eq] at h
  exact if_pos (by rw [h.2]; rfl)
theorem tmoveEvict (o : COp) : Statement (.tmoveEvict o) := of_c (c := 9) rfl (by decide) fun ct h => by
  simp only [Instr.shape, COp.form, Shape.plain, Bool.and_eq_true, beq_iff_eq] at h
  show (if _ then _ else _) = _
  rw [if_neg (by rw [h.2]; decide), if_pos (by rw [h.2]; rfl)]
theorem tqpush (o : COp) : Statement (.tqpush o) := of_c (c := 0x0A) rfl (by decide) fun _ _ => rfl
theorem rlaunch (o : COp) : Statement (.rlaunch o) := of_c (c := 0x0B) rfl (by decide) fun _ _ => rfl
theorem rtrace (o : COp) : Statement (.rtrace o) := of_c (c := 0x0C) rfl (by decide) fun _ _ => rfl
theorem qfence (o : COp) : Statement (.qfence o) := of_c (c := 0x0D) rfl (by decide) fun _ _ => rfl
theorem sopen (o : COp) : Statement (.sopen o) := of_c (c := 0x10) rfl (by decide) fun ct h => by
  simp only [Instr.shape, COp.form, Shape.plain, Bool.and_eq_true, beq_iff_eq] at h
  exact if_pos (by rw [h.1.2]; rfl)
theorem sopenEvicted (o : COp) : Statement (.sopenEvicted o) := of_c (c := 0x10) rfl (by decide) fun ct h => by
  simp only [Instr.shape, COp.form, Shape.plain, Bool.and_eq_true, beq_iff_eq] at h
  exact if_neg (by rw [h.1.2]; decide)
theorem satt (o : COp) : Statement (.satt o) := of_c (c := 0x11) rfl (by decide) fun _ _ => rfl
theorem srel (o : COp) : Statement (.srel o) := of_c (c := 0x12) rfl (by decide) fun _ _ => rfl
theorem sevict (o : COp) : Statement (.sevict o) := of_c (c := 0x13) rfl (by decide) fun _ _ => rfl
theorem sdrop (o : COp) : Statement (.sdrop o) := of_c (c := 0x14) rfl (by decide) fun _ _ => rfl
theorem ynop : Statement .ynop := of_ynop rfl
theorem bar (o : YOp) : Statement (.bar o) := of_y (c := 0x01) rfl (by decide) fun _ _ => rfl
theorem barphArrive (o : YOp) : Statement (.barphArrive o) := of_y (c := 2) rfl (by decide) fun ct h => by
  simp only [Instr.shape, Shape.plain, Bool.and_eq_true, Bool.not_eq_true'] at h
  exact if_pos h.2
theorem barphWait (o : YOp) : Statement (.barphWait o) := of_y (c := 2) rfl (by decide) fun ct h => by
  simp only [Instr.shape, Shape.plain, Bool.and_eq_true, beq_iff_eq] at h
  exact if_neg (by rw [h.2]; decide)
theorem fence (o : YOp) : Statement (.fence o) := of_y (c := 0x03) rfl (by decide) fun _ _ => rfl
theorem tkwait (o : YOp) : Statement (.tkwait o) := of_y (c := 0x04) rfl (by decide) fun _ _ => rfl
theorem tktest (o : YOp) : Statement (.tktest o) := of_y (c := 0x05) rfl (by decide) fun _ _ => rfl
theorem flagw (o : YOp) : Statement (.flagw o) := of_y (c := 0x06) rfl (by decide) fun _ _ => rfl
theorem flagset (o : YOp) : Statement (.flagset o) := of_y (c := 0x07) rfl (by decide) fun _ _ => rfl
theorem ulien (o : YOp) : Statement (.ulien o) := of_y (c := 0x08) rfl (by decide) fun _ _ => rfl
theorem mergeStage : Statement .mergeStage := of_event rfl
theorem idleCountExpiry : Statement .idleCountExpiry := of_event rfl
theorem shaderPartitionSelect : Statement .shaderPartitionSelect := of_event rfl
theorem pathWaitLimit : Statement .pathWaitLimit := of_event rfl
theorem resultLanding : Statement .resultLanding := of_event rfl
theorem shutterDelivery : Statement .shutterDelivery := of_event rfl
theorem queueEntryArrival : Statement .queueEntryArrival := of_event rfl
theorem flagSetArrival : Statement .flagSetArrival := of_event rfl
theorem loadDataReturn : Statement .loadDataReturn := of_event rfl
theorem memoryValueReturn : Statement .memoryValueReturn := of_event rfl
theorem writeBufferDrain : Statement .writeBufferDrain := of_event rfl
theorem emptyBundle : Statement .emptyBundle := of_event rfl
theorem tlbiCompletion : Statement .tlbiCompletion := of_event rfl
theorem cmaintCompletion : Statement .cmaintCompletion := of_event rfl
theorem delayedTriggerAction : Statement .delayedTriggerAction := of_event rfl
theorem cooperativeMmaIssue : Statement .cooperativeMmaIssue := of_event rfl
theorem arrayOccupancyEnd : Statement .arrayOccupancyEnd := of_event rfl
theorem drainCommit : Statement .drainCommit := of_event rfl
theorem engineCommandStart : Statement .engineCommandStart := of_event rfl
theorem engineCommandComplete : Statement .engineCommandComplete := of_event rfl
theorem collectiveMatch : Statement .collectiveMatch := of_event rfl
theorem rlaunchRemoteEnd : Statement .rlaunchRemoteEnd := of_event rfl
theorem remoteLaunchReceive : Statement .remoteLaunchReceive := of_event rfl
theorem baseLanding : Statement .baseLanding := of_event rfl
theorem sashDirectoryAnswer : Statement .sashDirectoryAnswer := of_event rfl
theorem sattAttach : Statement .sattAttach := of_event rfl
theorem srelComplete : Statement .srelComplete := of_event rfl
theorem sashWritebackAck : Statement .sashWritebackAck := of_event rfl
theorem sashRestoreComplete : Statement .sashRestoreComplete := of_event rfl
theorem evictionWritebackFault : Statement .evictionWritebackFault := of_event rfl
theorem reservationKill : Statement .reservationKill := of_event rfl
theorem reservationAgeExpiry : Statement .reservationAgeExpiry := of_event rfl
theorem modeWrite : Statement .modeWrite := of_event rfl
theorem fstatWrite : Statement .fstatWrite := of_event rfl
theorem faircfgWrite : Statement .faircfgWrite := of_event rfl
theorem lstkWrite : Statement .lstkWrite := of_event rfl
theorem curlimWrite : Statement .curlimWrite := of_event rfl
theorem curwinWrite : Statement .curwinWrite := of_event rfl
theorem causeWrite : Statement .causeWrite := of_event rfl
theorem svecWrite : Statement .svecWrite := of_event rfl
theorem uvecWrite : Statement .uvecWrite := of_event rfl
theorem ptbaseWrite : Statement .ptbaseWrite := of_event rfl
theorem registerWrite : Statement .registerWrite := of_event rfl
theorem faultRecordPost : Statement .faultRecordPost := of_event rfl
theorem resumePortWrite : Statement .resumePortWrite := of_event rfl
theorem faultRingTailWrite : Statement .faultRingTailWrite := of_event rfl
theorem uncorrectableError : Statement .uncorrectableError := of_event rfl
theorem uliEntry : Statement .uliEntry := of_event rfl
theorem debugHalt : Statement .debugHalt := of_event rfl
theorem preemptionRequest : Statement .preemptionRequest := of_event rfl
theorem preemptionSave : Statement .preemptionSave := of_event rfl
theorem contextRestore : Statement .contextRestore := of_event rfl
theorem budgetExpiry : Statement .budgetExpiry := of_event rfl
theorem budgetFinalExpiry : Statement .budgetFinalExpiry := of_event rfl
theorem clusterCacheWriteback : Statement .clusterCacheWriteback := of_event rfl
theorem leaseExpiry : Statement .leaseExpiry := of_event rfl
theorem epochSweep : Statement .epochSweep := of_event rfl
theorem retentionEntry : Statement .retentionEntry := of_event rfl
theorem retentionWake : Statement .retentionWake := of_event rfl
theorem partialJoinOnArrival : Statement .partialJoinOnArrival := of_event rfl
theorem rangeTableWrite : Statement .rangeTableWrite := of_event rfl
theorem directoryReadRequest : Statement .directoryReadRequest := of_event rfl
theorem directoryOwnershipRequest : Statement .directoryOwnershipRequest := of_event rfl
theorem evictionNotice : Statement .evictionNotice := of_event rfl
theorem forward : Statement .forward := of_event rfl
theorem invalidation : Statement .invalidation := of_event rfl
theorem invalidationAck : Statement .invalidationAck := of_event rfl
theorem ownershipGrant : Statement .ownershipGrant := of_event rfl
theorem writeUpdatePush : Statement .writeUpdatePush := of_event rfl
theorem tokenBucketRefill : Statement .tokenBucketRefill := of_event rfl
theorem tableWalk : Statement .tableWalk := of_event rfl
theorem tableWalkComplete : Statement .tableWalkComplete := of_event rfl
theorem tmoveCopyComplete : Statement .tmoveCopyComplete := of_event rfl
theorem doorbell : Statement .doorbell := of_event rfl
theorem recordBegin : Statement .recordBegin := of_event rfl
theorem queueMap : Statement .queueMap := of_event rfl
theorem slotReclaim : Statement .slotReclaim := of_event rfl
theorem recordCancel : Statement .recordCancel := of_event rfl
theorem groupDispatch : Statement .groupDispatch := of_event rfl
theorem localityScoreDecay : Statement .localityScoreDecay := of_event rfl
theorem gangLaunch : Statement .gangLaunch := of_event rfl
theorem gangReadyReport : Statement .gangReadyReport := of_event rfl
theorem gangRelease : Statement .gangRelease := of_event rfl
theorem groupEnd : Statement .groupEnd := of_event rfl
theorem rerun : Statement .rerun := of_event rfl
theorem preload : Statement .preload := of_event rfl
theorem parkedTaskStart : Statement .parkedTaskStart := of_event rfl
theorem hostWrite : Statement .hostWrite := of_event rfl
theorem hostBlobAccess : Statement .hostBlobAccess := of_event rfl
theorem bind : Statement .bind := of_event rfl
theorem append : Statement .append := of_event rfl
theorem cancel : Statement .cancel := of_event rfl
theorem hostCounterRead : Statement .hostCounterRead := of_event rfl
theorem hostCounterWrite : Statement .hostCounterWrite := of_event rfl
theorem counterRegionAccess : Statement .counterRegionAccess := of_event rfl
theorem portReset : Statement .portReset := of_event rfl
theorem supervisorInterrupt : Statement .supervisorInterrupt := of_event rfl
theorem timerCompare : Statement .timerCompare := of_event rfl
theorem ipi : Statement .ipi := of_event rfl
theorem flitReceive : Statement .flitReceive := of_event rfl
theorem linkRetrain : Statement .linkRetrain := of_event rfl
theorem boot : Statement .boot := of_event rfl
theorem patrolScrub : Statement .patrolScrub := of_event rfl
theorem thermalLimit : Statement .thermalLimit := of_event rfl
theorem thermalRecover : Statement .thermalRecover := of_event rfl
theorem debugResume : Statement .debugResume := of_event rfl
theorem virtqueueNotification : Statement .virtqueueNotification := of_event rfl
theorem hostAttach : Statement .hostAttach := of_event rfl

end Sys2Proof.Laws.Codec
end

