-- ==== Sys2Proof/Tests/Slice0.lean ====
section
/-! SUPPORT. Tests: ill-formed operations that WellFormed refuses, words decoded from the manual's encodings, small results, and for the
statements with hypotheses states that meet them. Expected results come from the manual's tables, examples and rules. -/

namespace Sys2Proof.Tests

open Sys2Proof Sys2Proof.Machine

set_option Elab.async false

/-! ## Operands -/

def p0 : Pred := ⟨false, 0⟩
def d (r : BitVec 6) : Dst := ⟨false, false, r⟩
def sop (k : BitVec 27) : SOp := ⟨p0, d 4, .reg 1, .reg 2, k⟩
def vop (t : ElTy) (k : BitVec 7) : VOp := ⟨t, 0, 0, p0, d 8, .reg 1, .reg 2, .reg 3, 0, false, k⟩
def wide (t : ElTy) (k : BitVec 7) : VOp := { vop t k with width := 2 }
def lop (t : ElTy) (vf : Bool) (k : BitVec 15) : LOp := ⟨t, 0, 0, .rlx, p0, false, vf, 9, .reg 1, .special 1, k⟩
def wop (t : ElTy) (k : BitVec 15) : WOp := ⟨t, 0, 0, .rlx, p0, .reg 9, .reg 1, .special 1, k⟩
def mop (k : BitVec 28) : MOp := ⟨1, 1, false, false, false, false, 0, 0, 0, false, 0, k⟩
def cop (f : BitVec 6) (k : BitVec 32) : COp := ⟨0, 0, 15, false, false, f, k⟩
def yop (id : BitVec 8) (k : BitVec 12) : YOp := ⟨0, .rlx, id, k⟩

/-! ## Each check of WellFormed refuses an ill-formed operation (R117) -/

theorem test_wf_sources : ∀ i ∈ [
    Instr.plog { sop 0 with a := .reg 16 }, .vquant { wide .e4m3 0 with a := .reg 61 }, .add { sop 0 with a := .latch 3 0 false },
    .add { sop 0 with a := .latch 5 0 false }, .add { sop 0 with a := .latch 7 0 false }, .add { sop 0 with a := .latch 1 0 true },
    .add { sop 0 with a := .queue 1 0 }, .add { sop 0 with a := .special 5 }, .ret { sop 0 with a := .imm },
    .vplog { vop .i8 0 with a := .special 1 }, .vplog { vop .i8 0 with a := .latch 0 0 false }, .vquant { wide .e4m3 0 with a := .queue 0 0 }],
    i.wf = false := by decide

theorem test_wf_sources_off_tile : ∀ ct ∈ [CoreType.shader, .super],
    (Instr.add { sop 0 with a := .latch 1 0 false }).legal ct = false ∧ (Instr.add { sop 0 with a := .queue 0 0 }).legal ct = false ∧
    (Instr.add { sop 0 with dst := ⟨false, true, 0⟩ }).legal ct = false := by decide

theorem test_wf_destinations : ∀ i ∈ [
    Instr.add { sop 0 with dst := ⟨true, true, 0⟩ }, .add { sop 0 with dst := ⟨false, true, 3⟩ }, .cmp { sop 0 with dst := d 16 },
    .cmp { sop 0 with dst := ⟨false, true, 0⟩ }, .vdeq { wide .i8 0 with dst := d 61 }, .vdeq { wide .i8 0 with dst := ⟨false, true, 0⟩ },
    .vquant { wide .e4m3 0 with dst := ⟨false, true, 0⟩ }], i.wf = false := by decide

theorem test_wf_scalar_fields : ∀ i ∈ [
    Instr.sext (sop 0), .zext (sop 64), .bfx (sop 0xFFF), .bfx (sop 0x2000), .bfi (sop 0x1000), .sel (sop 32), .cmp (sop 6), .cmp (sop 8),
    .plog (sop 16), .pmov (sop 1), .pmovHToS (sop 0), .pmovHFromS (sop 3), .pmovB (sop 11), .fadd (sop 7), .fadd (sop 0x78), .fadd (sop 0x108),
    .fcmp (sop 0x18), .fcmp (sop 0x508), .fcvt (sop 13), .fcvt (sop 0xD08), .fcvt (sop 0x78), .fminmax (sop 0x208), .csrr (sop 0x1000),
    .sysc (sop 0x10000), .trap (sop 0x10000), .brkpt (sop 0x10000), .tlbi (sop 12), .tlbi (sop 16), .cmaint (sop 7), .cmaint (sop 8),
    .mts (sop 0x100), .mts (sop 9), .mfs (sop 0x57), .mtq (sop 3), .evarm (sop 0x40000), .evarm (sop 0x100001), .evarm (sop 0x40002),
    .evarm (sop 7), .wid (sop 8)], i.wf = false := by decide

theorem test_wf_core_types :
    (∀ i ∈ [Instr.brl (sop 0), .jmpl (sop 0), .calll (sop 0), .retl (sop 0), .join (sop 0), .yieldp (sop 0)],
      i.legal .tile = false ∧ i.legal .super = false ∧ i.legal .shader = true) ∧
    (∀ i ∈ [Instr.mma (mop 0), .mzero (mop 0), .mdrain (mop 0), .mlaccSave (mop 0), .mlaccLoad (mop 1), .mtq (sop 0), .sopen (cop 0 0),
        .satt (cop 0 0), .srel (cop 0 0)],
      i.legal .shader = false ∧ i.legal .super = false ∧ i.legal .tile = true) ∧
    (Instr.sopenEvicted (cop 1 0)).legal .tile = false ∧ (Instr.sevict (cop 0 0)).legal .shader = false ∧
    (Instr.cmaint (sop 3)).legal .tile = false ∧ (Instr.cmaint (sop 3)).legal .super = true ∧ (Instr.wid (sop 6)).legal .tile = false := by
  decide

theorem test_wf_vector_fields : ∀ i ∈ [
    Instr.vadd (vop .f32 0), .vabs (vop .e4m3 0), .vtbl (vop .i16 0), .vfadd (vop .i32 0), .vquant (wide .i8 0), .vdeq (wide .f32 0),
    .vadd { vop .i32 0 with rnd := 1 }, .vadd { vop .i32 0 with sat := true }, .vfadd { vop .f32 0 with rnd := 7 },
    .vadd { vop .i32 0 with width := 3 }, .vadd { wide .i32 0 with off := 1 }, .vsel { vop .e4m3 0 with a := .special 3, c := .reg 1 },
    .vcvt (vop .f32 13), .vcvt (vop .f32 0x40), .vquant (vop .e4m3 0), .vquant (wide .e4m3 64), .vdeq (wide .i8 32), .vcmp (vop .i32 6),
    .vcmp (vop .f32 7), .vcmp (vop .i32 8), .vplog (vop .i8 16), .vpcnt (vop .i8 1), .vpany (vop .i8 2), .vtbl (vop .i8 2),
    .vslide (vop .i8 32), .vshfl (vop .i32 1), .vzip (vop .i8 2), .vunzip (vop .i8 2), .vredlog (vop .i8 3), .vredlog (vop .i8 4),
    .vscan (vop .i8 3), .vscan (vop .i8 8), .vmov (vop .i8 1), .vmovS (vop .i8 0), .vli { vop .i8 0 with a := .latch 4 0 false }, .vlane (vop .i8 6),
    .vlane (vop .i8 16)], i.wf = false := by decide

theorem test_wf_memory_fields : ∀ i ∈ [
    Instr.ld (lop .i32 true 0), .ld { lop .i32 false 0 with order := .rel }, .vld (lop .i32 false 0), .vld { lop .i32 true 0 with width := 3 },
    .vldg { lop .i16 true 0 with width := 0, index := .reg 4 }, .tld { lop .i32 true 0 with scope := 4 },
    .tld (lop .i32 true 0x6000), .gld (lop .i32 false 0), .ldx (lop .i16 false 0), .lpf { lop .i32 false 0 with order := .acq },
    .lpf { lop .i32 false 0 with scope := 7 }, .amadd (lop .f32 false 0), .amadd { lop .i32 false 0 with nw := true, order := .acq },
    .amcas { lop .i32 false 0 with reg := 63 }, .amfadd (lop .i32 false 0), .aminc (lop .i32 false 0), .amswp (lop .i16 false 0),
    .st { wop .i32 0 with order := .acq }, .vst { wop .i32 0 with width := 3 }, .vsct { wop .i8 0 with index := .reg 4 },
    .tst (wop .i32 0x6000), .gst { wop .i32 0 with order := .sc }, .stx (wop .i32 0), .stx (wop .f32 0x800), .cadd (wop .n32 0),
    .cwb { wop .i32 0 with order := .rel }], i.wf = false := by decide

theorem test_wf_matrix_fields : ∀ i ∈ [
    Instr.mma { mop 0 with fmtA := 0 }, .mma { mop 0 with fmtB := 3 }, .mma { mop 0 with p7 := true, cls := true },
    .mma { mop 0 with scl := true, asel := 61 }, .mma { mop 0 with fmtA := 3, fmtB := 3, scl := true }, .mmas { mop 0 with fmtA := 4, fmtB := 4 },
    .mmas { mop 0 with q := true }, .mmas (mop 3), .mmas { mop 0 with scl := true, asel := 53 }, .mdrain (mop 0x8000000),
    .mdrain { mop 0 with scl := true, bsel := 32 }, .mlaccSave (mop 2), .mlaccLoad (mop 0), .wvmac { mop 0 with fmtA := 5, fmtB := 5 },
    .wvmac (mop 57), .wvmac { mop 0 with scl := true }], i.wf = false := by decide

theorem test_wf_commands_and_sync : ∀ i ∈ [
    Instr.copy { cop 0 0 with qos := 8 }, .copy (cop 1 0), .copy (cop 0 6), .copy (cop 0 0x100), .copy (cop 0 5), .copy (cop 0 0x400),
    .gath (cop 0 0x50), .scat (cop 0 0x100), .qbcast (cop 0 0x100), .qbcast (cop 0 0x10), .pfb (cop 2 0), .pfb (cop 0 3), .drop (cop 0 3),
    .coll (cop 0 5), .coll (cop 0 0x300), .coll (cop 0 0x50), .coll (cop 0 0xD2), .xsort (cop 2 0), .xsort (cop 0 1), .tmoveMove (cop 0 1),
    .tmoveEvict (cop 0 0), .tqpush (cop 0 1), .rlaunch (cop 1 0), .rtrace (cop 0 0x1000), .rtrace (cop 0 60), .qfence (cop 0 0x10000),
    .sopen (cop 0 64), .sopenEvicted (cop 0 0), .satt (cop 16 0), .satt (cop 8 0), .srel (cop 0 1), .sevict (cop 0 1), .sdrop (cop 1 0),
    .bar (yop 0 0), .bar { yop 16 0 with scope := 3 }, .bar { yop 0 0x100 with scope := 3 }, .bar { yop 0 33 with scope := 2 },
    .bar { yop 0 0 with scope := 3, order := .acq }, .barphArrive { yop 0 0x800 with scope := 3 }, .barphWait { yop 0 0 with scope := 3 },
    .fence (yop 0 0), .fence { yop 1 0 with order := .sc }, .fence { yop 0 1 with order := .sc }, .tkwait { yop 0 0 with scope := 1 },
    .tkwait (yop 0 1), .tkwait { yop 0 0 with order := .acq }, .tktest (yop 0 0), .tktest (yop 0 16), .flagw { yop 0 0 with scope := 5 },
    .flagw (yop 32 0), .flagw (yop 0 2), .flagset (yop 0 4), .flagset { yop 0 0 with order := .acq }, .ulien (yop 1 0), .ulien (yop 0 2)],
    i.wf = false := by decide

/-- The same operands within their ranges are legal. -/
theorem test_wf_accepts : ∀ i ∈ [
    Instr.add (sop 0), .sext (sop 63), .bfx (sop 0xFC0), .cmp (sop 5), .fadd (sop 0x68), .vfadd { vop .f32 0 with rnd := 6 }, .vslide (vop .i8 31),
    .vquant (wide .e4m3 63), .ld (lop .i32 false 0), .amcas { lop .i32 false 0 with reg := 62 }, .stx (wop .i32 0x800), .mma (mop 0), .wvmac (mop 0),
    .copy (cop 0 0x10), .rtrace (cop 0 0x304), .bar { yop 15 0xFF with scope := 3 }, .tktest (yop 0 15), .fence { yop 0 0 with order := .rel }],
    i.wf = true := by decide

/-! ## Words of the manual's worked encodings, and what they stand for (R97 to R106) -/

theorem test_decode_scalar :
    decodeSlot .s 0x0100_2016_0000_0064 = some (.add ⟨⟨false, 0⟩, ⟨false, false, 4⟩, .reg 2, .special 0, 100⟩) ∧
    decodeSlot .s 0x1F00_2020_01AB_CDEF = some (.lih ⟨⟨false, 0⟩, ⟨false, false, 4⟩, .reg 4, .reg 0, 0x1AB_CDEF⟩) ∧
    decodeSlot .s 0x3C00_1818_07FF_FFFE = some (.loop ⟨⟨false, 0⟩, ⟨false, false, 3⟩, .reg 3, .reg 0, 0x7FF_FFFE⟩) ∧
    decodeSlot .s 0x5404_0010_0000_0002 = some (.cmaint ⟨⟨false, 0⟩, ⟨true, false, 0⟩, .reg 2, .reg 0, 2⟩) := by decide

theorem test_decode_control :
    decodeSlot .s 0x3814_0000_0000_0004 = some (.bru ⟨⟨false, 2⟩, ⟨true, false, 0⟩, .reg 0, .reg 0, 4⟩) ∧
    decodeSlot .s 0x400C_0000_0000_0004 = some (.brl ⟨⟨false, 1⟩, ⟨true, false, 0⟩, .reg 0, .reg 0, 4⟩) ∧
    decodeSlot .s 0x4204_0056_0800_0000 = some (.calll ⟨⟨false, 0⟩, ⟨true, false, 0⟩, .reg 10, .special 1, 0⟩) ∧
    decodeSlot .s 0x4304_0000_0000_0000 = some (.retl ⟨⟨false, 0⟩, ⟨true, false, 0⟩, .reg 0, .reg 0, 0⟩) ∧
    decodeSlot .s 0x5A04_00C6_0800_0001 = some (.mtq ⟨⟨false, 0⟩, ⟨true, false, 0⟩, .reg 24, .special 1, 1⟩) := by decide

theorem test_decode_counters :
    decodeSlot .s 0x6004_003E_0000_0001 = some (.evadd ⟨⟨false, 0⟩, ⟨true, false, 0⟩, .reg 7, .special 0, 1⟩) ∧
    decodeSlot .s 0x6304_0038_4000_0000 = some (.evwait ⟨⟨false, 0⟩, ⟨true, false, 0⟩, .reg 7, .reg 8, 0⟩) := by decide

theorem test_decode_vector :
    decodeSlot .va 0x20A6_0040_0A40_0000 =
      some (.vfadd ⟨.f32, 1, 2, ⟨false, 0⟩, ⟨false, false, 8⟩, .reg 1, .latch 1 0 false, .reg 0, 0, false, 0⟩) ∧
    decodeSlot .va 0x0B18_0040_18C8_0000 =
      some (.vsubs ⟨.n8, 2, 0, ⟨false, 0⟩, ⟨false, false, 8⟩, .reg 3, .reg 25, .reg 0, 0, false, 0⟩) ∧
    decodeSlot .va 0x3818_0008_2E08_0001 =
      some (.vcmp ⟨.n8, 2, 0, ⟨false, 0⟩, ⟨false, false, 1⟩, .reg 5, .special 1, .reg 0, 0, false, 1⟩) ∧
    decodeSlot .va 0x3C18_0080_0800_0000 =
      some (.vpfirst ⟨.n8, 2, 0, ⟨false, 0⟩, ⟨false, false, 16⟩, .reg 1, .reg 0, .reg 0, 0, false, 0⟩) := by decide

theorem test_decode_permutes :
    decodeSlot .va 0x4010_0040_38A0_0001 =
      some (.vtbl ⟨.n8, 0, 0, ⟨false, 0⟩, ⟨false, false, 8⟩, .reg 7, .reg 20, .reg 0, 0, false, 1⟩) ∧
    decodeSlot .va 0x4210_0038_2830_001F =
      some (.vslide ⟨.n8, 0, 0, ⟨false, 0⟩, ⟨false, false, 7⟩, .reg 5, .reg 6, .reg 0, 0, false, 31⟩) ∧
    decodeSlot .vb 0x4728_00B0_B608_0000 =
      some (.vzip ⟨.i16, 2, 0, ⟨false, 0⟩, ⟨false, false, 22⟩, .reg 22, .special 1, .reg 0, 0, false, 0⟩) ∧
    decodeSlot .va 0x3088_00B0_8800_000A =
      some (.vcvt ⟨.f16, 2, 0, ⟨false, 0⟩, ⟨false, false, 22⟩, .reg 17, .reg 0, .reg 0, 0, false, 10⟩) := by decide

theorem test_decode_loads_and_stores :
    decodeSlot .l 0x0248_0024_81E0_8010 = some (.vld ⟨.i32, 2, 0, .rlx, ⟨false, 0⟩, false, true, 9, .reg 3, .special 1, 16⟩) ∧
    decodeSlot .w 0x0488_000B_060A_8000 = some (.vsct ⟨.f16, 2, 0, .rlx, ⟨false, 0⟩, .reg 22, .reg 12, .reg 21, 0⟩) := by decide

theorem test_decode_atomics :
    decodeSlot .l 0x1042_3002_8160_8004 = some (.amadd ⟨.i32, 0, 4, .ar, ⟨false, 0⟩, false, false, 5, .reg 2, .special 1, 4⟩) ∧
    decodeSlot .l 0x1042_0044_8160_8000 = some (.amadd ⟨.i32, 0, 4, .rlx, ⟨false, 0⟩, true, false, 9, .reg 2, .special 1, 0⟩) := by decide

theorem test_decode_matrix :
    decodeSlot .m 0x0446_E8B0_5000_0000 = some (.mma ⟨1, 1, true, false, true, true, 40, 44, 0, true, 1, 0⟩) ∧
    decodeSlot .m 0x1000_0000_0004_0040 = some (.mdrain ⟨0, 0, false, false, false, false, 0, 0, 0, false, 0, 0x4_0040⟩) := by decide

theorem test_decode_commands :
    decodeSlot .c 0x0120_7F40_0000_0010 = some (.copy ⟨2, 7, 15, false, true, 0, 16⟩) ∧
    decodeSlot .c 0x0100_3F00_0000_0002 = some (.copy ⟨0, 3, 15, false, false, 0, 2⟩) ∧
    decodeSlot .c 0x0240_5F40_0000_0020 = some (.gath ⟨4, 5, 15, false, true, 0, 32⟩) ∧
    decodeSlot .c 0x0C00_0F00_0000_0304 = some (.rtrace ⟨0, 0, 15, false, false, 0, 0x304⟩) ∧
    decodeSlot .c 0x0A10_1F00_0000_0000 = some (.tqpush ⟨1, 1, 15, false, false, 0, 0⟩) := by decide

theorem test_decode_sashes_and_sort :
    decodeSlot .c 0x1110_5F04_0000_0014 = some (.satt ⟨1, 5, 15, false, false, 4, 0x14⟩) ∧
    decodeSlot .c 0x0850_8F00_0000_0000 = some (.xsort ⟨5, 8, 15, false, false, 0, 0⟩) := by decide

theorem test_decode_sync :
    decodeSlot .y 0x1E20_3001 = some (.flagset ⟨4, .rel, 3, 1⟩) ∧ decodeSlot .y 0x1400_C003 = some (.tktest ⟨0, .rlx, 12, 3⟩) ∧
    decodeSlot .y 0x0500_0000 = some (.bar ⟨2, .rlx, 0, 0⟩) := by decide

/-! ## States that meet the statements' hypotheses -/

/-- A running tile context, wave of all lanes, or supervisor core whose bundle presents one operation of a slot. -/
def tile (sl : Slot) (f : Stream → Stream := id) : State :=
  { State.reset with streams := [(.tile 0 false, f { Stream.launch with s := File.set (File.set Stream.launch.s 1 5) 2 1 })], agenda := [],
                     iss := { Issue.none with st := .tile 0 false, slot := sl } }
def wave (sl : Slot) (f : Stream → Stream := id) : State :=
  { State.reset with
    streams := [(.wave 0 0, f { Stream.launch with
      thr := { Stream.launch.thr with exist := BitVec.allOnes 32, active := BitVec.allOnes 32, regs := 64 } })], agenda := [],
    iss := { Issue.none with st := .wave 0 0, lanes := BitVec.allOnes 32, slot := sl } }
def sup (sl : Slot) (f : Stream → Stream := id) : State :=
  { State.reset with streams := [(.super 0, f Stream.launch)], agenda := [], iss := { Issue.none with st := .super 0, slot := sl } }

/-- Every stream at K; in a service routine; in a ULI handler. -/
def atK (x : Stream) : Stream := { x with csr := { x.csr with priv := 1 } }
def inSvc (x : Stream) : Stream := { x with csr := { x.csr with priv := 1, insvc := true } }
def inUli (x : Stream) : Stream := { x with csr := { x.csr with inuli := true } }
def owning (x : Stream) : Stream := { x with csr := { x.csr with qown := true } }

/-- Integer, field, predicate, floating-point, staging and jump operations on a tile context. -/
def scalarOps : List Instr :=
  [.add (sop 0), .sub (sop 0), .mul (sop 0), .mulh (sop 0), .mulhn (sop 0), .div (sop 0), .divn (sop 0), .rem (sop 0), .remn (sop 0),
   .and (sop 0), .or (sop 0), .xor (sop 0), .andn (sop 0), .shl (sop 0), .shr (sop 0), .sar (sop 0), .rol (sop 0), .min (sop 0), .minn (sop 0),
   .max (sop 0), .maxn (sop 0), .clz (sop 0), .ctz (sop 0), .popc (sop 0), .sext (sop 63), .zext (sop 1), .bfx (sop 0xFC0), .bfi (sop 0x03F),
   .sel (sop 31), .li (sop 0x7FF_FFFF), .lih (sop 0), .cmp (sop 5), .plog (sop 15), .pmov (sop 0), .pmovHToS (sop 5), .pmovHFromS (sop 6),
   .pmovB (sop 3), .fadd (sop 0xD8), .fsub (sop 8), .fmul (sop 9), .fdiv (sop 10), .fsqrt (sop 10), .ffma (sop 10), .fcmp (sop 0x40A),
   .fcvt (sop 0xA), .fminmax (sop 0x10A), .mts (sop 8), .mfs (sop 0x10), .lea (sop 7), .addpc (sop 0), .wid (sop 5),
   .jmp (sop 0), .call (sop 0), .ret (sop 0), .loop (sop 0), .brk (sop 0), .csrr (sop 0), .csrw (sop 1), .csrs (sop 2), .csrc (sop 3),
   .sysc (sop 0xFFFF), .trap (sop 0), .brkpt (sop 0), .eret (sop 0), .uret (sop 0), .wfi (sop 0), .halt (sop 0), .tlbi (sop 0), .cmaint (sop 0),
   .evadd (sop 0), .evld (sop 0), .evarm (sop 3), .evwait (sop 0), .bru (sop 0)]

theorem test_meets_scalar_operations : ∀ i ∈ scalarOps, (tile .s).admits i = true := by decide +kernel
theorem test_meets_scalar_operations_shader : ∀ i ∈ [Instr.brl (sop 0), .jmpl { sop 0 with a := .reg 1, b := .special 1 },
    .calll { sop 0 with a := .reg 1 }, .retl (sop 0), .join (sop 0), .yieldp (sop 0), .wid (sop 6), .bru (sop 0), .add (sop 0)],
    (wave .s).admits i = true ∧ (wave .s).testS p0 = true := by decide +kernel

/-- The conditions that the manual sets on results: signs, zeros, equalities, types. -/
theorem test_meets_uniform_jumps : (tile .s).testS p0 = true ∧ (tile .s).sA (sop 0) = 5 ∧ (tile .s).sA { sop 0 with a := .reg 2 } = 1 ∧
    (tile .s).sA { sop 0 with a := .special 1 } = 0 := by decide +kernel
theorem test_meets_predicate_results : ∀ c < 6, (sop (BitVec.ofNat 27 c)).sub 0 3 = c := by decide
theorem test_meets_operations_without_effect :
    (tile .s).testS ⟨true, 0⟩ = false ∧ (tile .s).opens (.add { sop 0 with pred := ⟨true, 0⟩ }) = true ∧ (tile .s).headerOk = true ∧
    ({ tile .s with iss := { (tile .s).iss with header := 0x4 } } : State).headerOk = false ∧
    (tile .s).encOk (.sext (sop 0)) .s = false ∧ (encode (.add (sop 0))).isSome = true ∧
    (tile .s owning).opens (.add { sop 0 with a := .queue 0 3 }) = true ∧ (tile .s owning).queueHold (.add { sop 0 with a := .queue 0 3 }) = true := by
  decide +kernel

theorem test_meets_next_program_counter : (tile .s).iss.st = .tile 0 false ∧ (sup .s).iss.st = .super 0 ∧ (wave .s).iss.moved = false ∧
    ((tile .s).stream (.tile 0 false)).inHandler = false ∧ ((tile .s inSvc).stream (.tile 0 false)).inHandler = true := by decide +kernel

/-- A predicate of all ones, of all zeros, of neither; on lanes all, none, some. -/
def withP (v : PWord) (x : Stream) : Stream := { x with p := File.set x.p 1 v }
def bruOp : SOp := { sop 4 with pred := ⟨false, 1⟩ }
theorem test_meets_uniform_branches :
    (tile .s (withP (BitVec.allOnes 128))).admits (.bru bruOp) = true ∧ (tile .s (withP 1)).admits (.bru bruOp) = true ∧
    (((tile .s (withP 1)).stream (.tile 0 false)).readP 1 = 1#128) ∧ (wave .s).iss.lanes ≠ 0 ∧
    (((wave .s (withP 0x1)).stream (.wave 0 0)).readP 1).getLsbD 0 = true ∧
    (((wave .s (withP 0x1)).stream (.wave 0 0)).readP 1).getLsbD 4 = false ∧ (sup .s (withP 1)).admits (.bru bruOp) = true := by
  decide +kernel

/-- A wave whose lane 0 holds four return addresses, and one that holds none. -/
def stacked (n : Nat) (x : Stream) : Stream := { x with thr := { x.thr with chip := x.thr.chip.set 0 (List.replicate n 7) } }
def lane0 : SOp := { sop 0 with pred := ⟨false, 1⟩, a := .reg 1 }
theorem test_meets_return_stacks :
    (wave .s (withP 1 ∘ stacked 3)).admits (.calll lane0) = true ∧ ((wave .s (withP 1 ∘ stacked 3)).stream (.wave 0 0)).pushTraps [0] = [] ∧
    (((wave .s (withP 1 ∘ stacked 3)).stream (.wave 0 0)).thr.stackOf 0).length = 3 ∧
    ((wave .s (withP 1 ∘ stacked 4)).stream (.wave 0 0)).pushTraps [0] ≠ [] ∧
    (wave .s (withP 1 ∘ stacked 3)).judge (.wave 0 0) 8 askWrite (((wave .s (stacked 3)).stream (.wave 0 0)).pushSpills [0]) = .ok [] ∧
    ((wave .s (withP 1 ∘ stacked 1)).stream (.wave 0 0)).popTraps [0] = [] ∧ ((wave .s (withP 1)).stream (.wave 0 0)).popTraps [0] ≠ [] ∧
    (wave .s (withP 1)).admits (.retl lane0) = true := by decide +kernel

theorem test_meets_csr_accesses :
    csrExists .tile 1 = true ∧ csrAllowed 0 true 1 = true ∧ csrAllowed 0 false 0 = true ∧ csrAllowed 0 true 0x20 = false ∧
    csrExists .tile 0x20 = true ∧ ((tile .s).writeCsr (.tile 0 false) 1 0 0x0800000008000000 0).isSome = true ∧
    (tile .s).writeCsr (.tile 0 false) 1 0 7 0 = none ∧ csrAccepts .tile 0x002 0x1F = true ∧ csrExists .tile 0x010 = true := by decide +kernel

theorem test_meets_system :
    ((tile .s).stream (.tile 0 false)).csr.inuli = false ∧ ((tile .s).stream (.tile 0 false)).csr.priv = 0 ∧
    (sup .s atK).admits (.sysc (sop 0)) = true ∧ ((sup .s atK).stream (.super 0)).csr.priv ≠ 0 ∧
    (tile .s inSvc).admits (.eret (sop 0)) = true ∧ (wave .s inSvc).admits (.eret (sop 0)) = true ∧ (tile .s inUli).admits (.uret (sop 0)) = true ∧
    (tile .s).admits (.eret (sop 0)) = true ∧ ((tile .s).stream (.tile 0 false)).csr.insvc = false ∧
    ((tile .s inSvc).stream (.tile 0 false)).csr.insvc = true := by decide +kernel

theorem test_meets_waits :
    (tile .s).wakes (.tile 0 false) = false ∧ (tile .s fun x => { x with preempt := some .os }).wakes (.tile 0 false) = true ∧
    (wave .s).admits (.halt (sop 0)) = true ∧ (sup .s atK).admits (.halt (sop 0)) = true ∧ (sup .s atK).admits (.tlbi (sop 0)) = true ∧
    (sup .s atK).admits (.cmaint (sop 6)) = true ∧ (wave .s).wakes (.wave 0 0) = false := by decide +kernel

/-! ## Vector, memory and synchronisation operations -/

def four (i : VOp) : VOp := { i with a := .reg 4, b := .reg 20 }
def vectorOps : List Instr :=
  [.vadd (vop .i32 0), .vsub (vop .n8 0), .vmul (vop .i64 0), .vmulh (vop .i16 0), .vmad (vop .i8 0), .vabs (vop .i8 0), .vneg (vop .f16 0),
   .vmin (vop .n64 0), .vmax (vop .i8 0), .vadds (vop .i16 0), .vsubs (vop .i8 0), .vavg (vop .n8 0), .vsad (vop .n8 0), .vand (vop .i8 0),
   .vor (vop .i8 0), .vxor (vop .i8 0), .vandn (vop .i8 0), .vshl (vop .i8 0), .vshr (vop .i8 0), .vsar (vop .i8 0), .vclz (vop .i8 0),
   .vpopc (vop .i8 0), .vbsel (vop .i8 0), .vbfx (vop .i32 0), .vbfi (vop .n32 0), .vfadd (vop .f32 0), .vfsub (vop .f16 0), .vfmul (vop .bf16 0),
   .vffma (vop .f32 0), .vfmin (vop .f32 0), .vfmax (vop .f32 0), .vrcp (vop .f32 0), .vrsq (vop .f32 0), .vsqrt (vop .f32 0),
   .vexp2 (vop .f32 0), .vlog2 (vop .f32 0), .vsin (vop .f32 0), .vcos (vop .f32 0), .vtanh (vop .f32 0), .vcvt (vop .f16 0x1A),
   .vquant (four (wide .e4m3 63)), .vdeq (four (wide .i8 31)), .vcmp (vop .i32 5), .vcmp (vop .f32 6), .vsel (vop .i8 0), .vplog (vop .i8 15),
   .vpcnt (vop .i8 0), .vpfirst (vop .i8 0), .vpany (vop .i8 1), .vtbl (vop .i8 1), .vperm (vop .i8 0), .vslide (vop .i8 31),
   .vshfl (vop .i32 0), .vshfl (vop .i32 0x7F), .vbcast (vop .i32 0), .vext (vop .i32 0), .vins (vop .i32 0), .vzip (vop .i8 1),
   .vunzip (vop .i8 1), .vredadd (vop .i8 0), .vredmin (vop .f32 0), .vredmax (vop .i8 0), .vredlog (vop .i8 2), .vscan (vop .i8 6),
   .vfredadd (vop .f32 0), .vmov (vop .i8 0), .vmovS (vop .i8 1), .vli { vop .i8 0 with a := .reg 0, b := .reg 0, c := .reg 0 },
   .vlane (vop .i32 5), .vlane (vop .i32 8)]
theorem test_meets_vector_operations : ∀ i ∈ vectorOps, (tile .va).admits i = true := by decide +kernel
theorem test_meets_vector_conditions :
    ElTy.f16.isFp = true ∧ ElTy.i8.isFp = false ∧ ElTy.n32.isInt = true ∧ (vop .i32 5).sub 0 4 = 5 ∧ (vop .i8 0x60).sub 5 2 = 3 ∧
    (vop .i8 2).sub 0 2 = 2 ∧ (vop .i8 6).sub 2 1 = 1 ∧ ((tile .va).stream (.tile 0 false)).test p0 0 = true ∧
    ((tile .va).stream (.tile 0 false)).test ⟨true, 0⟩ 0 = false := by decide +kernel
theorem test_meets_element_writes : (0 : Nat) < 8 ∧ 64 + 8 * 8 ≤ 128 := by decide
theorem test_meets_block_quantisation :
    (wave .va).iss.lanes = BitVec.allOnes 32 ∧ (wave .va).admits (.vquant (four (wide .e4m3 0))) = true ∧
    ({ wave .va with iss := { (wave .va).iss with lanes := 1 } } : State).admits (.vdeq (four (wide .i8 0))) = true := by decide +kernel
theorem test_meets_field_operations : (200 : Nat) < 2 ^ (8 * ElTy.n8.bytes) ∧ min (20 % (2 * 8)) (8 - 11 % 8) = 4 ∧ min (16 % (2 * 8)) (8 - 3) = 0 := by
  decide
theorem test_meets_float_cases : FVal.isNan (.inf true) = false ∧ (0 : Nat) < 1 := by decide

/-- A page of every right at 0x10000, frame 0x20_0000, in the TLB of cluster 0 and of supervisor core 0; an n-element range there. -/
def leaf : Word := 0x0FF0_0000_0020_001F
def entry : TlbEntry := ⟨0x10000, 0x10000, 0, leaf, true⟩
def mapped (s : State) : State := { s with mm := { s.mm with clusterTlbs := [(0, [entry]), (8, [entry])], superTlbs := [(0, [entry])] } }
def ptr (v : Word) (x : Stream) : Stream := { x with s := File.set x.s 1 v }
def x0 (off : Nat) : Xl := ⟨0x20_0000 + off, true, true, true, true, 255, 0, false, 0, true⟩
def at_ (s : State) : State := mapped s

theorem test_meets_loads :
    (mapped (tile .l (ptr 0x10000))).judge (.tile 0 false) 4 askRead [(0, 0x10000)] = .ok [⟨0, 0x10000, x0 0⟩] ∧
    (mapped (tile .l (ptr 0x1FFFC))).judge (.tile 0 false) 4 askRead [(0, 0x1FFFC)] = .ok [⟨0, 0x1FFFC, x0 0xFFFC⟩] ∧
    (∀ i ∈ [Instr.ld (lop .i32 false 0), .vld (lop .i32 true 0), .gld (lop .i32 true 0), .vlds (lop .i32 true 0),
        .vldg { lop .i32 true 0 with index := .reg 3 }, .tld (lop .i32 false 0), .ldx (lop .i32 false 0), .lpf (lop .i32 false 0)],
      (mapped (tile .l (ptr 0x10000))).admits i = true) ∧
    (0x10001 : Nat) % 4 ≠ 0 := by decide +kernel

theorem test_meets_typed_buffers :
    let s := tile .l fun x => { ptr 0 x with csr := { x.csr with wbwin := windowCsr 0 1 } }
    let l := s.typedElements .scalar (LOp.acc (lop .i32 false 0)) 0
    s.tileBusy (.tile 0 false) 0 l = false ∧ s.judgeTyped (.tile 0 false) 0 4 false l = none ∧
    (s.judgeTyped (.tile 0 false) 0 4 false [(0, 65536)]).isSome = true ∧ (65536 : Int) % 4 = 0 ∧
    (s.stream (.tile 0 false)).reaches (.tile 0 false) 0 65535 true = true ∧
    (s.stream (.tile 0 false)).reaches (.tile 0 false) 0 65536 true = false ∧
    s.judgeTyped (.tile 0 false) 0 4 true (s.typedElements .contiguous (WOp.acc (wop .i32 0)) 0) = none ∧
    ({ s with iss := { s.iss with slot := .w } } : State).admits (.tst (wop .i32 0)) = true ∧
    Mem.wf (s.tile 0).wbuf = true ∧ Mem.wf (s.tile 0).abuf = true := by decide +kernel

theorem test_meets_group_store :
    let o : LOp := { lop .i32 true 0x6000 with width := 2, index := .reg 3, base := .special 1 }
    let s := wave .l fun x => { x with v := File.set x.v 3 (fillElems 4 fun k => 4 * k), csr := { x.csr with gswin := 0x100 } }
    s.judgeTyped (.wave 0 0) 3 4 false (s.typedElements .perElement (LOp.acc o) 0) = none ∧ s.admits (.tld o) = true ∧
    (let w : WOp := { wop .i32 0x6000 with width := 2, index := .reg 3, base := .special 1 }
     s.judgeTyped (.wave 0 0) 3 4 true (s.typedElements .perElement (WOp.acc w) 0) = none ∧
     ({ s with iss := { s.iss with slot := .w } } : State).admits (.tst w) = true) := by decide +kernel

theorem test_meets_atomics :
    let s := mapped (tile .l (ptr 0x10000))
    let o := lop .i64 false 0
    s.judge (.tile 0 false) 8 askRmw (s.elements .scalar (LOp.acc o) 0) = .ok [⟨0, 0x10000, x0 0⟩] ∧ s.testS p0 = true ∧
    (s.release (.tile 0 false) 7).owes (.tile 0 false) 7 = false ∧ orderRel .rel = true ∧
    (∀ i ∈ [Instr.amadd o, .ammin o, .ammax o, .amand o, .amor o, .amxor o, .amswp o, .amcas o, .amfadd (lop .f32 false 0),
      .aminc (lop .n32 false 0), .ldx o], s.admits i = true) := by decide +kernel

theorem test_meets_stores :
    let s := mapped (tile .w (ptr 0x10000))
    let o := wop .i32 0
    s.judge (.tile 0 false) 4 askWrite (s.elements .scalar (WOp.acc o) 0) = .ok [⟨0, 0x10000, x0 0⟩] ∧ s.testS p0 = true ∧
    s.unacked (.tile 0 false) .rel 7 = false ∧ s.wbFull (.tile 0 false) [⟨0, 0x10000, x0 0⟩] = false ∧
    (s.stream (.tile 0 false)).loads = [] ∧ (region (x0 0).pa).isMemory = true ∧ s.hostAway (x0 0).pa = false ∧ s.atHomeOnly (x0 0) = false ∧
    (x0 0).pa % 128 + 4 ≤ 128 ∧
    (∀ i ∈ [Instr.st o, .vst o, .vsts o, .vsct { o with index := .reg 3 }, .gst o, .stx (wop .i32 0x800), .cadd o, .cwb o],
      s.admits i = true) := by decide +kernel

/-- A valid commutative range of i32 sums over the page's lines. -/
def ranged (s : State) : State :=
  { s with mm := { s.mm with ranges := File.set s.mm.ranges 0 (0x20_0000, 0x0000_0044_0000_0200) } }
theorem test_meets_commutative_add :
    let s := ranged (mapped (tile .w (ptr 0x10000)))
    s.rangeOf 0x4000 = some (.i32, 0) ∧ s.judgeAdd (.tile 0 false) .i32 [(0, 0x10000)] = .ok [⟨0, 0x10000, x0 0⟩] ∧
    s.unacked (.tile 0 false) .rlx 7 = false := by decide +kernel

theorem test_meets_barriers :
    let o : YOp := ⟨3, .rlx, 0, 3⟩
    let s := tile .y
    s.maskOk o = true ∧ s.admits (.barphArrive o) = true ∧ (s.barFirst o).barOpen 0 = true ∧ s.opens (.bar o) = true ∧
    s.phOpen 0 = false ∧ s.admits (.barphWait { o with imm := 0x800 }) = true := by decide +kernel

theorem test_meets_fences_tokens_and_flags :
    let s := tile .y fun x => { x with tokens := [(1, .done 7), (2, .error 0x0B 9), (3, .pending)] }
    let f := { tile .y with tiles := [(0, { (tile .y).tile 0 with flags := 0x8000_0001 })] }
    s.unacked (.tile 0 false) .sc 7 = false ∧ s.admits (.fence ⟨7, .sc, 0, 0⟩) = true ∧ s.admits (.tkwait (yop 0 0)) = true ∧
    s.admits (.tkwait (yop 1 0)) = true ∧ s.admits (.tkwait (yop 2 0)) = true ∧ s.opens (.tkwait (yop 3 0)) = true ∧
    s.admits (.tktest (yop 255 15)) = true ∧ (f.tile 0).flags.getLsbD 31 = true ∧ f.admits (.flagw (yop 31 1)) = true ∧
    s.admits (.flagset (yop 31 3)) = true ∧ s.admits (.ulien (yop 0 1)) = true := by decide +kernel

theorem test_meets_event_counters :
    let s := tile .s (ptr 4095)
    (4095 : Nat) < 4096 ∧ s.ctrOwner 4095 = 0 ∧ s.unacked (.tile 0 false) .rel 6 = false ∧ s.armRaise 3 0 = none ∧ s.sA (sop 0) = 4095 ∧
    (∀ i ∈ [Instr.evadd (sop 0), .evld (sop 0), .evarm (sop 3), .evwait (sop 0)], s.admits i = true) ∧
    (s.sB { sop 0 with b := .special 1 }).toNat ≤ (s.ctr 4095).toNat ∧ (tile .s (ptr 4096)).sA (sop 0) = 4096 ∧
    ({ s with mm := { s.mm with owners := [(4095, 7)] } } : State).ctrOwner 4095 ≠ 0 := by decide +kernel

/-! ## Registers, the array, the engine queues, the issue of bundles -/

/-- A state about to run an event on a subject; the state that an instruction answers, if it answers one. -/
def on (s : State) (x : Subject) : State := { s with subject := x }
def after (i : Instr) (s : State) : Option State := match exec i s with | .next t => some t | _ => none
def leads (i : Instr) (s : State) (p : State → Bool) : Bool := (after i s).any p

def c0 : StreamId := .tile 0 false
def c1 : StreamId := .tile 0 true

def tookTrap (c : BitVec 8) (st : StreamId) (t : State) : Bool := (t.stream st).csr.insvc && (t.stream st).csr.cause.extractLsb' 0 8 = c
theorem test_meets_csr_write_events :
    leads .faircfgWrite (on (wave .s) (.streamWord (.wave 0 0) 4096)) (fun t => (t.stream (.wave 0 0)).csr.fair = 4096) = true ∧
    leads .faircfgWrite (on (wave .s) (.streamWord (.wave 0 0) 15))
      (fun t => (t.stream (.wave 0 0)).csr.fair = 64 && tookTrap 1 (.wave 0 0) t) = true ∧
    leads .faircfgWrite (on (tile .s) (.streamWord c0 64)) (tookTrap 1 c0) = true ∧
    leads .curlimWrite (on (tile .s) (.streamWord c0 96)) (tookTrap 2 c0) = true ∧
    leads .svecWrite (on (tile .s atK) (.streamWord c0 4095)) (fun t => (t.common c0.core).svec = 4095) = true ∧
    leads .svecWrite (on (tile .s atK) (.streamWord c0 3839)) (fun t => (t.common c0.core).svec = 3840 && tookTrap 1 c0 t) = true ∧
    leads .ptbaseWrite (on (tile .s atK) (.streamFlagWord c0 false 0xF_FFFF_FFF8_0000)) (fun t => (t.common c0.core).ptbase = 0xF_FFFF_FFF8_0000) = true ∧
    leads .ptbaseWrite (on (tile .s atK) (.streamFlagWord c0 true 0x10000)) (tookTrap 1 c0) = true ∧
    (∀ g < 8, fld (0x2525_2525_2525_2525 : Word) (8 * g) 3 < 6 ∧ fld (0x2525_2525_2525_2525 : Word) (8 * g + 6) 2 = 0) ∧
    fld (0x1F : Word) 5 27 = 0 ∧ fld (0x300 : Word) 8 2 ≠ 2 ∧ fld (0x200 : Word) 8 2 = 2 := by decide +kernel

/-- A fault record of a context, its wait, a ring that is valid. -/
def record : FaultRecord := ⟨⟨c0, none⟩, 0, 0x10000, 0, 0, 0⟩
def waits : Stream → Stream := fun x => { x with stop := .fault ⟨0, 0x10000, 0, 0, 0, 0, some 1⟩ }
theorem test_meets_control_page_events :
    leads .rangeTableWrite (on (tile .s) (.range 15 false 0x2000)) (fun t => (File.get t.mm.ranges 15).1 = 0x2000) = true ∧
    (File.get (tile .s).mm.ranges 0).2.getLsbD 38 = false ∧ (0x0000_0044_0000_0200 : Word).getLsbD 38 = true ∧
    (on { tile .s with edge := { (tile .s).edge with ctl := [(0x208, 0x1000_0000)] }, mm := { (tile .s).mm with waitingFaults := [record] } }
      (.die false)).ringOpen 0 = true ∧ record.agent.st.die = b2n false ∧
    leads .faultRingTailWrite (on (tile .s) (.dieWord true 0xFFFF_FFFF)) (fun t => t.ctl 0x258 = 0xFFFF_FFFF) = true ∧
    agentOfCode (fld (0 : Word) 16 3) (fld (0 : Word) 15 1) (fld (0 : Word) 0 15) = some ⟨c0, none⟩ ∧
    leads .resumePortWrite (on (tile .s waits) (.dieWord false 0)) (fun t => (t.stream c0).stop = .running) = true ∧
    leads .ipi (on (tile .s) (.num 31)) (fun t => t.ctl 0x30F8 = 4) = true ∧ leads .timerCompare (on (tile .s) (.num 0)) (fun t => t.ctl 0x3000 = 8) = true ∧
    leads .registerWrite (on (tile .s) (.register (.control 0x100) 12288)) (fun t => t.ctl 0x100 = 12288) = true ∧
    leads .registerWrite (on (tile .s atK) (.register (.csr c0 0x005) 7)) (fun t => (t.stream c0).csr.epc = 7) = true ∧
    leads .counterRegionAccess (on (tile .s atK) (.counter c0 4095 (some 5))) (fun t => t.ctr 4095 = 5) = true := by decide +kernel

/-- Both contexts of a core, each with its queues or windows. -/
def both (s : State) : State := { s with streams := s.streams ++ [(c1, Stream.launch)] }
def windowed (x : Stream) : Stream :=
  { x with csr := { x.csr with wbwin := windowCsr 0 96, abwin := windowCsr 0 48, kbwin := windowCsr 0 160 } }
def busy (left : Nat) (s : State) : State := s.modTile 0 fun t => { t with array := some ⟨c0, 4, left, .zero 0, 0, 0, []⟩ }
theorem test_meets_matrix_operations :
    let s := tile .m windowed
    (s.tile 0).array = none ∧ (s.tile 0).drain = 0 ∧ (s.stream c0).badStaging false = false ∧ (s.stream c0).badStaging true = false ∧
    (s.stream c0).matRaise c0 (mop 0) false = none ∧ (s.stream c0).matRaise c0 (mop 0) true = none ∧ s.judgeB c0 (mop 0) false = .ok [] ∧
    s.judgeB c0 (mop 0) true = .ok [] ∧ (s.stream c0).tileBound c0 3 = none ∧ (s.stream c0).badDrain = false ∧
    (s.stream c0).drainRaise c0 (mop 0) 1 4 = none ∧ s.judgeDrain c0 (mop 0) 1 4 = (.ok [], .ok []) ∧
    (s.stream c0).rowsBound c0 0 [0] 32768 true = none ∧ (s.stream c0).rowsBound c0 0 [0] 32768 false = none ∧
    (∀ i ∈ [Instr.mma (mop 0), .mmas (mop 0), .mzero (mop 0), .mdrain (mop 0), .mlaccSave (mop 0), .mlaccLoad (mop 1)], s.admits i = true) ∧
    ((busy 3 s).tile 0).array.isSome = true ∧ (busy 3 s).admits (.mzero (mop 0)) = true := by decide +kernel
theorem test_meets_wave_matrix :
    (wave .m).iss.st.isWave = true ∧ (wave .m).admits (.wvmac (mop 0x10200)) = true ∧
    ({ wave .m with iss := { (wave .m).iss with lanes := 3 } } : State).admits (.wvmac (mop 0)) = true := by decide +kernel

/-- Staging registers of the sort, push and launch engines that fit; one that does not; a PENDING token. -/
def staged (l : List (Nat × Word)) (x : Stream) : Stream := { x with staging := l }
theorem test_meets_commands :
    (∀ i ∈ [Instr.copy (cop 0 0), .qbcast (cop 0 0xF10), .gath (cop 0 0), .scat (cop 0 0), .pfb (cop 0 0), .drop (cop 0 0), .tmoveMove (cop 0 0),
        .tmoveEvict (cop 0 1), .coll (cop 0 0x40), .xsort (cop 0 0), .tqpush (cop 0 0), .rlaunch (cop 0 0), .qfence (cop 0 0xFFFF)],
      (tile .c).admits i = true) ∧ (wave .c).admits (.rtrace (cop 0 0x304)) = true ∧ ((tile .c).stream c0).commands 0 = [] ∧
    fitsCopy (List.replicate 16 0) = true ∧ fitsCopy ((1 : Word) <<< 48 :: List.replicate 15 0) = false ∧ fitsGather (List.replicate 16 0) = true ∧
    fitsTier (List.replicate 16 0) = true ∧ fitsMove (List.replicate 16 0) = true ∧ fitsColl (List.replicate 16 0) = true ∧
    fitsSort [0, 0x1_0100_0000, 0, 0, 0, 0] = true ∧ fitsPush (List.replicate 16 0) = true ∧ fitsLaunch (List.replicate 16 0) = true ∧
    fitsRay (List.replicate 16 0) = true ∧ ((tile .c).stream c0).token 0 ≠ .pending ∧
    ((tile .c fun x => { x with tokens := [(0, .pending)] }).stream c0).token 0 = .pending := by decide +kernel

def named (st : SashState) : SashEntry := { SashEntry.none with name := 7, st := st, core := 0, pages := 1, asid := 0 }
def answered (x : Stream) : Stream := { x with dirAns := true, staging := [(88, 7), (89, 0x100)] }
def directory (e : SashEntry) (s : State) : State := { s with sched := { s.sched with sashes := [(0, e)] } }
theorem test_meets_sash_commands :
    let s := tile .c answered
    let r := directory (named .resident) s
    (s.stream c0).dirAns = true ∧ (∀ i ∈ [Instr.sopen (cop 0 0), .satt (cop 0 0), .srel (cop 0 0), .sevict (cop 0 0), .sdrop (cop 0 0)],
      s.admits i = true) ∧ (sup .c answered).admits (.sopenEvicted (cop 1 0)) = true ∧
    fitsOpen false ((List.range 16).map fun k => if k = 8 then 7 else if k = 9 then 0x100 else 0) = true ∧
    fitsOpen true ((List.range 16).map fun k => if k = 9 then 0x10100 else if k = 11 then 0x20_0000 else 0) = true ∧
    fitsSash [(10, 32)] (List.replicate 16 0) = true ∧ s.openRaise = none ∧ r.openRaise ≠ none ∧ r.attRefused (cop 0 0) = none ∧
    s.attRefused (cop 0 0) ≠ none ∧ r.endRaise = none ∧ s.endRaise ≠ none ∧
    ((tile .c fun x => { answered x with attached := [⟨false, 0, 7, true, 0, 0, 1, true⟩] }).stream c0).holding 7 ≠ none := by decide +kernel

/-- Bundles of one operation where both contexts, or a wave, fetch. -/
def addWord : Bundle := Bundle.single (Header.only .s) .s 0x0100_2016_0000_0064
def bundleOf : Fetch → Option Bundle | .bundle b => some b | _ => none
theorem fetch_of_bundleOf {f : Fetch} {b : Bundle} (h : bundleOf f = some b) : f = .bundle b := by
  cases f <;> simp_all [bundleOf]
def coded (b0 b1 : Bundle) (s : State) : State := s.modTile 0 fun t => { t with banks := [((0, 0), b0), ((1, 0), b1)], bank0 := 0, bank1 := 1 }
def goesWith : Turn → Option (BitVec 8 × Nat × Nat) | .goes m n d => some (m, n, d) | _ => none
def vWord : Bundle := Bundle.single (Header.only .va) .va 0x0B18_0040_18C8_0000

theorem test_meets_steps_of_bundles :
    bundleOf ((coded addWord vWord (tile .s)).fetch c0 0) = some addWord ∧ Bundle.ops addWord = [(.s, some (.add ⟨p0, d 4, .reg 2, .imm, 100⟩))] ∧
    Bundle.ops 0 = [] ∧ (Bundle.ops (addWord ||| vWord)).length = 2 ∧ ((tile .s).stream c0).stop = .running ∧
    ((coded addWord vWord (tile .s)).stream c1).stop ≠ .running ∧ ((wave .s).stream (.wave 0 0)).thr.path 0 = BitVec.allOnes 32 ∧
    (3839 : Word).toNat < 3840 ∧ (4095 : Word).toNat < 4096 ∧ ((tile .s).stream c0).csr.priv = 0 ∧ isNop .nop = true := by decide +kernel

theorem test_meets_merge_stage :
    let s := on (coded addWord vWord (both (tile .s))) (.core (.tile 0))
    let u := on (coded addWord addWord (both (tile .s))) (.core (.tile 0))
    goesWith (s.merge 0).t0 = some (0x80, 0, 1) ∧ goesWith (s.merge 0).t1 = some (0x40, 4, 8) ∧ (s.merge 0).beyond = false ∧
    goesWith (u.merge 0).t1 = some (0x80, 0, 1) ∧ (s.tile 0).array = none ∧ (s.stream c0).inHandler = false ∧
    ((s.modTile 0 fun t => { t with com := { t.com with curlim := 1 } }).merge 0).beyond = true := by decide +kernel

def sent (v : VWord) (k : BitVec 48) (s : State) : State := s.modTile 0 fun t => { t with outq := File.set t.outq 2 [(v, k)] }
theorem test_meets_clock_events :
    leads .idleCountExpiry (on (tile .s fun x => { x with idle := 15 }) (.stream c0)) (fun t => (t.stream c0).idle = 0) = true ∧
    leads .queueEntryArrival (on { sent 9 0 (tile .s) with ltime := 2 } (.core (.tile 0))) (fun t => File.get (t.tile 3).inq 2 = [9]) = true ∧
    leads .queueEntryArrival (on { sent 9 0 (tile .s) with ltime := 1 } (.core (.tile 0))) (fun t => File.get (t.tile 3).inq 2 = []) = true ∧
    leads .flagSetArrival (on { (tile .s).modTile 0 (fun t => { t with flagSets := [(31, 0)] }) with ltime := 2 } (.core (.tile 0)))
      (fun t => (t.tile 0).flags = 0x8000_0000) = true ∧
    leads .arrayOccupancyEnd (on (busy 0 (tile .s)) (.core (.tile 0))) (fun t => (t.tile 0).array = none) = true ∧
    leads .arrayOccupancyEnd (on (busy 1 (tile .s)) (.core (.tile 0))) (fun t => (t.tile 0).array ≠ none) = true ∧
    leads .drainCommit (on ((tile .s fun x => { x with time := 5 }).modTile 0 fun t => { t with commits := [⟨c0, 5, 0, 1, [(64, 7)], [], none⟩] })
      (.core (.tile 0))) (fun t => (t.tile 0).commits = [] && Mem.get (t.tile 0).wbuf 64 = 7) = true := by decide +kernel

def cached (b : Bundle) (s : State) : State :=
  s.modShader 0 fun t => { t with com := { t.com with icache := [⟨0, 0, BitVec.setWidth 1024 b, true⟩] } }

theorem test_meets_waves :
    let st : StreamId := .wave 0 0
    let s := on (cached addWord (wave .s)) (.num2 0 0)
    let f := fun (n : Nat) => (wave .s fun x => { x with thr := { x.thr with waits := [(0, n)] } })
    File.get (s.shader 0).turn 0 = 0 ∧ (s.stream st).stop = .running ∧ (s.stream st).blocked = false ∧
    (s.stream st).thr.paths = [(0, BitVec.allOnes 32)] ∧ bundleOf (s.fetch st 0) = some addWord ∧
    (s.present st (BitVec.allOnes 32) 0).verdict.goes = true ∧ (s.stream (.wave 0 15)).thr.active = 0 ∧
    leads .shaderPartitionSelect s (fun t => t.agenda = [.issue st (some 0) none] && File.get (t.shader 0).turn 0 = 1) = true ∧
    leads .pathWaitLimit (on (f 65) (.stream st)) (fun t => (t.stream st).thr.first = some 0) = true ∧
    leads .pathWaitLimit (on (f 64) (.stream st)) (fun t => (t.stream st).thr.first = none) = true := by decide +kernel

/-- The bundle of a cooperative `mma`; a casement whose four cores present it, one whose first core does not. -/
def coopWord : Bundle := match encode (.mma { mop 0 with q := true }) with | some (sl, w) => Bundle.single (Header.only sl) sl w | none => 0
def casement (n : Nat) : State :=
  let s := { tile .m with streams := (List.range 4).map fun c => (.tile c false, windowed (owning Stream.launch)) }
  (List.range 4).foldl (fun (s : State) (c : Nat) => s.modTile c fun t =>
    { t with banks := [((0, 0), if c < n then 0 else coopWord)], bank0 := 0, bank1 := 1 }) s
theorem test_meets_cooperative_gate :
    (∀ p < 4, ((((casement 0).gate 0 (some ([], [], []))).coopOffer p).any fun e => e.2.2.1) = true) ∧
    leads .cooperativeMmaIssue (on (casement 0) (.num 0)) (fun t => (t.tile 3).coop.isSome) = true ∧
    (((casement 1).gate 0 (some ([], [], []))).coopOffer 0).isNone = true ∧
    (∀ p < 4, ((((casement 1).gate 0 (some ([], [], []))).coopOffer p).any fun e => e.2.2.2) = false) := by decide +kernel

theorem test_meets_boundary_entries :
    let u := on (tile .s fun x => { x with ulis := [⟨4095, 255⟩], csr := { x.csr with uie := true, uvec := 3839 } }) (.stream c0)
    let v := on { sup .s with edge := { (sup .s).edge with ctl := [(0x3000, 4), (0xE10, 0x100)] } } (.num 0)
    leads .uliEntry u (fun t => (t.stream c0).pc = 3839 && (t.stream c0).csr.inuli && (t.stream c0).readS 56 = 4095) = true ∧
    leads .debugHalt (on (tile .s) (.stream c0)) (fun t => (t.stream c0).stop = .debug) = true ∧
    leads .debugResume (on (tile .s fun x => { x with stop := .debug }) (.stream c0)) (fun t => (t.stream c0).stop = .running) = true ∧
    v.sources 0 = [2] ∧ leads .supervisorInterrupt v (fun t => (t.stream (.super 0)).csr.insvc) = true ∧
    leads .uncorrectableError (on (tile .s) (.error c0 1 0)) (fun t => (t.stream c0).stop = .halted) = true ∧
    leads .uncorrectableError (on (sup .s) (.error (.super 0) 15 0)) (fun t => (t.stream (.super 0)).csr.cause.extractLsb' 0 8 = 15) = true := by
  decide +kernel

theorem test_meets_trap_entry :
    ((tile .s).stream c0).csr.insvc = false ∧ (15 : Nat) < 16 ∧ ((tile .s inSvc).stream c0).csr.insvc = true ∧
    ((tile .s).service c0 8 0xFFFF false 15 false 0 1).edge.recCount = 0 ∧ ((tile .s inSvc).service c0 8 0 false 0 false 0 1).edge.recCount = 1 := by
  decide +kernel

/-! ## Events of the memory system -/

def tload : Load := ⟨8, 0, .s 9, false, .i32, false, BitVec.allOnes 128, [⟨0, 0x10000, x0 0⟩], false⟩
def tres : Result := ⟨0, 0, .l, .s 9, BitVec.allOnes 128, 77, true, false, 0, 0⟩
theorem test_meets_returns_and_drains :
    leads .loadDataReturn (on (tile .s fun x => { x with loads := [tload] }) (.stream c0)) (fun t => (t.stream c0).loads = []) = true ∧
    leads .memoryValueReturn (on (tile .s fun x => { x with returns := [tres] }) (.stream c0))
      (fun t => File.get (t.stream c0).s 9 = 77 && (t.stream c0).returns = []) = true ∧
    leads .writeBufferDrain (on (tile .s fun x => { x with wbuf := [⟨0x4000, false, false, 0, 1, 0xAB⟩] }) (.stream c0))
      (fun t => (t.clData 0 0x4000).extractLsb' 0 8 = 0xAB) = true ∧
    leads .tlbiCompletion (on (mapped (tile .s fun x => { x with tlbiWait := [⟨0, 2, 0, 0⟩] })) (.stream c0))
      (fun t => t.mm.clusterTlbs.all fun e => e.2.isEmpty) = true ∧
    leads .cmaintCompletion (on (tile .s fun x => { x with cmaintWait := true }) (.stream c0)) (fun t => !(t.stream c0).cmaintWait) = true ∧
    leads .reservationKill (on ((tile .s).modCommon (.tile 0) fun k => { k with reservations := [⟨c0, 0, 5, 0, 0⟩] }) (.kill (.tile 0) 5))
      (fun t => (t.common (.tile 0)).reservations = []) = true ∧
    leads .reservationAgeExpiry (on ((tile .s).modCommon (.tile 0) fun k => { k with cycle := 4097, reservations := [⟨c0, 0, 5, 0, 0⟩, ⟨c0, 0, 6, 1, 0⟩] })
      (.core (.tile 0))) (fun t => (t.common (.tile 0)).reservations.length = 1) = true := by decide +kernel

def dirty : ClLine := ⟨0x4000, 0xAB, BitVec.allOnes 128, 1, false, 0, 0, false⟩
def l1line : L1Line := { vline := 0x200, asid := 0, pline := 0x4000, data := 1, r := true, w := true, x := false, u := true, em := true, ty := 0,
                         sync := false, qos := 0, stamp := 0, epoch := false }
/-- A port whose decoder covers memory. -/
def hdm (s : State) : State := s.modPort false fun p => { p with window := (0, 2 ^ 32) }
theorem test_meets_cache_events :
    let s := tile .s
    let c := { s with mm := { s.mm with clusters := [(0, [dirty])] } }
    leads .clusterCacheWriteback (on c (.num2 0 0x4000)) (fun t => (t.clLine 0 0x4000).any fun l => l.dirty = 0) = true ∧
    leads .leaseExpiry (on { c with mm := { c.mm with lclock0 := 8193 } } (.lease (.cluster 0) 0x4000))
      (fun t => (t.clLine 0 0x4000).all fun l => l.valid = 1) = true ∧
    leads .leaseExpiry (on ({ s with mm := { s.mm with lclock0 := 8193 } }.modTile 0 fun t => { t with com := { t.com with l1 := [l1line] } }) (.lease (.l1 (.tile 0)) 0x4000))
      (fun t => (t.tile 0).com.l1 = []) = true ∧
    leads .epochSweep (on s (.die true)) (fun t => t.epoch 1) = true ∧
    leads .retentionEntry (on s (.num 0)) (fun t => t.mm.retained = [0]) = true ∧
    leads .retentionWake (on { c with mm := { c.mm with retained := [0] } } (.num 0)) (fun t => t.cluster 0 = []) = true ∧
    leads .partialJoinOnArrival (on { ranged s with mm := { (ranged s).mm with partials := [((0, 0x4000), 3)] } } (.num2 0 0x4000))
      (fun t => t.mm.atHome 0x4000 = 3) = true ∧
    leads .hostWrite (on (hdm s) (.bytes false 0x20_007F [1, 2])) (fun t => Mem.get t.mm.mem 0x20_0080 = 2) = true ∧
    (hdm s).hostWrites false 0x20_007F 2 = true ∧ s.hostWrites false 0x20_007F 2 = false ∧
    leads .hostWrite (on s (.peerBytes 0x20_0000 [9])) (fun t => Mem.get t.mm.mem 0x20_0000 = 9) = true ∧
    (region 0x000E_0000_0000_0000).isMemory = false ∧
    leads .hostWrite (on s (.peerBytes 0x000E_0000_0000_0000 [1])) (fun t => t.mm.mem = [] && t.edge.recCount = 1) = true ∧
    (on s (.num 0)).subject = .num 0 ∧
    leads .tokenBucketRefill { s with edge := { s.edge with ctl := [(0x808, 0x0005_0003)] } } (fun t => Table.get 0 t.mm.buckets (true, 0) = 3) = true := by
  decide +kernel

def entryOf (st : DirState) (owner : BitVec 8) : DirEntry := { DirEntry.empty with st := st, owner := owner }
theorem test_meets_directory_messages :
    let s := tile .s
    let one := fun (st : Moesi) (e : DirEntry) => { s with mm := { s.mm with lines := [⟨0x10, 0x4000, st, 9⟩], dir := [(0x4000, e)] } }
    leads .directoryReadRequest (on s (.num2 0x10 0x4000)) (fun t => (t.mm.agentLine 0x10 0x4000).any fun l => l.st = .e) = true ∧
    leads .evictionNotice (on (one .m (entryOf .e 0x10)) (.num2 0x10 0x4000)) (fun t => t.mm.agentLine 0x10 0x4000 = none && t.mm.atHome 0x4000 = 9) = true ∧
    leads .evictionNotice (on s (.num2 0x10 0x4000)) (fun t => t.mm.lines = []) = true ∧
    leads .invalidationAck (on { s with mm := { s.mm with owed := [(0, 1)] } } (.num2 0 0x4000)) (fun t => Table.get 0 t.mm.owed 0 = 0) = true ∧
    leads .directoryOwnershipRequest (on (one .s { entryOf .s 0 with nptr := 1, sharers := 0x10 }) (.numFlag 0x10 0x4000 false))
      (fun t => (t.mm.agentLine 0x10 0x4000).any fun l => l.st = .e) = true ∧
    leads .forward (on (one .m (entryOf .e 0x10)) (.forward 0x10 0 0x4000 false))
      (fun t => ((t.mm.agentLine 0x10 0x4000).any fun l => l.st = .o) && (t.mm.agentLine 0 0x4000).any fun l => l.st = .s) = true ∧
    leads .invalidation (on (one .m (entryOf .e 0x10)) (.num3 0x10 0x4000 0)) (fun t => t.mm.atHome 0x4000 = 9) = true ∧
    leads .ownershipGrant (on (one .s (entryOf .s 0)) (.grant 0x10 0x4000 2)) (fun t => Table.get 0 t.mm.owed 0x10 = 2) = true ∧
    leads .writeUpdatePush (on s (.update 0x4000 0)) (fun t => Table.get 0 t.mm.owed 0 = 0) = true ∧
    leads .forward (on { (one .m (entryOf .e 0x10)) with free := 0 } (.forward 0x10 0x30 0x4000 false))
      (fun t => ((t.mm.agentLine 0x10 0x4000).any fun l => l.st = .s) && t.mm.atHome 0x4000 = 9) = true ∧ (s.port true).resetting = false ∧
    (s.port false).covers 0x4000 = false ∧ ((hdm s).port false).covers 0x4000 = true ∧
    leads .hostAttach (on s (.die true)) (fun t => t.mm.present.contains 3) = true := by decide +kernel

theorem test_meets_walks :
    let s := tile .s
    let w : Walk := ⟨0, 0, 0x10, false, false, [.stream c0], false⟩
    let in_ := fun (w : Walk) => on { s with mm := { s.mm with walks := [w] } } (.walkEnd 0 0 0x10)
    leads .tableWalk (on s (.walk c0 0x10000 .read)) (fun t => t.mm.walks = [w]) = true ∧
    leads .tableWalk (on (in_ w) (.walk c0 0x10FFF .read)) (fun t => (t.mm.walks.map (·.waiters)) = [[.stream c0, .stream c0]]) = true ∧
    leads .tableWalk (on { sup .s with mm := { (sup .s).mm with walks := [{ w with tlb := 32, page := 1 }, { w with tlb := 32, page := 2 }] } }
      (.walk (.super 0) 0x10000 .read)) (fun t => t.mm.walks.length = 2 && t.agenda.length = 1) = true ∧
    leads .tableWalkComplete (in_ w) (fun t => t.mm.walks = []) = true ∧ (in_ w).walk 0 0 0 0x10000 = none ∧
    leads .tableWalkComplete (in_ { w with killed := true }) (fun t => t.mm.clusterTlbs = s.mm.clusterTlbs) = true := by decide +kernel

/-! ## Events of engines and sashes -/

def cmd (i : Instr) (started : Bool) (moved : Option Nat) : Command :=
  { op := i, o := cop 0 0, token := 0, cls := 0, ulic := false, rel := false, staging := List.replicate 16 0, regs := [], lanes := 0, priv := 0, asid := 0,
    seq := 0, attached := [], started := started, shown := false, due := 0, moved := moved, fail := none, info := [], members := [] }
def queued (c : Command) (x : Stream) : Stream := { x with queues := [(0, [c])], tokens := [(0, .pending)] }
def worked (s : State) (c : Command) : Nat :=
  match (s.workOf c0 0 c).1 with | .ok _ => 0 | .error (.error _ _) => 1 | .error (.fault _ _ _) => 2 | .error .wait => 3
theorem test_meets_commands_start_and_end :
    let fence := cmd (.qfence (cop 0 0))
    let run := fun (i : Instr) (c : Command) (p : State → Bool) => leads i (on (tile .s (queued c)) (.streamNum c0 0)) p
    run .engineCommandStart (fence false none) (fun t => ((t.stream c0).commands 0).any fun c => c.started) = true ∧
    run .engineCommandComplete (fence true (some 7)) (fun t => (t.stream c0).token 0 = .done 7 && (t.stream c0).commands 0 = []) = true ∧
    ((tile .s (queued (fence true none))).stream c0).faultQ = [] ∧ worked (tile .s (queued (fence true none))) (fence true none) = 0 ∧
    ((tile .s).release c0 6).owes c0 6 = false := by decide +kernel
def copyCmd (k : BitVec 32) (n : Word) : Command :=
  { cmd (.copy (cop 0 k)) true none with staging := [0x10000, 0x10000, n, 0] ++ List.replicate 12 0 }
theorem test_meets_work_of_commands :
    let first := copyCmd 0 0x1_0000_0004
    let good := { first with shown := true }
    let bad := copyCmd 0x11 0x1_0000_0040
    worked (mapped (tile .s (queued good))) good = 0 ∧ worked (mapped (tile .s (queued first))) first = 3 ∧ worked (tile .s (queued bad)) bad = 1 ∧ worked (tile .s (queued good)) good = 2 := by
  decide +kernel

/-- A queue table of one queue: the ring, an owner with ASID 0, HEAD, DISP, TAIL, two save areas. -/
def table (w1 w2 w3 w4 w6 : Nat) (s : State) : State :=
  { s with
    mm := { s.mm with mem := ([0x0004_0000_0020_0000, w1, w2, w3, w4, 0x0002_0000_0040_0000, w6].zipIdx).foldl
                        (fun m e => Mem.putNum m (0x10_0000 + 8 * e.2) 8 e.1) [] },
    edge := { s.edge with ctl := [(0xA00, 0x10_0000), (0xA08, 1)] } }
def remote (q : Nat) : RemoteLaunch := ⟨1, 0, 9, q, 0, [], List.replicate 256 0⟩
def member (r : Nat) : CollMember := ⟨r, 1, 2, 0, 0x40, [1], false⟩
theorem test_meets_engine_events :
    let s := tile .s
    let c := { cmd (.coll (cop 0 0x40)) true none with members := [member 0] }
    let tr := fun (k target : Nat) (j : Option Job) => ((4095, ⟨0, k, target, 0, j, 0⟩) : Nat × Trigger)
    let fired := fun (t : Nat × Trigger) (s : State) => on { s with mm := { s.mm with delayed := [t] } } (.num 4095)
    leads .collectiveMatch (on (tile .s (queued c)) (.collective c0 0 [member 1])) (fun t => ((t.stream c0).commands 0).any fun d => d.members.length = 2) = true ∧
    leads .rlaunchRemoteEnd (on { s with sched := { s.sched with sent := [⟨3, c0, 0, none, 4095, 5⟩] } } (.remoteEnd 3 0))
      (fun t => t.ctr 4095 = 5 && t.sched.sent = []) = true ∧
    leads .rlaunchRemoteEnd (on { s with sched := { s.sched with sent := [⟨3, c0, 0, some (x0 0), 4095, 5⟩] } } (.remoteEnd 3 7))
      (fun t => t.sched.sent.all fun r => r.rstat = none) = true ∧
    (s.qOwner 0 = none) ∧ (table 0x10000 0 0 0 0 s).qOwner 0 = some 0 ∧ ((table 0x10000 0 0 0 0 s).qword 0 1).testBit 18 = false ∧
    leads .remoteLaunchReceive (on (table 0x50000 0 0 0 0 s) (.remote (remote 0))) (fun t => t.sched.received.length = 1) = true ∧
    leads .remoteLaunchReceive (on (table 0x50000 0 0 16 0 s) (.remote (remote 0))) (fun t => t.sched.arriving.length = 1) = true ∧
    leads .delayedTriggerAction (fired (tr 0 0 none) (table 0x10000 0 0 0 7 s)) (fun t => t.qword 0 6 = 8 && t.mm.delayed = []) = true ∧
    leads .delayedTriggerAction (fired (tr 1 0x3_FC00 (some ⟨0, 0, 0, 0⟩)) (tile .s fun x => { x with job := some ⟨0, 0, 0, 0⟩ }))
      (fun t => (t.stream c0).ulis = [⟨4095, 255⟩]) = true ∧
    leads .delayedTriggerAction (fired (tr 2 7 none) s) (fun t => t.mm.delayed = []) = true := by decide +kernel
theorem test_meets_tier_moves :
    let r : TierReq := ⟨0, 0, 0, 0, false, c0, some 0, 0, [], true, 0⟩
    let s := on { tile .s with mm := { (tile .s).mm with tier := [r] } } (.num 0)
    let u := { tile .s with edge := { (tile .s).edge with ctl := [(0x900, 0x3000), (0x908, 1)] },
                            mm := { (tile .s).mm with mem := Mem.putNum [] 0x3008 8 1 } }
    (s.mm.tier.find? fun p => decide (p.obj = 0) && p.active) = some r ∧ u.objPages 0 ≠ 0 ∧ (ownMove 0 8).place ≠ 1 := by decide +kernel

theorem test_meets_sash_events :
    let s := fun (c : Command) (e : SashEntry) => on (directory e (tile .s (queued c))) (.streamNum c0 0)
    let a : Attach := ⟨false, 0, 7, true, 0, 0, 1, true⟩
    let att := { cmd (.satt (cop 0 0)) true none with staging := (List.range 16).map fun k => if k = 8 then 7 else 0 }
    let rel := { cmd (.srel (cop 0 0)) true none with staging := att.staging, attached := [a], info := [1] }
    let key := fun (e : SashEntry) => on (directory e (tile .s)) (.sash 0)
    leads .sashDirectoryAnswer (on (tile .s fun x => { x with dirAsk := some 0 }) (.stream c0)) (fun t => (t.stream c0).dirAns) = true ∧
    (s att (named .resident)).sashLive 7 = some 0 ∧ att.attStep c0 0 (cop 0 0) (named .resident) = .attach ∧
    att.attStep c0 0 (cop 0 0) (named .evicting) ≠ .attach ∧
    leads .sattAttach (s att (named .resident)) (fun t => (t.sash 0).attach = 1) = true ∧
    a.key = 0 ∧ rel.released = some a ∧ rel.seq = 0 ∧ (s rel (named .resident)).writesTo c0 a 0 = false ∧
    leads .srelComplete (s rel { named .resident with attach := 1 }) (fun t => (t.sash 0).attach = 0 && (t.sash 0).gen = 1) = true ∧
    leads .sashWritebackAck (key { named .evicting with wrote := true }) (fun t => (t.sash 0).st = .evicted) = true ∧
    leads .sashWritebackAck (key (named .resident)) (fun t => (t.sash 0).st = .resident) = true ∧
    leads .sashRestoreComplete (key { named .restoring with moving := true, client := some (c0, 0), toCore := 5 }) (fun t => (t.sash 0).core = 5) = true ∧
    leads .evictionWritebackFault (on (key (named .evicting)) (.num2 0 0x10000)) (fun t => (t.sash 0).st = .resident) = true ∧
    leads .baseLanding (on (tile .s fun x => { x with bases := [⟨0, .s 63, 0x10000, 7⟩] }) (.stream c0)) (fun t => File.get (t.stream c0).s 63 = 0x10000) = true := by
  decide +kernel

/-! ## Events of the sequencer -/

def rec_ (l : List (Nat × Nat)) : Rec := Vector.ofFn fun (k : Fin (2 ^ 5)) => BitVec.ofNat 64 (Table.get 0 l k.val)
def ones : Nat := 0x1_0000_0001
/-- A shader record of one wave a group and two groups, a gang of one core-task of two, a copy. -/
def shaderRec : Rec := rec_ [(0, 1), (1, 0x40), (2, 0x10_4000_0005), (3, 0x1_0000_0020), (4, ones), (5, 0x2_0000_0001), (6, 4), (29, 0x1_0000_0000)]
def gangRec : Rec := rec_ [(0, 2), (1, 0x40), (2, 0x2000_0000_0041), (3, 0x2_0000_0001), (4, ones), (5, ones), (6, 0x1_0000_0000), (28, 0x5000)]
def launchOf (c : Rec) : Launch := { Launch.start 0 0 c 0 1 with next := 0 }
def slotted (s : State) : State := { s with sched := { s.sched with slots := [(63, ⟨0, 0, 0, 0⟩)] } }
def launched (l : Launch) (s : State) : State := { slotted s with sched := { (slotted s).sched with launches := [l] } }
def none_ : State := { State.reset with agenda := [] }

def queueOf (w1 w3 w4 : Nat) : State := table w1 0 w3 w4 0 none_
def ringOf (s : State) : State := { s with mm := { s.mm with mem := Mem.putNum s.mm.mem 0x20_0000 8 4 } }
def mappd (s : State) : State := slotted { s with sched := { s.sched with tails := [(0, 2)] } }
theorem test_meets_queue_events :
    let s := queueOf
    leads .doorbell (on (s 0x10000 0 1) (.num 0)) (fun t => t.tailOf 0 = 1) = true ∧
    leads .doorbell (on (s 0x10000 1 1) (.num 0)) (fun t => t.sched.tails = []) = true ∧
    leads .queueMap { s 0x10000 0 1 with sched := { (s 0x10000 0 1).sched with tails := [(0, 1)], waits := [(0, 0)] } }
      (fun t => (t.qslot 0).isSome) = true ∧
    (mappd (ringOf (s 0x10000 0 2))).mayBegin 0 = true ∧ (mappd (ringOf (s 0x10000 0 2))).depends 0 = true ∧
    ((mappd (ringOf (s 0x10000 0 2))).judgeRecord (rec_ [(0, 4)]) 0).1 = [] ∧ (mappd (ringOf (s 0x10000 0 2))).ringRecord 0 0 = rec_ [(0, 4)] ∧
    (mappd (ringOf (s 0x30000 0 2))).unshown 0 = true ∧ (mappd (ringOf (s 0x30000 0 2))).depends 0 = false ∧
    (mappd (ringOf (s 0x30000 0 2))).launch 0 0 = none ∧
    leads .recordBegin (on (mappd (ringOf (s 0x30000 0 2))) (.num 0)) (fun t => (t.ringRecord 0 0).f 11 0 4 = 1) = true := by decide +kernel
/-- A record cancelled at DISP, and one behind it; the queue's descriptor and record in memory, apart. -/
def cancelling (n : Nat) : State := on (mappd (ringOf (queueOf 0x10000 0 2))) (.num2 0 n)
theorem test_meets_record_cancel :
    leads .recordCancel (cancelling 0) (fun t => t.dispOf 0 = 1 && t.phys 0x20_0050 8 = 0 && t.phys 0x20_0058 8 = 6 + 256 * cCANCEL.toNat
      && (t.launch 0 0).isNone) = true ∧
    leads .recordCancel (cancelling 1) (fun t => t.sched.cancels = [(0, 1)]) = true := by decide +kernel
theorem test_meets_record_cancel_premises :
    let s := cancelling 0
    Mem.wf s.mm.mem = true ∧ fld (s.ctl 0xA00) 0 52 = 0x10_0000 ∧ s.recordAddr 0 0 = 0x20_0000 ∧ (region 0x10_0000).isMemory = true ∧
    s.rangeOf (0x10_0000 / 128) = none ∧ (∀ k < 256, (region (0x20_0000 + k)).isMemory = true ∧ s.rangeOf ((0x20_0000 + k) / 128) = none) ∧
    s.launch 0 0 = none ∧ s.atDisp 0 = true ∧ s.dispOf 0 = 0 := by decide +kernel

theorem test_meets_groups_end :
    let l := { launchOf shaderRec with sections := [(0, 0)], next := 1, placed := [⟨0, [(0, .wave 0 0)], [0], false, true, true, 0, none⟩] }
    let s := on (launched l none_) (.unit ⟨0, 0, 0⟩)
    let last := { l with next := 2 }
    let copy := { launchOf (rec_ [(0, 4)]) with placed := l.placed }
    l.units = 2 ∧ leads .groupEnd s (fun t => (t.launch 0 0).any fun m => m.done = 1 && m.placed = []) = true ∧
    leads .groupEnd (on (launched last none_) (.unit ⟨0, 0, 0⟩)) (fun t => t.launch 0 0 = none) = true ∧ copy.copy.kind = 4 := by decide +kernel

/-- Page tables that map the first gigabyte of the address space 0 to the first gigabyte of memory, for every access. -/
def tables (s : State) : State :=
  { s with mm := { s.mm with mem := [(0, 0x1001), (0x1000, 0x2001), (0x2000, 0x0FF0_0000_0000_00DF)].foldl
                               (fun m e => Mem.putNum m e.1 8 e.2) s.mm.mem } }

theorem test_meets_slot_reclaim_end :
    let s := { slotted none_ with sched := { (slotted none_).sched with draining := [(0, 1)] } }
    (s.sched.draining.find? fun e => e.2 = 1 && s.drained e.1) = some (0, 1) ∧
    leads .slotReclaim (on s (.num 1)) (fun t => t.sched.slots.all fun e => e.2.queue ≠ 0) = true := by decide +kernel

theorem test_meets_group_dispatch :
    let l := { launchOf shaderRec with sections := [(0, 0)] }
    let s := on (launched l none_) (.num2 0 0)
    s.mayPlace l = true ∧ l.copy.kind = 1 ∧ l.copy.clevel = 0 ∧ l.copy.dlevel = 0 ∧
    bestBy (((l.copy.clusters (l.copy.dies l.next 0)).flatMap id).filter fun i => s.fitsCore l.copy i)
          (fun i => (s.freeWaves i).length) id = some 0 ∧
    leads .groupDispatch s (fun t => ((t.launch 0 0).any fun m => m.next = 1) && (t.stream (.wave 0 0)).csr.asid = 0) = true := by decide +kernel

def gangLaunch : Launch := { launchOf gangRec with sections := [(0, 0)] }
def gangPlaced (r0 r1 : Bool) (rel : Option (BitVec 48)) : Placed := ⟨0, [(0, c0)], [], false, r0, r1, 5, rel⟩
def gangOn (x : Stream → Stream) (p : Placed) : State :=
  launched { gangLaunch with next := 1, placed := [p] } (tile .s fun y => x { y with job := some ⟨0, 0, 0, 0⟩ })
def loaded (x : Stream) : Stream := { x with stop := .staged }

theorem test_meets_gang_launch :
    let s := on (launched gangLaunch none_) (.num2 0 0)
    gangLaunch.copy.kind = 2 ∧ gangLaunch.units = 2 ∧ s.mayPlace gangLaunch = true ∧ s.seatGang gangLaunch 0 = some [(0, 0, false)] ∧
    (s.takeAll gangLaunch 0 [(0, 0, false)]).1 = some [(0, 0, 0)] ∧
    leads .gangLaunch s (fun t => (t.stream c0).stop = .staged && (t.launch 0 0).any fun m => m.next = 1) = true := by decide +kernel
theorem test_meets_gang_code : ∀ s : State, s.readCodes gangLaunch [0] = (.ok [[]], s) := fun _ => rfl
theorem test_meets_preload :
    let busy := gangOn id (gangPlaced true true none)
    let s := { busy with streams := busy.streams ++ (busy.streams.map fun e => (c1, { e.2 with job := some ⟨0, 7, 0, 0⟩ })) }
    let l := { gangLaunch with next := 1, placed := [gangPlaced true true none] }
    l.preloads = true ∧ s.mayPlace l = true ∧ s.parkCore l = some 0 ∧
    leads .preload (on s (.num2 0 0)) (fun t => t.sched.parked.any fun p => p.core = 0) = true := by decide +kernel
theorem test_meets_gang_release :
    let p := gangPlaced false true none
    leads .gangReadyReport (on (gangOn loaded p) (.unitDie ⟨0, 0, 0⟩ false)) (fun t => (t.launch 0 0).any fun m =>
      m.placed.any fun r => r.ready0 && r.release = some 8) = true ∧ p.failed = false ∧ gangRec.sashList = [] ∧
    leads .gangRelease (on (gangOn loaded (gangPlaced true true (some 0))) (.unit ⟨0, 0, 0⟩)) (fun t => (t.stream c0).stop = .running) = true ∧
    leads .gangRelease (on (gangOn loaded (gangPlaced true true (some 1))) (.unit ⟨0, 0, 0⟩)) (fun t => (t.stream c0).stop = .staged) = true ∧
    leads .localityScoreDecay (on (tile .s) (.num 0)) (fun _ => true) = true := by decide +kernel
theorem test_meets_rerun :
    let s := fun (again : Bool) => on (gangOn id (gangPlaced true true none)) (.streamFlagWord c0 again 0x30)
    let r := fun (s : State) => { s with sched := { s.sched with launches := s.sched.launches.map fun l =>
      { l with copy := File.set l.copy 0 0x3_0002 } } }
    leads .rerun (s false) (fun t => (t.launch 0 0).any fun m => m.code = some 0x30) = true ∧
    leads .rerun (r (s true)) (fun t => t.sched.requeued = [(⟨0, 0, 0, 0⟩, .rerun (some 0))] || t.sched.requeued = [(⟨0, 0, 0, 0⟩, .rerun none)]) = true := by
  decide +kernel
theorem test_meets_parked_start :
    let p : Parked := ⟨0, ⟨0, 0, 0, 0⟩, (0, 0), (0, 0), (0, 0)⟩
    let s := launched { gangLaunch with next := 1 } none_
    let s := on { s with sched := { s.sched with parked := [p] } } (.num 0)
    s.launchOf p.job ≠ none ∧ (s.ctxsFor gangRec 0 []).head? = some false ∧
    leads .parkedTaskStart s (fun t => (t.stream c0).job = some p.job && t.sched.parked = []) = true := by decide +kernel

/-- A waiting queue of class 1, whose minimum is one slot; the slots are taken by queues of class 0, without a minimum. -/
def crowded : State :=
  let s := table 0x10000 0 0 1 0 none_
  { s with
    mm := { s.mm with mem := Mem.putNum s.mm.mem 0x20_0000 8 0x401 }, iss := Issue.none,
    edge := { s.edge with ctl := s.edge.ctl ++ [(0xA80, 0), (0xA88, 1)] ++ (List.range 6).map fun k => (0xA90 + 8 * k, 0) },
    sched := { s.sched with tails := [(0, 1)], waits := [(0, 0)], slots := (List.range 64).map fun k => (k, ⟨k + 1, k, 0, 0⟩) } }
theorem test_meets_slot_reclaim : crowded.reclaims 1 = true ∧ crowded.sched.draining = [] := by decide +kernel
theorem test_meets_victim : crowded.victim = some 64 := by
  have h : (List.range 8).foldl (fun m c => max m (crowded.borrowed c)) 0 = 64 := by decide +kernel
  have k : ((List.range 8).filter fun c => crowded.borrowed c = 64) = [0] := by decide +kernel
  have b : bestBy ((crowded.slotsOf 0).map (·.queue)) (fun q => 256 - crowded.prioOf q)
      (fun q => match crowded.qslot q with | some e => 2 ^ 64 - e.2.mapped | none => 0) = some 64 := by decide +kernel
  simp only [State.victim, h, k, List.length_singleton, Nat.mod_one]
  exact b

/-! ## Preemption and budgets -/

def asked (r : Requester) (x : Stream) : Stream := { x with preempt := some r }
theorem test_meets_preemption :
    let s := gangOn id (gangPlaced true true none)
    let w := launched { launchOf shaderRec with placed := [⟨0, [(0, .wave 0 0)], [], false, true, true, 0, none⟩] }
      (wave .s fun x => { x with job := some ⟨0, 0, 0, 0⟩ })
    c0 ∈ s.together c0 ∧ leads .preemptionRequest (on s (.request c0 .os)) (fun t => (t.stream c0).preempt = some .os) = true ∧
    leads .preemptionRequest (on w (.request (.wave 0 0) .os)) (fun t => (t.launch 0 0).any fun m => m.paused) = true := by decide +kernel
theorem test_meets_save :
    let a := table 0x10000 0 1 1 0 (gangOn (asked .os) (gangPlaced true true none))
    let u := (((a.settle c0).wbDrain c0 fun _ => true).clearReservations c0 (BitVec.allOnes 32))
    u.freeArea 0 = some 0 ∧ (u.stream c0).preempt = some .os ∧ (u.stream c0).job = some ⟨0, 0, 0, 0⟩ ∧ u.dying c0 = false ∧ (a.stream c0).stop = .running := by
  decide +kernel
def area0 : SaveArea := ⟨0, 0, 0, ⟨0, 0, 0, 0⟩, { Stream.launch with pc := 9, job := some ⟨0, 0, 0, 0⟩ }, File.fill 3 [], File.fill 2 [], 0⟩
theorem test_meets_restore :
    let s := launched { gangLaunch with next := 1, placed := [⟨0, [(0, c0)], [], false, true, true, 5, none⟩] } none_
    let s := { s with sched := { s.sched with saves := [area0], requeued := [(area0.job, .saved 0)] } }
    (s.sched.saves.find? fun a => a.queue = 0 && a.area = 0) = some area0 ∧ area0.stream.csr.qown = false ∧ (s.qslot 0).isSome = true ∧
    s.isDraining 0 = false ∧ s.stillAt area0 = none ∧ s.backSeat area0 = some false ∧ s.launchOf area0.job ≠ none := by decide +kernel
theorem test_meets_budgets :
    let slow := fun (n : Word) (s : State) => { s with sched := { s.sched with launches := s.sched.launches.map fun l => { l with copy := File.set l.copy 9 n } } }
    let s := (gangOn id (gangPlaced true true none)).modTile 0 fun t => { t with com := { t.com with cycle := 100 } }
    leads .budgetExpiry (on (slow 100 s) (.stream c0)) (fun t => (t.stream c0).preempt = some .budget) = true ∧
    leads .budgetExpiry (on (slow 101 s) (.stream c0)) (fun t => (t.stream c0).preempt = none) = true ∧
    leads .budgetFinalExpiry (on (slow 50 s) (.stream c0)) (fun t => (t.stream c0).stop = .halted) = true ∧ overBudget gangRec 100 1 = false := by
  decide +kernel
theorem test_meets_group_budgets :
    let l := { launchOf (File.set shaderRec 9 100) with since := some 0, placed := [⟨0, [(0, .wave 0 0)], [], false, true, true, 0, none⟩] }
    let s := { launched l (wave .s fun x => { x with job := some ⟨0, 0, 0, 0⟩ }) with ltime := 160 }
    s.groupsSpent l = 210 ∧ leads .budgetExpiry (on s (.num2 0 0)) (fun t => (t.launch 0 0).any fun m => m.paused) = true ∧
    leads .budgetFinalExpiry (on s (.num2 0 0)) (fun t => (t.launch 0 0).any fun m => m.code = some cBUDGET) = true := by decide +kernel

/-! ## Hosts, links, boot, frames -/

/-- Both ports open; a context bound to ASID 0. -/
def hosted (s : State) : State :=
  { s with edge := { s.edge with boot := .done, identity := true, port0 := { Port.reset with ctxs := [⟨7, some 0⟩, ⟨8, none⟩] } } }
def blob0 : Blob := ⟨1, 7, 0x20_0000, 0x10000, true⟩
def isOk {α β : Type} : Except α β → Bool | .ok _ => true | .error _ => false
theorem test_meets_host_commands :
    let s := hosted none_
    s.open_ false = true ∧ (s.port false).asidOf 7 = some 0 ∧ (s.port false).asidOf 8 = none ∧ (s.port false).knows blob0 = true ∧
    leads .bind (on s (.host false 7 0 0 0)) (fun t => (t.port false).answer = .invalidParameter) = true ∧
    isOk ((tables s).blobPages 0 blob0 16 256 false).1 = true ∧ isOk ((tables s).blobPages 0 blob0 16 256 true).1 = true ∧
    (table 0x10000 0 0 0 0 s).qOwner 0 = some 0 ∧ (table 0x10000 0 0 0 0 s).ringFull 0 = false ∧ (s.port false).waiting = [] ∧
    isOk ((tables (table 0x10000 0 0 0 0 s)).blobPages 0 blob0 0 256 false).1 = true := by decide +kernel
theorem test_meets_host_counters :
    let s := { hosted none_ with mm := { none_.mm with owners := [(4095, 0), (1, 9)] } }
    leads .hostCounterRead (on s (.host false 32760 0 0 0)) (fun t => (t.port false).read = List.replicate 8 0) = true ∧
    (s.port false).binds (s.ctrOwner 4095) = true ∧
    leads .hostCounterWrite (on s (.hostWord false 32760 5)) (fun t => t.ctr 4095 = 5) = true ∧ (s.port false).binds (s.ctrOwner 1) = false := by
  decide +kernel
theorem test_meets_port_reset_and_limits :
    let s := hosted none_
    leads .portReset (on s (.die false)) (fun t => (t.port false).resetting) = true ∧
    leads .portReset (on (s.modPort false fun p => { p with resetting := true }) (.num2 0 1)) (fun t => (t.port false).ctxs = []) = true ∧
    (s.port false).resetting = false ∧ Table.get 0 s.edge.lowered false = 0 := by decide +kernel

theorem turned_lt (n x : Nat) : turned n x < 2 ^ n := by
  have h : ∀ (l : List Nat) (a : Nat), l.foldl (fun a k => 2 * a + x / 2 ^ k % 2) a < (a + 1) * 2 ^ l.length := by
    intro l
    induction l with
    | nil => simp
    | cons k l ih =>
      intro a
      have := ih (2 * a + x / 2 ^ k % 2)
      have h2 : x / 2 ^ k % 2 < 2 := Nat.mod_lt _ (by decide)
      calc _ < (2 * a + x / 2 ^ k % 2 + 1) * 2 ^ l.length := this
        _ ≤ (2 * (a + 1)) * 2 ^ l.length := Nat.mul_le_mul_right _ (by omega)
        _ = _ := by rw [List.length_cons, Nat.pow_succ, Nat.mul_comm 2, Nat.mul_assoc, Nat.mul_comm (2 ^ l.length)]
  simpa [turned] using h (List.range n) 0
theorem crc64_lt (l : List Byte) : crc64 l < 2 ^ 64 := by
  unfold crc64
  cases Config.crcReflected
  · exact BitVec.isLt _
  · exact turned_lt 64 _

/-- A flit whose CRC is right, and one whose CRC is wrong, in either bit order. -/
def flitBody : List Byte := 0x31 :: List.replicate 247 0
theorem length_flitBody : flitBody.length = 248 := by rw [flitBody, List.length_cons, List.length_replicate]
def flitWith (n : Nat) : List Byte := flitBody ++ leBytes 8 n
def flitGood (f : List Byte) : Bool := decide (crc64 (f.take 248) = leNat (f.drop 248))
theorem flitGood_flitWith (n : Nat) (h : n < 2 ^ 64) : flitGood (flitWith n) = decide (crc64 flitBody = n) := by
  have t : (flitWith n).take 248 = flitBody := List.take_left' length_flitBody
  have d : (flitWith n).drop 248 = leBytes 8 n := List.drop_left' length_flitBody
  have e : leNat (leBytes 8 n) = n := (leNat_leBytes 8 n).trans (Nat.mod_eq_of_lt h)
  rw [flitGood, t, d, e]
theorem test_meets_good_flit : flitGood (flitWith (crc64 flitBody)) = true := by
  rw [flitGood_flitWith _ (crc64_lt _)]; exact decide_eq_true rfl
theorem test_meets_bad_flit : ∃ n, flitGood (flitWith n) = false := by
  by_cases h : crc64 flitBody = 0
  · exact ⟨1, by rw [flitGood_flitWith _ (by decide)]; exact decide_eq_false (by omega)⟩
  · exact ⟨0, by rw [flitGood_flitWith _ (by decide)]; exact decide_eq_false h⟩
theorem test_meets_flit_length (n : Nat) : (flitWith n).length = 256 := by
  rw [flitWith, List.length_append, length_flitBody, length_leBytes]
theorem test_meets_links : (none_.link 3).down = false ∧ (0x31 : Nat) % 16 < 5 ∧ BitVec.ofNat 12 (0x31 / 2 ^ 16) = (none_.link 3).expected ∧
    File.get (none_.link 3).held 3 < 512 := by decide +kernel

theorem test_meets_frames :
    (tile .s).admits (.add (sop 0)) = true ∧ (after (.add (sop 0)) (tile .s)).isSome = true ∧
    (after (.call (sop 5)) (tile .s)).isSome = true ∧ (tile .s).timed c0 = true ∧ (tile .va).admits (.vadd (vop .i32 0)) = true ∧
    (after (.vadd (vop .i32 0)) (tile .va)).isSome = true := by decide +kernel
theorem test_meets_canonical_memory : Mem.wf State.reset.mm.mem = true ∧ Mem.wf [(3, 1), (9, 255)] = true ∧ Mem.wf [(9, 1), (3, 1)] = false ∧
    Mem.wf [(3, 0)] = false := by decide
theorem test_meets_canonical_step : (match step none_ with | .next t => Mem.wf t.mm.mem | _ => false) = true := by decide +kernel
theorem test_meets_round_trip : ∀ i ∈ [Instr.add (sop 0), .vadd (vop .i32 0), .ld (lop .i32 false 0), .mma (mop 0), .copy (cop 0 0), .bar { yop 1 0 with scope := 3 }],
    Instr.wf i = true ∧ (encode i).isSome = true := by decide +kernel

theorem test_meets_barrier_completes :
    let o : YOp := ⟨3, .rlx, 0, 1⟩
    let s := tile .y
    s.maskOk o = true ∧ (s.barFirst o).barOpen 0 = false ∧ s.admits (.bar o) = true := by decide +kernel
theorem test_meets_barrier_instance :
    let a : Arrival := ⟨c0, 3, 0⟩
    let b : Arrival := ⟨c1, 3, 1⟩
    a.st.isTile = true ∧ (∀ k < 8, a.n.testBit k = true → [a, b].any (fun x => maskBit x.st = k) = true) ∧
    ¬(∀ k < 8, a.n.testBit k = true → [a].any (fun x => maskBit x.st = k) = true) := by decide
def due (n : Nat) : Result := ⟨n, 0, .s, .s 4, 0xFFFF_FFFF, 7, true, false, 1, 0⟩
theorem test_meets_results_land :
    let s := fun (n : Nat) => tile .s fun x => { x with pend := [due n], time := 5 }
    (s 5).timed c0 = true ∧ (wave .s).timed (.wave 0 0) = false ∧ (due 5).due ≤ ((s 5).stream c0).time ∧ ((s 6).stream c0).time < (due 6).due := by
  decide +kernel
theorem test_meets_store_frame : (after (.st (wop .i32 0)) (mapped (tile .w (ptr 0x10000)))).isSome = true := by decide +kernel

/-! ## Results: the manual's examples and tables -/

/-- The results that a state's operation puts in flight: value and exception flags, and MFLAGS. -/
def flight (i : Instr) (s : State) : List (Nat × Nat × Nat) :=
  match exec i s with
  | .next t => (t.stream c0).pend.map fun r => (r.val.toNat, r.ff.toNat, r.mf.toNat)
  | _ => []
def with2 (a b : Word) : State := tile .s fun x => { x with s := File.set (File.set x.s 1 a) 2 b }
def ints (o : SOp) : List Instr := [.div o, .rem o, .divn o, .remn o]
def low64 (n : Int) : Nat := (BitVec.ofInt 64 n).toNat
/-- R130: −7 ÷ 2; division by 0; −2^63 ÷ −1. -/
theorem test_division : ((ints (sop 0)).map fun i => (flight i (with2 (-7) 2)).map (·.1)) = [[low64 (-3)], [low64 (-1)], [2 ^ 63 - 4], [1]] ∧
    ((ints (sop 0)).map fun i => (flight i (with2 9 0)).map (·.1)) = [[2 ^ 64 - 1], [9], [2 ^ 64 - 1], [9]] ∧
    (((ints (sop 0)).take 2).map fun i => (flight i (with2 (BitVec.ofNat 64 (2 ^ 63)) (-1))).map (·.1)) = [[2 ^ 63], [0]] := by decide +kernel
/-- R131, example 1: the third bundle. -/
theorem test_lih : (flight (.lih { sop 0x1AB_CDEF with a := .reg 1 }) (with2 0x2468_ACF1 0)).map (·.1) = [0x0123_4567_89AB_CDEF] := by decide +kernel
/-- R129: products, and shifts by the low six bits of B. -/
theorem test_integer_corners : (flight (.mulh (sop 0)) (with2 (-1) (-1))).map (·.1) = [0] ∧ (flight (.mulhn (sop 0)) (with2 (-1) (-1))).map (·.1) = [2 ^ 64 - 2] ∧
    (flight (.shl (sop 0)) (with2 3 65)).map (·.1) = [6] ∧ (flight (.sar (sop 0)) (with2 (BitVec.ofNat 64 (2 ^ 63)) 63)).map (·.1) = [2 ^ 64 - 1] := by decide +kernel
def withV (l : List (BitVec 6 × VWord)) : State := tile .va fun x => { x with v := l.foldl (fun f e => File.set f e.1 e.2) x.v }
/-- Chapter 02, examples 2 and 3, at reset: 0.1, 460, 470 and 500 to `e4m3`; the last two overflow. -/
theorem test_convert : (flight (.vcvt { vop .e4m3 0xA with a := .reg 1 }) (withV [(1, 0x43FA_0000_43EB_0000_43E6_0000_3DCC_CCCD)])) = [(0x7E7E_7E1D, 5, 8)] ∧
    (flight (.vcvt { vop .e4m3 0xA with a := .reg 1 }) (withV [(1, 0x43E6_0000_3DCC_CCCD)])) = [(0x7E1D, 1, 0)] := by decide +kernel
/-- Chapter 05, example 1: `vquant` with and without a power-of-two scale. -/
theorem test_vquant :
    let s := withV [(0, BitVec.ofNat 1024 (0x42C8_0000 * 2 ^ 160)), (1, BitVec.ofNat 1024 (0xC040_0000 * 2 ^ 288))]
    let q := fun (k : BitVec 7) => flight (.vquant { vop .e4m3 k with a := .reg 0, b := .reg 8, dst := d 12, width := 2 }) s
    q 0x20 = [(0x7C * 256 ^ 5 + 0xD4 * 256 ^ 41, 1, 0), (0x3E80_0000, 0, 0)] ∧
    q 0 = [(0x7E * 256 ^ 5 + 0xD5 * 256 ^ 41, 1, 0), (0x3E64_924A, 0, 0)] := by decide +kernel
/-- Chapter 05, example 3: the tree of `vfredadd`, with and without element 1. -/
theorem test_reduction_tree :
    let s := withV [(4, 0x3F80_0000_3F80_0000_3F80_0000_4B80_0000)]
    let all := ((2 ^ 256 - 1) / (2 ^ 32 - 1)) * 0x4B80_0001
    (flight (.vfredadd { vop .f32 0 with a := .reg 4 }) s).head? = some (all, 1, 0) ∧
    (flight (.vfredadd { vop .f32 0 with a := .reg 4, pred := ⟨false, 1⟩ })
      (s.modStream c0 fun x => { x with p := File.set x.p 1 (BitVec.allOnes 128 ^^^ 0xF0) })).head? = some (all, 0, 0) := by decide +kernel

/-! ## Further premises of the statements -/

/-- A supervisor core whose instruction cache holds a bundle at its program counter. -/
def supCoded (b : Bundle) (lim : BitVec 16) : State :=
  (sup .s).modCommon (.super 0) fun k => { k with icache := [⟨0, 0, BitVec.setWidth 1024 b, true⟩], curlim := lim }
theorem test_meets_supervisor_steps :
    bundleOf ((supCoded addWord 96).fetch (.super 0) 0) = some addWord ∧ ((supCoded addWord 96).stream (.super 0)).stop = .running ∧
    ((supCoded addWord 96).super 0).com.currents.headD 0 + drawOf false (Bundle.ops addWord) ≤ 96 ∧
    0 < ((supCoded addWord 0).super 0).com.currents.headD 0 + drawOf false (Bundle.ops addWord) ∧
    leads .nop (supCoded addWord 96) (fun _ => true) = true := by decide +kernel

theorem test_meets_reserved_fields : ∀ i ∈ [Instr.sext (sop 64), .zext (sop 64), .bfx (sop 0x2000), .bfi (sop 0x1000), .sel (sop 32)],
    (tile .s).headerOk = true ∧ leads i (tile .s) (tookTrap 1 c0) = true := by decide +kernel
theorem test_meets_wave_uret : (wave .s inUli).admits (.uret (sop 0)) = true ∧ ((wave .s inUli).stream (.wave 0 0)).csr.inuli = true ∧
    (wave .s).testS p0 = true := by decide +kernel

theorem test_meets_counter_traps :
    let s := tile .s (ptr 4096)
    let u := { tile .s (ptr 4095) with mm := { (tile .s).mm with owners := [(4095, 7)] } }
    s.unacked c0 .rel 6 = false ∧ u.unacked c0 .rel 6 = false ∧ u.ctrOwner 4095 ≠ 0 ∧
    (∀ i ∈ [Instr.evadd (sop 0), .evld (sop 0), .evarm (sop 3), .evwait (sop 0)], s.admits i = true ∧ u.admits i = true) := by decide +kernel

/-- A context whose casement's gate gave it the operands of a cooperative mma. -/
def cooped : State := (tile .m (windowed ∘ owning)).modTile 0 fun t => { t with coop := some ([], [], []) }
theorem test_meets_cooperative_mma :
    cooped.admits (.mma { mop 0 with q := true }) = true ∧ (cooped.tile 0).array = none ∧ (cooped.stream c0).csr.qown = true ∧
    (cooped.stream c0).matRaise c0 { mop 0 with q := true } false = none ∧ cooped.judgeB c0 { mop 0 with q := true } false = .ok [] ∧
    (∀ i ∈ [Instr.mma (mop 0), .mmas (mop 0), .mzero (mop 0), .mdrain (mop 0), .mlaccSave (mop 0), .mlaccLoad (mop 1)],
      (busy 3 (tile .m windowed)).admits i = true) := by decide +kernel

/-- An array at the end of an operation. -/
def ends (w : ArrayWork) : State := on ((tile .s).modTile 0 fun t => { t with array := some ⟨c0, 4, 0, w, 0, 0, []⟩ }) (.core (.tile 0))
/-- A region of rows at multiples of their length, with the bytes that stand there. -/
def rowsOf (s : State) (sp rows len : Nat) : MatRegion :=
  let r : MatRegion := { st := c0, space := sp, len := len, rows := (List.range rows).map fun k => len * k, pages := [], bytes := [] }
  { r with bytes := s.regionNow r }
theorem test_meets_ends_of_occupancies :
    let o := { mop 0 with fmtA := 3, fmtB := 3 }
    let s := ends (.zero 0)
    (∀ w ∈ [ArrayWork.zero 3, .drain 3, .products o [rowsOf s 1 128 64] [rowsOf s 0 32 512] none none false false false],
      ((ends w).tile 0).array.any (fun a => a.left = 0) = true ∧ (ends w).subject = .core (.tile 0)) ∧ o.depth = 32 := by decide +kernel
theorem test_meets_operand_regions :
    let s := ends (.zero 0)
    (rowsOf s 1 128 64).rows.length = 128 ∧ (rowsOf s 1 128 64).bytes.length = 128 * 64 ∧ (rowsOf s 1 128 64).len = 64 ∧
    (rowsOf s 0 32 512).rows.length = 32 ∧ (rowsOf s 0 32 512).bytes.length = 32 * 512 ∧ (mType 3).bytes = 2 := by decide +kernel
theorem test_meets_unchanged_regions (s : State) (sp rows len : Nat) : s.regionNow (rowsOf s sp rows len) = (rowsOf s sp rows len).bytes := rfl
theorem test_meets_tag_images : (List.replicate 32768 (0 : Byte)).length = 32768 := List.length_replicate

theorem test_meets_other_stores :
    let k := { tile .w (fun x => { ptr 0 x with csr := { x.csr with kbwin := windowCsr 0 160 } }) with agenda := [] }
    let o : WOp := wop .i32 0x4000
    k.judgeTyped c0 2 4 true (k.typedElements .contiguous (WOp.acc o) 0) = none ∧ k.tileBusy c0 2 (k.typedElements .contiguous (WOp.acc o) 0) = false ∧
    k.admits (.tst o) = true ∧ Mem.wf (k.shader 0).gs = true ∧
    (let s := ranged (mapped (tile .w (ptr 0x10000)))
     s.admits (.cadd (wop .i32 0)) = true ∧ orderRel .rlx = false ∧ leads (.cadd (wop .i32 0)) s (fun _ => true) = true) ∧
    (let s := mapped (sup .w (ptr 0x10000))
     s.judge (.super 0) 4 askWrite (s.elements .scalar (WOp.acc (wop .i32 0)) 0) = .ok [⟨0, 0x10000, x0 0⟩] ∧
     (∀ i ∈ [Instr.st (wop .i32 0), .vst (wop .i32 0), .stx (wop .i32 0x800)], s.admits i = true) ∧
     leads (.st (wop .i32 0)) s (fun t => t.view 0 0x20_0000 = s.view 0 0x20_0000) = true) := by decide +kernel
theorem test_meets_lone_lines : (mapped (tile .w (ptr 0x10000))).alone [0x4000] := by
  intro ln h
  obtain rfl : ln = 0x4000 := by simpa using h
  have a : ∀ c, (mapped (tile .w (ptr 0x10000))).cluster c = [] := fun _ => rfl
  refine ⟨by decide +kernel, by decide +kernel, by decide +kernel, fun c => ?_, fun g => ?_, by decide +kernel, fun c => ?_⟩
  · rw [a]; simp
  · have h : (mapped (tile .w (ptr 0x10000))).mm.lines = [] := rfl
    simp only [h, agentWays]; split <;> simp
  · rw [a]; simp

theorem test_meets_ignored_range_writes :
    let s := tile .s
    leads .rangeTableWrite (on s (.range 15 false (2 ^ 52))) (fun t => (File.get t.mm.ranges 15).1 = (File.get s.mm.ranges 15).1) = true ∧
    leads .rangeTableWrite (on s (.range 15 true (2 ^ 39))) (fun t => (File.get t.mm.ranges 15).2 = (File.get s.mm.ranges 15).2) = true ∧
    leads .rangeTableWrite (on (ranged s) (.range 0 false 0x2000)) (fun t => (File.get t.mm.ranges 0).1 = 0x20_0000) = true := by decide +kernel
theorem test_meets_port_events :
    let s := none_
    let r := s.modPort false fun p => { p with resetting := true }
    leads .portReset (on s (.host false 0 0 0 0)) (fun t => (t.port false).resetting && (t.port false).kind = ResetKind.ofNum 0) = true ∧
    leads .portReset (on r (.die false)) (fun t => (t.port false).resetting) = true ∧
    (PortFunction.ofNum 1).isSome = true ∧ leads .virtqueueNotification (on s (.host false 1 0 0 0)) (fun _ => true) = true ∧
    leads .virtqueueNotification (on r (.die false)) (fun t => t.edge.ctl = r.edge.ctl) = true ∧ (r.port false).resetting = true := by decide +kernel
/-- A core-task at twice its budget, presenting an SB bundle or another. -/
def spentOn (b : Bundle) : State :=
  (coded b b (gangOn (asked .budget) (gangPlaced true true none))).modTile 0 fun t => { t with com := { t.com with cycle := 100 } }
theorem test_meets_last_bundle :
    (spentOn 0x8000).presentsSave c0 = true ∧ (spentOn 0).presentsSave c0 = false ∧ (spentOn 0).spent c0 = 100 ∧
    overBudget (File.set gangRec 9 50) 100 2 = true := by decide +kernel
end Sys2Proof.Tests
end

section
/-! SUPPORT. The statements of scope: the memory's canonical form along every step, the CSRs' maps, the events of the control page. -/

namespace Sys2Proof.Machine

/-! ## The canonical form -/

/-- Settles O60: every row, the issue of a bundle and every clock keep the form, by `exec_canon`, `State.enter_canon`,
`State.clockEdge_canon` and `State.coreClock_canon`. -/
theorem memoryStaysCanonical : Obligations.MemoryStaysCanonical := by
  unfold Obligations.MemoryStaysCanonical
  intro s t hs hstep
  exact step_canon s hs t hstep

/-! ## STATUS (R42) -/

theorem b2n_lt_two (b : Bool) : b2n b < 2 := by cases b <;> decide

/-- A flag's bit in a number that has the flag's weight at that place. -/
theorem getLsbD_ofNat_of_flag {N k : Nat} {b : Bool} (hk : k < 64) (h : N / 2 ^ k % 2 = b2n b) :
    (BitVec.ofNat 64 N).getLsbD k = b := by
  rw [BitVec.getLsbD_ofNat, Nat.testBit_eq_decide_div_mod_eq, h]
  cases b <;> simp [b2n, hk]

/-- A field of a word that is below 2^64, by its quotient and remainder. -/
theorem extractLsb'_ofNat_eq {N lo n : Nat} {x : BitVec n} (hN : N < 2 ^ 64) (h : N / 2 ^ lo % 2 ^ n = x.toNat) :
    (BitVec.ofNat 64 N).extractLsb' lo n = x := by
  apply BitVec.eq_of_toNat_eq
  rw [BitVec.extractLsb'_toNat, BitVec.toNat_ofNat, Nat.mod_eq_of_lt hN, Nat.shiftRight_eq_div_pow, h]

/-- CTX and CTYPE of STATUS (R42). -/
def statusCtx : StreamId → Bool
  | .tile _ b => b
  | _ => false
def statusCtype : CoreType → BitVec 2
  | .tile => 0
  | .shader => 1
  | .super => 2

/-- The number that STATUS holds (R42). -/
def statusNat (c : Csrs) (st : StreamId) : Nat :=
  c.priv.toNat + 4 * b2n c.uie + 8 * b2n c.inuli + 16 * b2n c.llost + 32 * b2n (statusCtx st) + 64 * (statusCtype st.ctype).toNat
    + 256 * b2n c.qown + 512 * b2n c.insvc

theorem statusWord_eq (x : Stream) (st : StreamId) : statusWord x st = BitVec.ofNat 64 (statusNat x.csr st) := by
  cases st <;> rfl

/-- STATUS field by field (R42). -/
theorem statusWord_fields (x : Stream) (st : StreamId) :
    let v := statusWord x st
    v.extractLsb' 0 2 = x.csr.priv ∧ v.getLsbD 2 = x.csr.uie ∧ v.getLsbD 3 = x.csr.inuli ∧ v.getLsbD 4 = x.csr.llost ∧
    v.getLsbD 5 = statusCtx st ∧ v.extractLsb' 6 2 = statusCtype st.ctype ∧ v.getLsbD 8 = x.csr.qown ∧
    v.getLsbD 9 = x.csr.insvc ∧ v.extractLsb' 10 54 = 0 := by
  have hp := x.csr.priv.isLt
  have ht := (statusCtype st.ctype).isLt
  have h1 := b2n_lt_two x.csr.uie
  have h2 := b2n_lt_two x.csr.inuli
  have h3 := b2n_lt_two x.csr.llost
  have h4 := b2n_lt_two (statusCtx st)
  have h5 := b2n_lt_two x.csr.qown
  have h6 := b2n_lt_two x.csr.insvc
  simp only [statusWord_eq, statusNat]
  refine ⟨extractLsb'_ofNat_eq ?_ ?_, getLsbD_ofNat_of_flag (by decide) ?_, getLsbD_ofNat_of_flag (by decide) ?_,
    getLsbD_ofNat_of_flag (by decide) ?_, getLsbD_ofNat_of_flag (by decide) ?_, extractLsb'_ofNat_eq ?_ ?_,
    getLsbD_ofNat_of_flag (by decide) ?_, getLsbD_ofNat_of_flag (by decide) ?_,
    extractLsb'_ofNat_eq ?_ (by simp only [BitVec.ofNat_eq_ofNat, BitVec.toNat_ofNat, Nat.zero_mod]; omega)⟩ <;> omega

/-! ## What a write to a CSR leaves -/

/-- A stream's own registers after a write to CSR n, and those of its core. -/
def Csrs.written (c : Csrs) (n : Nat) (v : Word) : Csrs :=
  { c with
    uie := if n = 0x000 then bit v 2 else c.uie
    mode := if n = 0x001 then v else c.mode
    fflags := if n = 0x002 then v.setWidth 5 else c.fflags
    srstep := if n = 0x002 then v.extractLsb' 32 32 else c.srstep
    mflags := if n = 0x003 then v.setWidth 4 else c.mflags
    cause := if n = 0x004 then v.setWidth 16 else c.cause
    epc := if n = 0x005 then v else c.epc
    tval := if n = 0x006 then v else c.tval
    uvec := if n = 0x008 then v.setWidth 42 else c.uvec
    uepc := if n = 0x009 then v else c.uepc
    seed := if n = 0x00B then v else c.seed
    freezeCl := if n = 0x014 then v.setWidth 32 else c.freezeCl
    freezeAll := if n = 0x014 then v.extractLsb' 32 32 else c.freezeAll
    fair := if n = 0x015 then v.setWidth 13 else c.fair
    lstkBase := if n = 0x016 then v.setWidth 48 else c.lstkBase
    lstkDepth := if n = 0x016 then v.extractLsb' 48 12 else c.lstkDepth
    asid := if n = 0x030 then v.setWidth 16 else c.asid }
def Common.written (k : Common) (n : Nat) (v : Word) : Common :=
  { k with
    svec := if n = 0x007 then v.setWidth 42 else k.svec
    curlim := if n = 0x020 then v.setWidth 16 else k.curlim
    curwin := if n = 0x021 then v.setWidth 8 else k.curwin
    ptbase := if n = 0x031 then v.setWidth 52 else k.ptbase }

theorem State.common_modStream (s : State) (st : StreamId) (f : Stream → Stream) (c : CoreId) :
    (s.modStream st f).common c = s.common c := by
  cases c <;> rfl

theorem State.common_modCommon_self (s : State) (c : CoreId) (f : Common → Common) :
    (s.modCommon c f).common c = f (s.common c) := by
  cases c <;> simp [State.modCommon, State.common, State.tile, State.modShader, State.shader, State.modSuper, State.super, State.clocks]

theorem State.stream_putCsr (s : State) (st : StreamId) (n : Nat) (v : Word) :
    (s.putCsr st n v).stream st = { s.stream st with csr := (s.stream st).csr.written n v } := by
  unfold State.putCsr
  split <;> simp_all [Csrs.written]

theorem State.common_putCsr (s : State) (st : StreamId) (n : Nat) (v : Word) :
    (s.putCsr st n v).common st.core = (s.common st.core).written n v := by
  unfold State.putCsr
  split <;> simp_all [Common.written, State.common_modStream, State.common_modCommon_self]

theorem State.widOf_putCsr (s : State) (st : StreamId) (n l : Nat) (v : Word) : (s.putCsr st n v).widOf st l = s.widOf st l := by
  cases st <;> simp [State.widOf, State.stream_putCsr, Csrs.written]

theorem statusWord_written (x : Stream) (st : StreamId) {n : Nat} (v : Word) (h : n ≠ 0x000) :
    statusWord { x with csr := x.csr.written n v } st = statusWord x st := by
  simp [statusWord, Csrs.written, h]

/-- A write to one CSR leaves every other. -/
theorem State.csr_putCsr_ne (s : State) (st : StreamId) (lanes : Lanes) {n m : Nat} (v : Word) (h : m ≠ n) :
    (s.putCsr st n v).csr st lanes m = s.csr st lanes m := by
  simp only [State.csr, State.stream_putCsr, State.common_putCsr, State.widOf_putCsr]
  split
  case h_1 => exact statusWord_written _ _ _ h.symm
  all_goals simp [Csrs.written, Common.written, h.symm]

/-- RO registers ignore the write (R40). -/
theorem State.putCsr_readOnly (s : State) (st : StreamId) {n : Nat} (v : Word) (h : csrReadOnly n = true) :
    s.putCsr st n v = s := by
  unfold State.putCsr
  split
  case h_19 => rfl
  all_goals simp [csrReadOnly] at h

/-! ## Reading back (R40, R144) -/

/-- A field that is 0 has no bit set. -/
theorem getLsbD_of_fld_eq_zero {v : Word} {lo n : Nat} (h : fld v lo n = 0) {i : Nat} (h1 : lo ≤ i) (h2 : i < lo + n) :
    v.getLsbD i = false := by
  have hb : (fld v lo n).testBit (i - lo) = false := by rw [h, Nat.zero_testBit]
  rw [fld, Nat.testBit_mod_two_pow, Nat.testBit_shiftRight, show lo + (i - lo) = i by omega] at hb
  simpa [BitVec.getLsbD, show i - lo < n by omega] using hb

/-- A word whose upper bits are 0 is held by a register of its low bits. -/
theorem setWidth_setWidth_of_fld {v : Word} {k : Nat} (h : fld v k (64 - k) = 0) : (v.setWidth k).setWidth 64 = v := by
  ext i hi
  by_cases hk : i < k
  · simp [hi, hk]
  · have := getLsbD_of_fld_eq_zero h (i := i) (by omega) (by omega)
    simpa [hi, hk] using this

/-- A word whose bits outside two fields are 0 is held by two registers of those fields. -/
theorem setWidth_or_extract_of_fld {v : Word} {k lo n : Nat} (hm : fld v k (lo - k) = 0) (hn : fld v (lo + n) (64 - (lo + n)) = 0) :
    (v.setWidth k).setWidth 64 ||| ((v.extractLsb' lo n).setWidth 64 <<< lo) = v := by
  apply BitVec.eq_of_getLsbD_eq
  intro i hi
  simp only [BitVec.getLsbD_or, BitVec.getLsbD_shiftLeft, BitVec.getLsbD_setWidth, BitVec.getLsbD_extractLsb', hi, decide_true, Bool.true_and]
  by_cases hlo : i < lo
  · by_cases hk : i < k
    · simp [hlo, hk]
    · simp [hlo, hk, getLsbD_of_fld_eq_zero hm (i := i) (by omega) (by omega)]
  · rw [Nat.add_sub_cancel' (by omega)]
    by_cases htop : i < lo + n
    · simp [hlo, show i - lo < 64 by omega, show i - lo < n by omega]
    · simp [getLsbD_of_fld_eq_zero hn (i := i) (by omega) (by omega)]

/-- A CSR reads back a value that its map accepts. -/
theorem State.csr_putCsr_self (s : State) (st : StreamId) (lanes : Lanes) {n : Nat} {v : Word}
    (hn : n ∈ [0x001, 0x002, 0x003, 0x004, 0x005, 0x006, 0x007, 0x008, 0x009, 0x00B, 0x014, 0x015, 0x016, 0x020, 0x021, 0x030, 0x031])
    (h : csrAccepts st.ctype n v = true) : (s.putCsr st n v).csr st lanes n = v := by
  simp only [List.mem_cons, List.not_mem_nil, or_false] at hn
  rcases hn with rfl | rfl | rfl | rfl | rfl | rfl | rfl | rfl | rfl | rfl | rfl | rfl | rfl | rfl | rfl | rfl | rfl <;>
    simp only [State.csr, State.stream_putCsr, State.common_putCsr, Csrs.written, Common.written, if_true] <;>
    simp only [csrAccepts, Bool.and_eq_true, beq_iff_eq] at h
  -- What is left: FSTAT, MSTAT, CAUSE, SVEC, UVEC, FREEZECNT, FAIRCFG, LSTK, CURLIM, CURWIN, ASID, PTBASE.
  · exact setWidth_or_extract_of_fld h (Nat.mod_one _)
  · exact setWidth_setWidth_of_fld h
  · exact setWidth_setWidth_of_fld h.2
  · exact setWidth_setWidth_of_fld h.1
  · exact setWidth_setWidth_of_fld h.1
  · exact setWidth_or_extract_of_fld (Nat.mod_one _) (Nat.mod_one _)
  · exact setWidth_setWidth_of_fld h.1.1
  · exact setWidth_or_extract_of_fld (Nat.mod_one _) h.2
  · exact setWidth_setWidth_of_fld h.1
  · exact setWidth_setWidth_of_fld h.1
  · exact setWidth_setWidth_of_fld h
  · exact setWidth_setWidth_of_fld h.2

/-- CTX on context c1 of a tile core, and nowhere else (R42). -/
theorem statusCtx_of_ne {st : StreamId} (h : ∀ k, st ≠ .tile k true) : statusCtx st = false := by
  cases st with
  | tile k b => cases b with
    | false => rfl
    | true => exact absurd rfl (h k)
  | wave => rfl
  | super => rfl

/-- Settles O17: from what a write leaves in each register, and from STATUS field by field. -/
theorem csrReadsBackWhatWasWritten : Obligations.CsrReadsBackWhatWasWritten := by
  unfold Obligations.CsrReadsBackWhatWasWritten
  refine ⟨fun s st lanes n m v _ => ⟨fun hn h => s.csr_putCsr_self st lanes hn h, fun hn => ?_, fun h => s.csr_putCsr_ne st lanes v h⟩,
    fun s st lanes => ?_⟩
  · have hro : csrReadOnly n = true := by
      simp only [List.mem_cons, List.not_mem_nil, or_false] at hn
      simp only [csrReadOnly, Bool.or_eq_true, Bool.and_eq_true, beq_iff_eq, decide_eq_true_eq]
      omega
    rw [s.putCsr_readOnly st v hro]
  · obtain ⟨hpriv, huie, hinuli, hllost, hctx, hctype, hqown, hinsvc, hzero⟩ := statusWord_fields (s.stream st) st
    refine ⟨hpriv, huie, hinuli, hllost, fun k hk => ?_, fun hk => hctx.trans (statusCtx_of_ne hk), ?_, hqown, hinsvc, hzero⟩
    · subst hk; exact hctx
    · refine hctype.trans ?_
      cases st <;> rfl

/-! ## The range table (R342) -/

/-- A field reaching to the top of a word is 0 exactly where the word is below the field. -/
theorem fld_top_eq_zero_iff {v : Word} {lo n : Nat} (h : lo + n = 64) : fld v lo n = 0 ↔ v.toNat < 2 ^ lo := by
  have hlt : v.toNat / 2 ^ lo < 2 ^ n := by
    rw [Nat.div_lt_iff_lt_mul (Nat.two_pow_pos lo), ← Nat.pow_add, Nat.add_comm n lo, h]
    exact v.isLt
  rw [fld, Nat.shiftRight_eq_div_pow, Nat.mod_eq_of_lt hlt, Nat.div_eq_zero_iff_lt (Nat.two_pow_pos lo)]

/-- A field of a word below the field is 0. -/
theorem fld_eq_zero_of_lt {v : Word} {lo n : Nat} (h : v.toNat < 2 ^ lo) : fld v lo n = 0 := by
  rw [fld, Nat.shiftRight_eq_div_pow, Nat.div_eq_of_lt h, Nat.zero_mod]

/-- A word with a bit that is 0 is unchanged when that bit is cleared. -/
theorem and_not_twoPow_of_bit {v : Word} {k : Nat} (h : bit v k = false) : v &&& ~~~(BitVec.twoPow 64 k) = v := by
  apply BitVec.eq_of_getLsbD_eq
  intro i hi
  by_cases hk : k = i
  · subst hk
    rw [BitVec.getLsbD_and, show v.getLsbD k = false from h, Bool.false_and]
  · simp [BitVec.getElem_twoPow, hi, Ne.symm hk]

section range
variable {s : State} {e : BitVec 4} {v : Word}

theorem State.joinRange_of_invalid (h : bit (File.get s.mm.ranges e).2 38 = false) : s.joinRange e = s := by
  simp [State.joinRange, h]

/-- Word 0 of an invalid entry is set. -/
theorem State.rangeWrite_word0 (h : bit (File.get s.mm.ranges e).2 38 = false) (hv : v.toNat < 2 ^ 52) :
    s.rangeWrite e false v = s.modMem fun m => { m with ranges := File.set m.ranges e (v, (File.get s.mm.ranges e).2) } := by
  simp [State.rangeWrite, h, (fld_top_eq_zero_iff (v := v) (show 52 + 12 = 64 from rfl)).2 hv]

/-- Word 0 of a valid entry keeps its value, as does any entry where a reserved bit of the value is set (R4). -/
theorem State.rangeWrite_word0_kept (h : bit (File.get s.mm.ranges e).2 38 = true ∨ 2 ^ 52 ≤ v.toNat) :
    s.rangeWrite e false v = s := by
  have hc : (bit (File.get s.mm.ranges e).2 38 || decide (fld v 52 12 ≠ 0)) = true := by
    rw [Bool.or_eq_true, decide_eq_true_eq, Ne, fld_top_eq_zero_iff rfl, Nat.not_lt]
    exact h
  simp only [State.rangeWrite, Bool.not_false, if_true, hc]

/-- A word 1 with VALID clear and a reserved bit set is ignored. -/
theorem State.rangeWrite_word1_ignored (hv : bit v 38 = false) (hr : fld v 39 25 ≠ 0) : s.rangeWrite e true v = s := by
  simp [State.rangeWrite, hv, hr]

theorem State.fld_of_rangeOk {w : Word} (h : s.rangeOk e w v = true) : fld v 39 25 = 0 := by
  simp only [State.rangeOk, Bool.and_eq_true, decide_eq_true_eq] at h
  obtain ⟨⟨⟨⟨⟨_, hr⟩, _⟩, _⟩, _⟩, _⟩ := h
  exact hr

/-- A word 1 with VALID set, over an invalid entry: written if legal, else the entry stays invalid. -/
theorem State.rangeWrite_word1 (h : bit (File.get s.mm.ranges e).2 38 = false) (hv : bit v 38 = true) :
    s.rangeWrite e true v = s.modMem fun m => { m with
      ranges := File.set m.ranges e ((File.get s.mm.ranges e).1,
        if s.rangeOk e (File.get s.mm.ranges e).1 v then v else (File.get s.mm.ranges e).2) } := by
  by_cases hok : s.rangeOk e (File.get s.mm.ranges e).1 v = true
  · simp [State.rangeWrite, h, hv, hok, State.fld_of_rangeOk hok]
  · simp [State.rangeWrite, hv, hok, State.joinRange_of_invalid h, and_not_twoPow_of_bit h]

end range

/-! ## Fault rings and resume ports (R363, R364) -/

/-- The one record that waits, of a die whose ring has room, is posted. -/
theorem State.postRecords_single {s : State} {d : Nat} {r : FaultRecord} (hw : s.mm.waitingFaults = [r]) (hd : r.agent.st.die = d)
    (ho : s.ringOpen d = true) :
    s.postRecords d s.mm.waitingFaults.length = (s.modMem fun m => { m with waitingFaults := [] }).postRecord r := by
  have he : (s.modMem fun m => { m with waitingFaults := m.waitingFaults.erase r }) = s.modMem fun m => { m with waitingFaults := [] } := by
    simp [State.modMem, hw]
  simp only [hw, List.length_singleton, State.postRecords, List.find?_singleton, hd, decide_true, if_true, ho, he]

/-- The write that brings an agent's counter to the recorded value, with action 0, lets the stream run. -/
theorem State.resumeWrite_run {s : State} {d : Nat} {v : Word} {st : StreamId} {w : FaultWait} (hv : v.toNat < 2 ^ 19)
    (ha : agentOfCode (fld v 16 3) (fld v 15 1) (fld v 0 15) = some ⟨st, none⟩) (hs : (s.stream st).stop = .fault w)
    (hr : w.resume = some (Table.get 0 s.mm.resumes ⟨st, none⟩ + 1)) :
    s.resumeWrite d v = (s.modMem fun m =>
      { m with resumes := Table.put m.resumes ⟨st, none⟩ (Table.get 0 s.mm.resumes ⟨st, none⟩ + 1) }).modStream st
        fun x => { x with stop := .running } := by
  have haction : fld v 19 2 = 0 := fld_eq_zero_of_lt hv
  have hport : ¬ 2097152 ≤ v.toNat := by omega
  simp [State.resumeWrite, hport, haction, ha, hs, hr, State.resumeStream]

/-! ## Registers without an event of their own -/

/-- EPC, TVAL, UEPC and SEED take any value, written as an event. -/
theorem State.csrEvent_free {s : State} {st : StreamId} {n : Nat} (v : Word) (hn : n ∈ [0x005, 0x006, 0x009, 0x00B])
    (hex : csrExists st.ctype n = true) (hal : csrAllowed (s.stream st).csr.priv true n = true) :
    s.csrEvent st n v = s.putCsr st n v := by
  simp only [List.mem_cons, List.not_mem_nil, or_false] at hn
  rcases hn with rfl | rfl | rfl | rfl <;>
    simp [State.csrEvent, hex, hal, State.writeCsr, csrLeaves, csrReadOnly, csrAccepts, State.clearW1c]

/-- A LEASE between 256 and 12288 is set. -/
theorem State.ctlWrite_lease {s : State} {off : Nat} {v : Word} (ho : off ∈ [0x100, 0x120]) (hlo : 256 ≤ v.toNat) (hhi : v.toNat ≤ 12288) :
    s.ctlWrite off v = s.setCtl off v := by
  have hsmall : v.toNat < 2 ^ 14 := by omega
  have hf : fld v 0 14 = v.toNat := by rw [fld, Nat.shiftRight_zero, Nat.mod_eq_of_lt hsmall]
  have hand : v &&& 16383#64 = v := by
    apply BitVec.eq_of_toNat_eq
    rw [BitVec.toNat_and]
    exact (Nat.and_two_pow_sub_one_eq_mod v.toNat 14).trans (Nat.mod_eq_of_lt hsmall)
  simp only [List.mem_cons, List.not_mem_nil, or_false] at ho
  have hok : s.ctlOk off v = true := by
    simp only [State.ctlOk, ho, if_true, hf, fld_eq_zero_of_lt hsmall, fld_eq_zero_of_lt (show v.toNat < 2 ^ 17 by omega), hlo, hhi,
      and_self, decide_true, Bool.and_true]
  rcases ho with rfl | rfl <;> simp [State.ctlWrite, hok, ctlPlain, hand]

/-- A base aligned to 4 KiB below 2^52 is set. -/
theorem State.ctlWrite_base {s : State} {off : Nat} {v : Word} (ho : off ∈ [0x200, 0x240, 0x900, 0xA00]) (hv : v.toNat < 2 ^ 52)
    (ha : v.toNat % 4096 = 0) : s.ctlWrite off v = s.setCtl off v := by
  simp only [List.mem_cons, List.not_mem_nil, or_false] at ho
  have hok : s.ctlOk off v = true := by
    have hbase : (decide (v.toNat < 2 ^ 52) && decide (v.toNat % 4096 = 0)) = true := by
      rw [Bool.and_eq_true, decide_eq_true_eq, decide_eq_true_eq]
      exact ⟨hv, ha⟩
    rcases ho with rfl | rfl | rfl | rfl <;> exact hbase
  rcases ho with rfl | rfl | rfl | rfl <;> simp [State.ctlWrite, hok, ctlPlain]

/-! ## The counter region (R448) -/

theorem region_counters {n : Nat} (h : n < 4096) : region (0x000F000000010000 + 8 * n) = .counters := by
  unfold region
  rw [if_neg (by omega), if_neg (by omega), if_neg (by omega), if_neg (by omega), if_neg (by omega), if_pos (by omega)]

section counters
variable {s : State} {st : StreamId} {n : Nat}

/-- A counter's word read at K or M: an acquire, as by `evld`. -/
theorem State.execCounterRegionAccess_read (hs : s.subject = .counter st n none) (hn : n < 4096) (hp : (s.stream st).csr.priv ≠ 0) :
    execCounterRegionAccess s = .next (s.acquire st 6) := by
  have hal : (0x000F000000010000 + 8 * n) % 8 = 0 := by omega
  simp only [execCounterRegionAccess, hs, State.deviceRead, Nat.mod_eq_of_lt hn, region_counters hn]
  simp [hal, show ¬(s.stream st).csr.priv = 0#2 from hp]

/-- A counter's word written at K or M: an add after a release, as by `evadd` with no return. -/
theorem State.execCounterRegionAccess_write {v : Word} (hs : s.subject = .counter st n (some v)) (hn : n < 4096)
    (hp : (s.stream st).csr.priv ≠ 0) : execCounterRegionAccess s = .next ((s.release st 6).ctrAdd n v) := by
  have hal : (0x000F000000010000 + 8 * n) % 8 = 0 := by omega
  have hctr : (0x000F000000010000 + 8 * n) % 65536 / 8 = n := by omega
  simp only [execCounterRegionAccess, hs, State.deviceWrite, Nat.mod_eq_of_lt hn, region_counters hn, hctr, BitVec.ofNat_toNat]
  simp [hal, show ¬(s.stream st).csr.priv = 0#2 from hp]

end counters

/-- The sources of R456 that `ipi` and the timer raise. -/
theorem twoPow_ipi_timer : BitVec.twoPow 64 2 = 4 ∧ BitVec.twoPow 64 3 = 8 := by decide

/-- Settles O41, event by event, from the lemma of each. -/
theorem controlPageEvents : Obligations.ControlPageEvents := by
  unfold Obligations.ControlPageEvents
  intro s
  refine ⟨?word0, ?word1Ignored, ?word1, ?post, ?tail, ?resume, ?csr, ?lease, ?base, ?pend, ?ctrRead, ?ctrWrite⟩
  case word0 =>
    rintro e v w hs rfl
    simp only [exec, execRangeTableWrite, hs]
    exact ⟨fun h hv => by rw [State.rangeWrite_word0 h hv], fun h => by rw [State.rangeWrite_word0_kept h]⟩
  case word1Ignored =>
    intro e v hs hv hr
    simp only [exec, execRangeTableWrite, hs]
    rw [State.rangeWrite_word1_ignored hv hr]
  case word1 =>
    rintro e v w hs rfl h hv
    simp only [exec, execRangeTableWrite, hs]
    rw [State.rangeWrite_word1 h hv]
  case post =>
    intro d r hs hw hd ho
    simp only [exec, execFaultRecordPost, hs]
    rw [State.postRecords_single hw hd ho]
  case tail =>
    intro d v hs hv
    simp only [exec, execFaultRingTailWrite, hs, State.tailWrite, if_neg (Nat.not_le.2 hv)]
    cases d <;> rfl
  case resume =>
    intro d v st w hs hv ha hst hr
    simp only [exec, execResumePortWrite, hs]
    rw [State.resumeWrite_run hv ha hst hr]
  case csr =>
    intro st n v hs hn hex hal
    simp only [exec, execRegisterWrite, hs]
    rw [State.csrEvent_free v hn hex hal]
  case lease =>
    intro off v hs ho hlo hhi
    have hoff : off % 8 = 0 ∧ off < 65536 := (by decide : ∀ o ∈ [0x100, 0x120], o % 8 = 0 ∧ o < 65536) off ho
    simp only [exec, execRegisterWrite, hs, if_pos hoff]
    rw [State.ctlWrite_lease ho hlo hhi]
  case base =>
    intro off v hs ho hv ha
    have hoff : off % 8 = 0 ∧ off < 65536 := (by decide : ∀ o ∈ [0x200, 0x240, 0x900, 0xA00], o % 8 = 0 ∧ o < 65536) off ho
    simp only [exec, execRegisterWrite, hs, if_pos hoff]
    rw [State.ctlWrite_base ho hv ha]
  case pend =>
    intro k hs hk
    obtain ⟨hipi, htimer⟩ := twoPow_ipi_timer
    simp only [exec, execIpi, execTimerCompare, hs, if_pos hk, Nat.mod_eq_of_lt hk, State.pend, hipi, htimer, and_self]
  case ctrRead =>
    intro st n hs hn hp
    exact State.execCounterRegionAccess_read hs hn hp
  case ctrWrite =>
    intro st n v hs hn hp _
    exact State.execCounterRegionAccess_write hs hn hp

end Sys2Proof.Machine
end

section
/-! SUPPORT. The statements of bundles and encoding: decoding a bundle of one operation, and where a stream is after a bundle issues. -/

/-! ## A bundle of one operation (R86, R87, R88) -/

namespace Sys2Proof.Laws.Codec

/-- The row of each instruction, in the order of `Instr`. -/
theorem statement_holds (i : Instr) : Statement i :=
  Instr.rec (motive := Statement)
    nop add sub mul mulh mulhn div divn rem remn and or xor andn shl shr sar rol min minn max maxn clz ctz popc sext zext bfx bfi sel li lih
    cmp plog pmov pmovHToS pmovHFromS pmovB fadd fsub fmul fdiv fsqrt ffma fcmp fcvt fminmax bru jmp call ret loop brk brl jmpl calll retl
    join yieldp csrr csrw csrs csrc sysc trap eret uret wfi halt brkpt tlbi cmaint mts mfs mtq evadd evld evarm evwait lea addpc wid vnop
    vadd vsub vmul vmulh vmad vabs vneg vmin vmax vadds vsubs vavg vsad vand vor vxor vandn vshl vshr vsar vclz vpopc vbfx vbfi vbsel vfadd
    vfsub vfmul vffma vfmin vfmax vrcp vrsq vsqrt vexp2 vlog2 vsin vcos vtanh vcvt vquant vdeq vcmp vsel vplog vpcnt vpfirst vpany vtbl
    vperm vslide vshfl vbcast vext vins vzip vunzip vredadd vredmin vredmax vredlog vscan vfredadd vmov vmovS vli vlane lnop ld vld vlds
    vldg tld gld ldx lpf amadd ammin ammax amand amor amxor amswp amcas amfadd aminc wnop st vst vsts vsct tst gst stx cadd cwb mnop mma
    mmas mzero mdrain mlaccSave mlaccLoad wvmac cnop copy gath scat qbcast pfb drop coll xsort tmoveMove tmoveEvict tqpush rlaunch rtrace
    qfence sopen sopenEvicted satt srel sevict sdrop ynop bar barphArrive barphWait fence tkwait tktest flagw flagset ulien mergeStage
    idleCountExpiry shaderPartitionSelect pathWaitLimit resultLanding shutterDelivery queueEntryArrival flagSetArrival loadDataReturn
    memoryValueReturn writeBufferDrain emptyBundle tlbiCompletion cmaintCompletion delayedTriggerAction cooperativeMmaIssue
    arrayOccupancyEnd drainCommit engineCommandStart engineCommandComplete collectiveMatch rlaunchRemoteEnd remoteLaunchReceive baseLanding
    sashDirectoryAnswer sattAttach srelComplete sashWritebackAck sashRestoreComplete evictionWritebackFault reservationKill
    reservationAgeExpiry modeWrite fstatWrite faircfgWrite lstkWrite curlimWrite curwinWrite causeWrite svecWrite uvecWrite ptbaseWrite
    registerWrite faultRecordPost resumePortWrite faultRingTailWrite uncorrectableError uliEntry debugHalt preemptionRequest preemptionSave
    contextRestore budgetExpiry budgetFinalExpiry clusterCacheWriteback leaseExpiry epochSweep retentionEntry retentionWake
    partialJoinOnArrival rangeTableWrite directoryReadRequest directoryOwnershipRequest evictionNotice forward invalidation invalidationAck
    ownershipGrant writeUpdatePush tokenBucketRefill tableWalk tableWalkComplete tmoveCopyComplete doorbell recordBegin queueMap slotReclaim
    recordCancel groupDispatch localityScoreDecay gangLaunch gangReadyReport gangRelease groupEnd rerun preload parkedTaskStart hostWrite
    hostBlobAccess bind append cancel hostCounterRead hostCounterWrite counterRegionAccess portReset supervisorInterrupt timerCompare ipi
    flitReceive linkRetrain boot patrolScrub thermalLimit thermalRecover debugResume virtqueueNotification hostAttach i

/-- A legal operation's slot word decodes to it. -/
theorem decodeSlot_encode {i : Instr} {ct : CoreType} {sl : Slot} {w : BitVec 64} (hl : i.legal ct = true)
    (he : encode i = some (sl, w)) : decodeSlot sl w = some i :=
  statement_holds i ct hl sl w he

end Sys2Proof.Laws.Codec

namespace Sys2Proof

@[simp] theorem Header.ofBits_toBits (h : Header) : Header.ofBits h.toBits = h := by
  simp (disch := decide) only [Header.ofBits, Header.toBits, ext_lo, ext_hi, ext_all, bit_hi, bit_lo, Nat.reduceSub, getLsbD_ofBool]

/-- A slot's word lies above the header. -/
@[simp] theorem Bundle.header_single (h : Header) (sl : Slot) (w : BitVec 64) : Bundle.header (Bundle.single h sl w) = h := by
  have hbits : (Bundle.single h sl w).extractLsb' 0 32 = h.toBits := by
    ext k hk
    simp [Bundle.single, show k < 32 + 64 * sl.code by omega, show k < 512 by omega, hk]
  rw [Bundle.header, hbits, Header.ofBits_toBits]

/-- The bits of a bundle above the header are those of the one slot's word. -/
theorem Bundle.extractLsb'_single (h : Header) (sl : Slot) (w : BitVec 64) {n : Nat}
    (hfit : 32 + 64 * sl.code + n ≤ 512) : (Bundle.single h sl w).extractLsb' (32 + 64 * sl.code) n = w.setWidth n := by
  ext k hk
  have hlow : h.toBits.getLsbD (32 + 64 * sl.code + k) = false := BitVec.getLsbD_of_ge _ _ (by omega)
  simp [Bundle.single, hlow, show 32 + 64 * sl.code + k < 512 by omega]

/-- The word of the slot is read back; of a Y word the low 32 bits, which are all that its decoder sees. -/
theorem decodeSlot_word_single (h : Header) (sl : Slot) (w : BitVec 64) :
    decodeSlot sl (Bundle.word (Bundle.single h sl w) sl) = decodeSlot sl w := by
  cases sl with
  | y =>
    have hword : (Bundle.single h .y w).extractLsb' 480 32 = w.setWidth 32 := Bundle.extractLsb'_single h .y w (by decide)
    simp [decodeSlot, Bundle.word, hword]
  | _ => rw [Bundle.word, Bundle.extractLsb'_single, BitVec.setWidth_eq] <;> decide

/-- The header of one operation marks its slot alone. -/
theorem Header.valid_only (sl : Slot) : (Slot.all.filter fun k => (Header.only sl).valid.getLsbD k.validBit) = [sl] := by
  cases sl <;> rfl

/-- The bundle that holds one slot's word alone has what that word decodes to. -/
theorem Bundle.ops_single (sl : Slot) (w : BitVec 64) :
    Bundle.ops (Bundle.single (Header.only sl) sl w) = [(sl, decodeSlot sl w)] := by
  rw [Bundle.ops, Bundle.header_single, Header.valid_only, List.map_singleton, decodeSlot_word_single]

/-- Settles O3: the bundle gives its slot's word back, and `decodeSlot_encode` reads the operation from it; so the word determines
the operation. -/
theorem decodeEncode : Obligations.DecodeEncode := by
  unfold Obligations.DecodeEncode
  refine ⟨fun i ct sl w hl he => ?_, fun i j ct cu hi hj hs he => ?_⟩
  · rw [Bundle.ops_single, Laws.Codec.decodeSlot_encode hl he]
  · obtain ⟨⟨sl, w⟩, hw⟩ := Option.isSome_iff_exists.1 hs
    have hdi : decodeSlot sl w = some i := Laws.Codec.decodeSlot_encode hi hw
    have hdj : decodeSlot sl w = some j := Laws.Codec.decodeSlot_encode hj (he ▸ hw)
    exact Option.some.inj (hdi.symm.trans hdj)

/-- Settles O2: the eight words are closed, so the decoder is evaluated on each. -/
theorem decodesWords : Obligations.DecodesWords := by
  unfold Obligations.DecodesWords
  decide

end Sys2Proof

/-! ## The issue of a bundle (R7, R27, R85, R89) -/

namespace Sys2Proof

/-- What a file holds after one of its registers is set. -/
theorem File.get_set {n : Nat} {α : Type} (f : File n α) (i j : BitVec n) (v : α) :
    File.get (File.set f i v) j = if j = i then v else File.get f j := by
  show (Vector.set f i.toNat v i.isLt)[j.toNat]'j.isLt = _
  rw [Vector.getElem_set]
  by_cases h : i = j
  · rw [if_pos (congrArg BitVec.toNat h), if_pos h.symm]
  · rw [if_neg fun hn => h (BitVec.eq_of_toNat_eq hn), if_neg (Ne.symm h)]
    rfl

namespace Machine

/-- A pop concerns no stream, and not the bundle being issued. -/
@[simp] theorem State.popQueue_streams (s : State) (st : StreamId) (q : BitVec 3) : (s.popQueue st q).streams = s.streams := by
  cases st <;> rfl
@[simp] theorem State.popQueue_iss (s : State) (st : StreamId) (q : BitVec 3) : (s.popQueue st q).iss = s.iss := by
  cases st <;> rfl

/-- Nor do the pops of a header. -/
theorem State.popQueues_keep (st : StreamId) (l : List (BitVec 3)) (s : State) :
    (l.foldl (fun s q => s.popQueue st q) s).streams = s.streams ∧ (l.foldl (fun s q => s.popQueue st q) s).iss = s.iss := by
  induction l generalizing s with
  | nil => exact ⟨rfl, rfl⟩
  | cons q l ih =>
    obtain ⟨hstreams, hiss⟩ := ih (s.popQueue st q)
    exact ⟨hstreams.trans (s.popQueue_streams st q), hiss.trans (s.popQueue_iss st q)⟩

/-- The streams after a bundle issues: its own has advanced. -/
theorem State.finish_streams (s : State) :
    s.finish.streams = Table.put s.streams s.iss.st ((s.stream s.iss.st).advance s.iss.st s.iss) := by
  obtain ⟨hstreams, hiss⟩ := State.popQueues_keep s.iss.st (popped s.hdr) s
  simp only [State.finish, State.picked_streams, State.modStream_streams, State.stream, hstreams, hiss]

theorem State.stream_finish_self (s : State) :
    s.finish.stream s.iss.st = (s.stream s.iss.st).advance s.iss.st s.iss := by
  rw [State.stream, State.finish_streams, Table.get_put_self]

theorem State.stream_finish_ne (s : State) {u : StreamId} (h : u ≠ s.iss.st) : s.finish.stream u = s.stream u := by
  rw [State.stream, State.finish_streams, Table.get_put_ne _ _ _ h, State.stream]

/-- A file of lanes after some lanes are set, lane by lane. -/
theorem get_foldl_setLanes {α : Type} (v : Nat → α) (j : BitVec 5) (l : List Nat) (hl : ∀ k ∈ l, k < 32) (f : File 5 α) :
    File.get (l.foldl (fun f k => File.set f (lane k) (v k)) f) j = if j.toNat ∈ l then v j.toNat else File.get f j := by
  induction l generalizing f with
  | nil => simp
  | cons k l ih =>
    have hk : j = lane k ↔ j.toNat = k := by
      rw [← BitVec.toNat_inj, lane, BitVec.toNat_ofNat, Nat.mod_eq_of_lt (hl k List.mem_cons_self)]
    have hset : File.get (File.set f (lane k) (v k)) j = if j.toNat = k then v j.toNat else File.get f j := by
      rw [File.get_set]
      by_cases h : j.toNat = k <;> simp [hk, h]
    rw [List.foldl_cons, ih (fun i hi => hl i (List.mem_cons_of_mem _ hi)), hset]
    by_cases h : j.toNat ∈ l <;> simp [h]

/-- The program counters of threads after a jump. -/
theorem Threads.jump_get (t : Threads) (m : Lanes) (pc : Nat → Word) (l : BitVec 5) :
    File.get (t.jump m pc).pcs l = if m.getLsbD l.toNat then pc l.toNat else File.get t.pcs l := by
  have hmem : l.toNat ∈ lanesOf m ↔ m.getLsbD l.toNat = true := by
    simpa [lanesOf, bit, BitVec.getLsbD] using fun _ => l.isLt
  have hlt : ∀ k ∈ lanesOf m, k < 32 := fun k hk => List.mem_range.1 (List.mem_filter.1 hk).1
  simp only [Threads.jump, get_foldl_setLanes pc l _ hlt, hmem]

section advance
variable (x : Stream) (iss : Issue)

/-- Where a tile context is after its bundle issues; context time and the idle count are the main stream's (R7, R89, R358). -/
theorem Stream.advance_tile (c : Nat) (b : Bool) :
    (x.advance (.tile c b) iss).pc = iss.npc.getD (x.pc + 1) ∧
    (x.inHandler = false → (x.advance (.tile c b) iss).time = x.time + 1 ∧
      (x.advance (.tile c b) iss).idle = (Header.ofBits iss.header).idle.toNat) ∧
    (x.inHandler = true → (x.advance (.tile c b) iss).time = x.time ∧ (x.advance (.tile c b) iss).idle = x.idle) := by
  simp only [Stream.advance]
  split
  next h =>
    have hx : x.inHandler = true := h
    simp [hx]
  next h =>
    have hx : ¬x.inHandler = true := h
    simp [hx]

theorem Stream.advance_super_pc (n : Nat) : (x.advance (.super n) iss).pc = iss.npc.getD (x.pc + 1) := rfl

theorem Stream.advance_wave_pc (c w : Nat) : (x.advance (.wave c w) iss).pc = x.pc := rfl

/-- A per-lane operation has moved the lanes of the path already (R139). -/
theorem Stream.advance_wave_pcs_of_moved (c w : Nat) (h : iss.moved = true) : (x.advance (.wave c w) iss).thr.pcs = x.thr.pcs := by
  simp only [Stream.advance, h, if_true]

/-- Otherwise the lanes of the path move on together, and no other. -/
theorem Stream.advance_wave_lane (c w : Nat) (l : BitVec 5) (h : iss.moved = false) :
    File.get (x.advance (.wave c w) iss).thr.pcs l =
      if iss.lanes.getLsbD l.toNat then iss.npc.getD (iss.pc + 1) else File.get x.thr.pcs l := by
  simp only [Stream.advance, h, Bool.false_eq_true, if_false, Threads.jump_get]

end advance

/-- Settles O12: only the issuing stream changes, by `Stream.advance`, whose form on each core type is the claim. -/
theorem nextProgramCounter : Obligations.NextProgramCounter := by
  unfold Obligations.NextProgramCounter
  intro s
  refine ⟨fun c b hst => ?tile, fun n hst => ?super, fun c w hst => ?wave, fun u hu => s.stream_finish_ne hu⟩
  all_goals rw [State.stream_finish_self, hst]
  case tile => exact Stream.advance_tile _ _ c b
  case super => exact Stream.advance_super_pc _ _ n
  case wave =>
    refine ⟨Stream.advance_wave_pc _ _ c w, fun hm l => ?_, fun hm l => ?_⟩
    · have hl : (BitVec.ofNat 5 l).toNat = l := Nat.mod_eq_of_lt l.isLt
      have hlane := Stream.advance_wave_lane (s.stream (.wave c w)) s.iss c w (BitVec.ofNat 5 l) hm
      rwa [hl] at hlane
    · exact congrArg (fun f : File 5 Word => f.get _) (Stream.advance_wave_pcs_of_moved _ _ c w hm)

end Machine

end Sys2Proof
end

section
/-! SUPPORT. The bits of a vector write, and what a V operation of one bundle completes with (R98, R162, R164). -/

namespace Sys2Proof.Machine

/-! ## The bits of a write -/

/-- Bit i of a run of n ones from bit lo. -/
theorem testBit_ones_shiftLeft (n lo i : Nat) : ((2 ^ n - 1) <<< lo).testBit i = decide (lo ≤ i ∧ i < lo + n) := by
  rw [Nat.testBit_shiftLeft, Nat.testBit_two_pow_sub_one, Bool.eq_iff_iff]
  simp only [Bool.and_eq_true, decide_eq_true_eq]
  omega

/-- A bit of a field. -/
theorem testBit_fld {w : Nat} (x : BitVec w) (lo n i : Nat) : (fld x lo n).testBit i = (decide (i < n) && x.getLsbD (lo + i)) := by
  rw [fld, Nat.testBit_mod_two_pow, Nat.testBit_shiftRight]
  rfl

theorem elemAt_lt (x : VWord) (base z k : Nat) : elemAt x base z k < 2 ^ (8 * z) := Nat.mod_lt _ (Nat.two_pow_pos _)

/-- Bit i of the register lies in byte i / 8 (R2). -/
theorem getLsbD_byteBits (m : PWord) {i : Nat} (hi : i < 1024) : (byteBits m).getLsbD i = m.getLsbD (i / 8) := by
  have hfold : ∀ n : Nat, ((List.range n).foldl (fun acc j => if m.toNat.testBit j then acc ||| (255 <<< (8 * j)) else acc) 0).testBit i =
      (decide (i / 8 < n) && m.toNat.testBit (i / 8)) := by
    intro n
    induction n with
    | zero => simp
    | succ n ih =>
      have hbyte : (255 <<< (8 * n)).testBit i = decide (i / 8 = n) := by
        rw [show (255 : Nat) = 2 ^ 8 - 1 from rfl, testBit_ones_shiftLeft, decide_eq_decide]
        omega
      rw [List.range_succ, List.foldl_append, List.foldl_cons, List.foldl_nil]
      by_cases hn : i / 8 = n
      · by_cases hm : m.toNat.testBit n <;> simp [hm, ih, hbyte, hn]
      · have hlt : i / 8 < n + 1 ↔ i / 8 < n := by omega
        by_cases hm : m.toNat.testBit n <;> simp [hm, ih, hbyte, hn, hlt]
  rw [byteBits, BitVec.getLsbD_ofNat, hfold, decide_eq_true hi, decide_eq_true (show i / 8 < 128 by omega)]
  simp [BitVec.getLsbD]

/-- A register after a write, bit by bit. -/
theorem VWrite.getLsbD_onto (w : VWrite) (old : VWord) {i : Nat} (hi : i < 1024) :
    (w.onto old).getLsbD i = if w.mask.getLsbD (i / 8) then w.val.getLsbD i else old.getLsbD i := by
  have hbits := getLsbD_byteBits w.mask hi
  simp only [VWrite.onto, BitVec.getLsbD_or, BitVec.getLsbD_and, BitVec.getLsbD_not, hbits, hi, decide_true, Bool.true_and]
  by_cases hm : w.mask.getLsbD (i / 8) <;> simp [hm]

/-- The bytes of a write with z bytes added. -/
theorem VWrite.getLsbD_add_mask (w : VWrite) (b z x : Nat) {j : Nat} (hj : j < 128) :
    (w.add b z x).mask.getLsbD j = (w.mask.getLsbD j || decide (b ≤ j ∧ j < b + z)) := by
  rw [VWrite.add, BitVec.getLsbD_or, BitVec.getLsbD_ofNat, testBit_ones_shiftLeft, decide_eq_true hj, Bool.true_and]

/-- The bits of a write with z bytes added. -/
theorem VWrite.getLsbD_add_val (w : VWrite) (b z x : Nat) {i : Nat} (hi : i < 1024) :
    (w.add b z x).val.getLsbD i = (w.val.getLsbD i || (decide (8 * b ≤ i) && (x % 2 ^ (8 * z)).testBit (i - 8 * b))) := by
  rw [VWrite.add, BitVec.getLsbD_or, BitVec.getLsbD_ofNat, Nat.testBit_shiftLeft, decide_eq_true hi, Bool.true_and]

/-! ## The write of a span's elements -/

section vmap
variable {b z : Nat} {part : Nat → Bool} {f : Nat → Nat}

theorem vmap_succ (b z n : Nat) (part : Nat → Bool) (f : Nat → Nat) :
    vmap b z (n + 1) part f = if part n then (vmap b z n part f).add (b + z * n) z (f n) else vmap b z n part f := by
  rw [vmap, List.range_succ, List.foldl_append]
  rfl

/-- The bytes that a span's write covers: those of the elements that take part. -/
theorem getLsbD_vmap_mask {j : Nat} (hj : j < 128) (n : Nat) :
    (vmap b z n part f).mask.getLsbD j = true ↔ ∃ k < n, part k = true ∧ b + z * k ≤ j ∧ j < b + z * k + z := by
  induction n with
  | zero => simp [vmap, VWrite.empty]
  | succ n ih =>
    rw [vmap_succ, Nat.exists_lt_succ_right, ← ih]
    split
    next hn => rw [VWrite.getLsbD_add_mask _ _ _ _ hj, Bool.or_eq_true, decide_eq_true_iff, and_iff_right hn]
    next hn => rw [iff_self_or]; exact fun h => absurd h.1 hn

/-- The bits that a span's write sets: those of the elements that take part. -/
theorem getLsbD_vmap_val {i : Nat} (hi : i < 1024) (n : Nat) :
    (vmap b z n part f).val.getLsbD i = true ↔
      ∃ k < n, part k = true ∧ 8 * (b + z * k) ≤ i ∧ (f k % 2 ^ (8 * z)).testBit (i - 8 * (b + z * k)) = true := by
  induction n with
  | zero => simp [vmap, VWrite.empty]
  | succ n ih =>
    rw [vmap_succ, Nat.exists_lt_succ_right, ← ih]
    split
    next hn => rw [VWrite.getLsbD_add_val _ _ _ _ hi, Bool.or_eq_true, Bool.and_eq_true, decide_eq_true_iff, and_iff_right hn]
    next hn => rw [iff_self_or]; exact fun h => absurd h.1 hn

/-- Elements do not overlap: a byte belongs to one of them. -/
theorem element_unique {k k' j : Nat} (hk : z * k ≤ j ∧ j < z * k + z) (hk' : z * k' ≤ j ∧ j < z * k' + z) : k = k' := by
  have h1 : z * k < z * (k' + 1) := by rw [Nat.mul_succ]; omega
  have h2 : z * k' < z * (k + 1) := by rw [Nat.mul_succ]; omega
  have := Nat.lt_of_mul_lt_mul_left h1
  have := Nat.lt_of_mul_lt_mul_left h2
  omega

/-- A participating element of a span's write has the low bits of its value. -/
theorem elemAt_vmap {k n : Nat} (hn : b + z * n ≤ 128) (hk : k < n) (hp : part k = true) :
    elemAt (vmap b z n part f).val (8 * b) z k = f k % 2 ^ (8 * z) := by
  have hzk : z * k + z ≤ z * n := by rw [← Nat.mul_succ]; exact Nat.mul_le_mul_left z hk
  apply Nat.eq_of_testBit_eq
  intro i
  rw [elemAt, testBit_fld, show 8 * b + 8 * z * k = 8 * (b + z * k) by rw [Nat.mul_add, Nat.mul_assoc]]
  by_cases hi : i < 8 * z
  · rw [decide_eq_true hi, Bool.true_and, Bool.eq_iff_iff, getLsbD_vmap_val (by omega)]
    constructor
    · rintro ⟨k', -, -, hle, hbit⟩
      have hlt : 8 * (b + z * k) + i - 8 * (b + z * k') < 8 * z := by
        rw [Nat.testBit_mod_two_pow, Bool.and_eq_true, decide_eq_true_iff] at hbit
        exact hbit.1
      obtain rfl : k = k' := element_unique (z := z) (j := z * k + i / 8) (by omega) (by omega)
      rwa [Nat.add_sub_cancel_left] at hbit
    · exact fun hbit => ⟨k, hk, hp, Nat.le_add_right _ _, by rwa [Nat.add_sub_cancel_left]⟩
  · rw [decide_eq_false hi, Bool.false_and, Nat.testBit_mod_two_pow, decide_eq_false hi, Bool.false_and]

/-- So it has in a register onto which the write is merged. -/
theorem elemAt_vmap_onto {k n : Nat} (old : VWord) (hn : b + z * n ≤ 128) (hk : k < n) (hp : part k = true) :
    elemAt ((vmap b z n part f).onto old) (8 * b) z k = f k % 2 ^ (8 * z) := by
  have hzk : z * k + z ≤ z * n := by rw [← Nat.mul_succ]; exact Nat.mul_le_mul_left z hk
  rw [← elemAt_vmap hn hk hp]
  apply Nat.eq_of_testBit_eq
  intro i
  rw [elemAt, elemAt, testBit_fld, testBit_fld, show 8 * b + 8 * z * k = 8 * (b + z * k) by rw [Nat.mul_add, Nat.mul_assoc]]
  by_cases hi : i < 8 * z
  · have hmask : (vmap b z n part f).mask.getLsbD ((8 * (b + z * k) + i) / 8) = true :=
      (getLsbD_vmap_mask (by omega) n).2 ⟨k, hk, hp, by omega, by omega⟩
    rw [VWrite.getLsbD_onto _ _ (by omega), hmask, if_pos rfl]
  · rw [decide_eq_false hi, Bool.false_and, Bool.false_and]

end vmap

/-- A byte outside a write's mask stays. -/
theorem VWrite.extractLsb'_onto (w : VWrite) (old : VWord) {j : Nat} (hj : j < 128) (hm : w.mask.getLsbD j = false) :
    (w.onto old).extractLsb' (8 * j) 8 = old.extractLsb' (8 * j) 8 := by
  ext i hi
  have hbyte : (8 * j + i) / 8 = j := by omega
  rw [BitVec.getElem_extractLsb', BitVec.getElem_extractLsb', VWrite.getLsbD_onto _ _ (by omega), hbyte, hm, if_neg Bool.false_ne_true]

/-- Settles O22, from the elements and the mask of a span's write. -/
theorem elementWrites : Obligations.ElementWrites := by
  unfold Obligations.ElementWrites
  intro b z n part f old _ hn
  exact ⟨fun k hk hp => ⟨elemAt_vmap hn hk hp, elemAt_vmap_onto old hn hk hp⟩, fun j hj => getLsbD_vmap_mask hj n,
    fun j hj hm => VWrite.extractLsb'_onto _ old hj hm⟩

end Sys2Proof.Machine
end

section
/-! SUPPORT. The integer operations of the vector slots (R169, R170). -/

namespace Sys2Proof.Machine

/-! ## What a V operation of one bundle completes with -/

section gives
variable {s : State} {i : Instr} {o : VOp} {lat : Nat}

/-- An operation whose plan asks no more than its encoding completes with the plan's effect. -/
theorem State.gives_of_plan {p : Plan} {f : State → State} (hexec : exec i s = s.single p)
    (hbase : { p with sr := false, eff := id } = s.base i) (heff : p.eff = f) : s.gives i f := by
  intro ha
  obtain ⟨slot, enc, priv, hold, out, csr, wait, val, addr, sr, lost, eff, fin⟩ := p
  obtain ⟨rfl, rfl, rfl, rfl, -, -, -, rfl, rfl, -, rfl, -, rfl⟩ := Plan.mk.inj hbase
  rw [hexec, State.single, State.run_issued ha rfl rfl rfl rfl rfl rfl rfl, heff]
  rfl

/-- An element-wise integer operation writes its elements. -/
theorem State.givesE_of_planInt {f g : Nat → Nat} (hexec : exec i s = s.single (s.planInt i o lat g)) (hg : ∀ k, g k = f k) :
    s.givesE i o lat f :=
  State.gives_of_plan hexec rfl (by rw [funext hg]; rfl)

/-- An element-wise operation with flags writes its elements, raises their flags and takes its SR step. -/
theorem State.givesR_of_planFlagged {sr : Bool} {f g : Nat → FRes} (hexec : exec i s = s.single (s.planFlagged i o lat sr g))
    (hg : ∀ k, g k = f k) : s.givesR i o lat sr f :=
  State.gives_of_plan hexec rfl (by rw [funext hg]; rfl)

end gives

/-! ## Elements as integers (R51, R52) -/

theorem sextNat_eq_toInt (n x : Nat) : sextNat n x = (BitVec.ofNat n x).toInt := by
  rw [BitVec.toInt_eq_msb_cond, BitVec.msb_eq_getLsbD_last, BitVec.toNat_ofNat, BitVec.getLsbD, BitVec.toNat_ofNat, sextNat]
  by_cases hn : n = 0
  · subst hn; simp [Nat.mod_one]
  · simp [hn]

theorem ElTy.val_eq (t : ElTy) (x : Nat) :
    ElTy.val t x = if t.signed then (BitVec.ofNat (8 * t.bytes) x).toInt else (x : Int) := by
  rw [ElTy.val, sextNat_eq_toInt]

/-- Signed or unsigned, an element is its bits modulo 2^N. -/
theorem ElTy.val_emod (t : ElTy) (x : Nat) : ElTy.val t x % (2 ^ (8 * t.bytes) : Nat) = x % (2 ^ (8 * t.bytes) : Nat) := by
  rw [ElTy.val_eq]
  split
  · rw [BitVec.toInt_eq_toNat_bmod, BitVec.toNat_ofNat, Int.bmod_emod, Int.natCast_emod, Int.emod_emod]
  · rfl

theorem wrap_eq_of_emod {n : Nat} {x : Int} {y : Nat} (h : x % (2 ^ n : Nat) = y % (2 ^ n : Nat)) : wrap n x = y % 2 ^ n := by
  rw [wrap, h, ← Int.natCast_emod, Int.toNat_natCast]

section integer
variable (t : ElTy) (a b c : Nat)

theorem wrap_val_add : wrap (8 * t.bytes) (ElTy.val t a + ElTy.val t b) = (a + b) % 2 ^ (8 * t.bytes) := by
  apply wrap_eq_of_emod
  rw [Int.add_emod, ElTy.val_emod, ElTy.val_emod, ← Int.add_emod, Int.natCast_add]

/-- The complement of an element to 2^N stands for its negative. -/
theorem wrap_val_sub (hb : b < 2 ^ (8 * t.bytes)) :
    wrap (8 * t.bytes) (ElTy.val t a - ElTy.val t b) = (a + (2 ^ (8 * t.bytes) - b)) % 2 ^ (8 * t.bytes) := by
  apply wrap_eq_of_emod
  have hcomplement : ((a + (2 ^ (8 * t.bytes) - b) : Nat) : Int) = (a : Int) - b + (2 ^ (8 * t.bytes) : Nat) := by omega
  rw [hcomplement, Int.add_emod_right, Int.sub_emod, ElTy.val_emod, ElTy.val_emod, ← Int.sub_emod]

theorem wrap_val_mul : wrap (8 * t.bytes) (ElTy.val t a * ElTy.val t b) = (a * b) % 2 ^ (8 * t.bytes) := by
  apply wrap_eq_of_emod
  rw [Int.mul_emod, ElTy.val_emod, ElTy.val_emod, ← Int.mul_emod, Int.natCast_mul]

theorem wrap_val_mad : wrap (8 * t.bytes) (ElTy.val t a * ElTy.val t b + ElTy.val t c) = (a * b + c) % 2 ^ (8 * t.bytes) := by
  apply wrap_eq_of_emod
  rw [Int.add_emod, Int.mul_emod, ElTy.val_emod, ElTy.val_emod, ElTy.val_emod, ← Int.mul_emod, ← Int.add_emod, Int.natCast_add,
    Int.natCast_mul]

theorem wrap_neg_val (ha : a < 2 ^ (8 * t.bytes)) : wrap (8 * t.bytes) (-ElTy.val t a) = (2 ^ (8 * t.bytes) - a) % 2 ^ (8 * t.bytes) := by
  have hzero : ElTy.val t 0 = 0 := by cases t <;> rfl
  have hsub := wrap_val_sub t 0 a ha
  rwa [hzero, Int.zero_sub, Nat.zero_add] at hsub

theorem eMulh_eq : eMulh t a b = wrap (8 * t.bytes) (ElTy.val t a * ElTy.val t b / (2 ^ (8 * t.bytes) : Nat)) := by
  rw [eMulh, Int.fdiv_eq_ediv_of_nonneg _ (Int.natCast_nonneg _)]

theorem eAvg_eq : eAvg t a b = wrap (8 * t.bytes) ((ElTy.val t a + ElTy.val t b + 1) / 2) := by
  rw [eAvg, Int.fdiv_eq_ediv_of_nonneg _ (by decide)]

theorem eMin_eq : eMin t a b = if ElTy.val t b < ElTy.val t a then b else a := by
  simp only [eMin, ← Int.not_lt, ite_not]

theorem eMax_eq : eMax t a b = if ElTy.val t b < ElTy.val t a then a else b := by
  simp only [eMax, ← Int.not_lt, ite_not]

/-- A saturating result: the value brought into the type's range, with SATD where that changes it (R169). -/
theorem satRes_eq (x : Int) : satRes t x =
    ⟨wrap (8 * t.bytes) (max (ElTy.minVal t) (min (ElTy.maxVal t) x)), 0, if x < ElTy.minVal t ∨ ElTy.maxVal t < x then mSATD else 0⟩ := by
  have hpow : 1 ≤ 2 ^ (8 * t.bytes - 1) ∧ 1 ≤ 2 ^ (8 * t.bytes) := ⟨Nat.one_le_two_pow, Nat.one_le_two_pow⟩
  have hle : ElTy.minVal t ≤ ElTy.maxVal t := by
    rw [ElTy.minVal, ElTy.maxVal]
    split <;> omega
  rw [satRes, ElTy.clamp]
  split
  next hlo => rw [Int.max_eq_left (by omega)]; simp [hlo]
  next hlo =>
    split
    next hhi => rw [Int.min_eq_left (by omega), Int.max_eq_right (by omega)]; simp [hhi]
    next hhi => rw [Int.min_eq_right (by omega), Int.max_eq_right (by omega)]; simp [hlo, hhi]

end integer

/-- Settles O23: each operation's plan, with its elements read as integers of the type. -/
theorem vectorIntegerResults : Obligations.VectorIntegerResults := by
  unfold Obligations.VectorIntegerResults
  intro o s
  have hA : ∀ k, s.elA o k < 2 ^ (8 * o.ty.bytes) := fun k => elemAt_lt _ _ _ _
  have hB : ∀ k, s.elB o k < 2 ^ (8 * o.ty.bytes) := fun k => elemAt_lt _ _ _ _
  simp only [← ElTy.val_eq]
  refine ⟨?vadd, ?vsub, ?vmul, ?vmulh, ?vmad, ?vabs, ?vneg, ?fabs, ?fneg, ?vmin, ?vmax, ?vadds, ?vsubs, ?vavg, ?vsad⟩
  case vadd => exact State.givesE_of_planInt rfl fun k => (wrap_val_add ..).symm
  case vsub => exact State.givesE_of_planInt rfl fun k => (wrap_val_sub _ _ _ (hB k)).symm
  case vmul => exact State.givesE_of_planInt rfl fun k => (wrap_val_mul ..).symm
  case vmulh => exact State.givesE_of_planInt rfl fun k => eMulh_eq ..
  case vmad => exact State.givesE_of_planInt rfl fun k => (wrap_val_mad ..).symm
  case vabs => exact fun ht => State.givesE_of_planInt (congrArg s.single (if_neg (Bool.eq_false_iff.1 ht))) fun k => rfl
  case vneg =>
    exact fun ht => State.givesE_of_planInt (congrArg s.single (if_neg (Bool.eq_false_iff.1 ht))) fun k => (wrap_neg_val _ _ (hA k)).symm
  case fabs => exact fun ht => State.givesE_of_planInt (congrArg s.single (if_pos ht)) fun k => rfl
  case fneg => exact fun ht => State.givesE_of_planInt (congrArg s.single (if_pos ht)) fun k => rfl
  case vmin => exact State.givesE_of_planInt rfl fun k => eMin_eq ..
  case vmax => exact State.givesE_of_planInt rfl fun k => eMax_eq ..
  case vadds => exact State.givesR_of_planFlagged rfl fun k => satRes_eq ..
  case vsubs => exact State.givesR_of_planFlagged rfl fun k => satRes_eq ..
  case vavg => exact State.givesE_of_planInt rfl fun k => eAvg_eq ..
  case vsad => exact State.givesE_of_planInt rfl fun k => rfl

end Sys2Proof.Machine
end

section
/-! SUPPORT. The bit operations, compares and predicate operations of the vector slots (R171, R172, R180 to R183). -/

namespace Sys2Proof.Machine

/-! ## Bitwise operations, shifts and counts (R171) -/

/-- NOT of an element is its complement to 2^N − 1. -/
theorem xor_two_pow_sub_one {n x : Nat} (hx : x < 2 ^ n) : x ^^^ (2 ^ n - 1) = 2 ^ n - 1 - x := by
  apply Nat.eq_of_testBit_eq
  intro i
  rw [Nat.sub_sub, Nat.add_comm 1 x, Nat.testBit_two_pow_sub_succ hx, Nat.testBit_xor, Nat.testBit_two_pow_sub_one]
  by_cases hi : i < n
  · simp [hi]
  · simp [hi, Nat.testBit_lt_two_pow (Nat.lt_of_lt_of_le hx (Nat.pow_le_pow_right (by decide) (Nat.not_lt.1 hi)))]

/-- The leading zeros of an N-bit number end at its highest one. -/
theorem clzNat_eq {n x : Nat} (hx : x < 2 ^ n) :
    clzNat n x = ((List.range n).find? fun j => x.testBit (n - 1 - j)).getD n := by
  rw [clzNat]
  split
  next h0 =>
    have hnone : (List.range n).find? (fun j => x.testBit (n - 1 - j)) = none := List.find?_eq_none.2 fun j _ => by simp [h0]
    rw [hnone, Option.getD_none]
  next h0 =>
    have hlog : x.log2 < n := (Nat.log2_lt h0).2 hx
    have hfirst : (List.range n).find? (fun j => x.testBit (n - 1 - j)) = some (n - 1 - x.log2) := by
      rw [List.find?_range_eq_some]
      refine ⟨?_, List.mem_range.2 (by omega), fun j hj => ?_⟩
      · rw [show n - 1 - (n - 1 - x.log2) = x.log2 by omega, Nat.testBit_log2 h0]
      · rw [Nat.testBit_lt_two_pow ((Nat.log2_lt h0).1 (show x.log2 < n - 1 - j by omega))]
        rfl
    rw [hfirst, Option.getD_some]

theorem popcNat_eq (n x : Nat) : popcNat n x = ((List.range n).filter fun j => x.testBit j).length := by
  induction n generalizing x with
  | zero => rfl
  | succ n ih =>
    have htail : (fun j => x.testBit j) ∘ Nat.succ = fun j => (x / 2).testBit j := funext fun j => Nat.testBit_succ x j
    rw [popcNat, ih, List.range_succ_eq_map, List.filter_cons, List.filter_map, htail, Nat.testBit_zero]
    rcases Nat.mod_two_eq_zero_or_one x with h | h <;> simp [h, Nat.add_comm]

theorem eSar_eq (t : ElTy) (a b : Nat) :
    eSar t a b = ((BitVec.ofNat (8 * t.bytes) a).sshiftRight (b % (8 * t.bytes))).toNat := by
  rw [eSar, sextNat_eq_toInt, Int.fdiv_eq_ediv_of_nonneg _ (Int.natCast_nonneg _), BitVec.sshiftRight_eq, BitVec.toNat_ofInt,
    Int.shiftRight_eq_div_pow, wrap]

/-! ## Fields (R172) -/

/-- A number sign-extended from its low bits. -/
theorem wrap_sextNat (n w x : Nat) : wrap n (sextNat w x) = ((BitVec.ofNat w x).signExtend n).toNat := by
  rw [sextNat_eq_toInt, BitVec.signExtend, BitVec.toNat_ofInt, wrap]

theorem testBit_wrap_sextNat {n w : Nat} (hw : 0 < w) (x : Nat) {j : Nat} (hj : j < n) :
    (wrap n (sextNat w x)).testBit j = if j < w then x.testBit j else x.testBit (w - 1) := by
  rw [wrap_sextNat, BitVec.testBit_toNat, BitVec.getLsbD_signExtend, BitVec.msb_eq_getLsbD_last, BitVec.getLsbD_ofNat,
    BitVec.getLsbD_ofNat, decide_eq_true hj, decide_eq_true (show w - 1 < w by omega)]
  by_cases h : j < w <;> simp [h]

theorem wrap_lt (n : Nat) (x : Int) : wrap n x < 2 ^ n := by
  have hpos : (0 : Int) < (2 ^ n : Nat) := Int.ofNat_lt.2 (Nat.two_pow_pos n)
  have hnonneg := Int.emod_nonneg x (Int.ne_of_gt hpos)
  have hlt := Int.emod_lt_of_pos x hpos
  rw [wrap]
  omega

section field
variable (t : ElTy) (a b c d : Nat)

theorem eBfx_eq : eBfx t a b c =
    if (fieldOf t b c).2 = 0 then 0
    else if t.signed then wrap (8 * t.bytes) (sextNat (fieldOf t b c).2 (a >>> (fieldOf t b c).1))
    else (a >>> (fieldOf t b c).1) % 2 ^ (fieldOf t b c).2 := rfl

/-- A field lies within its element. -/
theorem fieldOf_le : (fieldOf t b c).1 + (fieldOf t b c).2 ≤ 8 * t.bytes := by
  have hpos : 0 < 8 * t.bytes := by cases t <;> decide
  have hlsb := Nat.mod_lt b hpos
  simp only [fieldOf]
  omega

theorem testBit_eBfx (hw : 0 < (fieldOf t b c).2) {j : Nat} (hj : j < 8 * t.bytes) :
    (eBfx t a b c).testBit j = if j < (fieldOf t b c).2 then a.testBit ((fieldOf t b c).1 + j)
      else (t.signed && a.testBit ((fieldOf t b c).1 + (fieldOf t b c).2 - 1)) := by
  rw [eBfx_eq, if_neg (Nat.ne_of_gt hw)]
  cases t.signed with
  | true => rw [if_pos rfl, testBit_wrap_sextNat hw _ hj, Nat.testBit_shiftRight, Nat.testBit_shiftRight, Nat.add_sub_assoc hw, Bool.true_and]
  | false =>
    rw [if_neg Bool.false_ne_true, Nat.testBit_mod_two_pow, Nat.testBit_shiftRight, Bool.false_and]
    by_cases h : j < (fieldOf t b c).2 <;> simp [h]

theorem eBfx_lt : eBfx t a b c < 2 ^ (8 * t.bytes) := by
  have hle := fieldOf_le t b c
  rw [eBfx_eq]
  split
  · exact Nat.two_pow_pos _
  split
  · exact wrap_lt _ _
  · exact Nat.lt_of_lt_of_le (Nat.mod_lt _ (Nat.two_pow_pos _)) (Nat.pow_le_pow_right (by decide) (by omega))

theorem testBit_eBfi (j : Nat) : (eBfi t d a b c).testBit j =
    if (fieldOf t b c).1 ≤ j ∧ j < (fieldOf t b c).1 + (fieldOf t b c).2 then a.testBit (j - (fieldOf t b c).1) else d.testBit j := by
  have hparts : eBfi t d a b c = 2 ^ (fieldOf t b c).1 *
      (2 ^ (fieldOf t b c).2 * (d >>> ((fieldOf t b c).1 + (fieldOf t b c).2)) + a % 2 ^ (fieldOf t b c).2) + d % 2 ^ (fieldOf t b c).1 := by
    show d % 2 ^ (fieldOf t b c).1 + a % 2 ^ (fieldOf t b c).2 * 2 ^ (fieldOf t b c).1 +
      (d >>> ((fieldOf t b c).1 + (fieldOf t b c).2)) * 2 ^ ((fieldOf t b c).1 + (fieldOf t b c).2) = _
    rw [Nat.pow_add, Nat.mul_add, Nat.mul_comm (a % _), Nat.mul_comm (d >>> _), Nat.mul_assoc, Nat.add_assoc, Nat.add_comm,
      Nat.add_comm (2 ^ (fieldOf t b c).1 * _)]
  generalize (fieldOf t b c).1 = lsb, (fieldOf t b c).2 = w at hparts ⊢
  rw [hparts, Nat.testBit_two_pow_mul_add _ (Nat.mod_lt _ (Nat.two_pow_pos _)),
    Nat.testBit_two_pow_mul_add _ (Nat.mod_lt _ (Nat.two_pow_pos _)), Nat.testBit_mod_two_pow, Nat.testBit_mod_two_pow, Nat.testBit_shiftRight]
  by_cases hlo : j < lsb
  · simp [hlo, show ¬lsb ≤ j by omega]
  · by_cases hin : j - lsb < w
    · simp [hlo, hin, show lsb ≤ j by omega, show j < lsb + w by omega]
    · simp [hlo, hin, show ¬j < lsb + w by omega, show lsb + w + (j - lsb - w) = j by omega]

theorem eBfi_lt (hd : d < 2 ^ (8 * t.bytes)) : eBfi t d a b c < 2 ^ (8 * t.bytes) := by
  have hle := fieldOf_le t b c
  apply Nat.lt_pow_two_of_testBit
  intro j hj
  rw [testBit_eBfi, if_neg (by omega), Nat.testBit_lt_two_pow (Nat.lt_of_lt_of_le hd (Nat.pow_le_pow_right (by decide) hj))]

end field

/-- Settles O25, bit by bit. -/
theorem fieldOperations : Obligations.FieldOperations := by
  unfold Obligations.FieldOperations
  intro t a b c d N lsb w _ hd
  exact ⟨fun hw => if_pos hw, fun hw j hj => testBit_eBfx t a b c hw hj, eBfx_lt t a b c, fun j _ => testBit_eBfi t a b c d j,
    eBfi_lt t a b c d hd⟩

/-! ## Predicates (R127, R180 to R183) -/

/-- An element of at most four bytes lies in one lane, so it is written where it participates (R164). -/
theorem State.puts_eq_takes (s : State) (o : VOp) {t : ElTy} (ht : t.bytes ≠ 8) : s.puts o t = s.takes o t := by
  funext k
  simp [State.puts, State.takes, State.wrote, State.upper, ht]

/-- A truth table, bit by bit (R182). -/
theorem getLsbD_pLog (t : Nat) (a b : PWord) {j : Nat} (hj : j < 128) :
    (pLog t a b).getLsbD j = t.testBit (2 * (a.getLsbD j).toNat + (b.getLsbD j).toNat) := by
  have hif : ∀ (q : Bool) (x : PWord), (if q then x else 0).getLsbD j = (q && x.getLsbD j) := by
    intro q x
    cases q <;> simp
  simp only [pLog, BitVec.getLsbD_or, hif, BitVec.getLsbD_and, BitVec.getLsbD_not, hj, decide_true, Bool.true_and]
  cases a.getLsbD j <;> cases b.getLsbD j <;> simp

/-- Compares of integers raise no flag (R180). -/
theorem foldl_or_no_flag (l : List Nat) : l.foldl (fun (f : BitVec 5) _ => f ||| 0) 0 = 0 := by
  induction l with
  | nil => rfl
  | cons k l ih => exact ih

/-- Settles O24: each operation's plan, with its elements and predicate bits as the rules name them. -/
theorem vectorBitResults : Obligations.VectorBitResults := by
  unfold Obligations.VectorBitResults
  intro o s
  have hA : ∀ k, s.elA o k < 2 ^ (8 * o.ty.bytes) := fun k => elemAt_lt _ _ _ _
  have hB : ∀ k, s.elB o k < 2 ^ (8 * o.ty.bytes) := fun k => elemAt_lt _ _ _ _
  have hC : ∀ k, s.elC o k < 2 ^ (8 * o.ty.bytes) := fun k => elemAt_lt _ _ _ _
  refine ⟨?vand, ?vor, ?vxor, ?vandn, ?vshl, ?vshr, ?vsar, ?vclz, ?vpopc, ?vbsel, ?vbfx, ?vbfi, ?vcmpInt, ?vcmpFloat, ?vsel, ?vplog,
    ?vpcnt, ?vpfirst, ?vpany⟩
  case vand => exact State.givesE_of_planInt rfl fun k => rfl
  case vor => exact State.givesE_of_planInt rfl fun k => rfl
  case vxor => exact State.givesE_of_planInt rfl fun k => rfl
  case vandn => exact State.givesE_of_planInt rfl fun k => congrArg (s.elA o k &&& ·) (xor_two_pow_sub_one (hB k))
  case vshl => exact State.givesE_of_planInt rfl fun k => congrArg (· % 2 ^ (8 * o.ty.bytes)) (Nat.shiftLeft_eq _ _)
  case vshr => exact State.givesE_of_planInt rfl fun k => Nat.shiftRight_eq_div_pow _ _
  case vsar => exact State.givesE_of_planInt rfl fun k => eSar_eq ..
  case vclz => exact State.givesE_of_planInt rfl fun k => clzNat_eq (hA k)
  case vpopc => exact State.givesE_of_planInt rfl fun k => popcNat_eq ..
  case vbsel =>
    exact State.givesE_of_planInt rfl fun k => congrArg (fun m => s.elA o k &&& s.elC o k ||| s.elB o k &&& m) (xor_two_pow_sub_one (hC k))
  case vbfx => exact State.givesE_of_planInt rfl fun k => rfl
  case vbfi => exact State.givesE_of_planInt rfl fun k => rfl
  case vcmpInt =>
    rintro ht _ rfl
    refine State.gives_of_plan (p := planVcmp o s) rfl rfl ?_
    simp only [planVcmp, State.plan, ht, if_true, foldl_or_no_flag]
  case vcmpFloat =>
    intro ht
    refine State.gives_of_plan (p := planVcmp o s) rfl rfl ?_
    simp only [planVcmp, State.plan, ht, Bool.false_eq_true, if_false]
  case vsel => exact State.givesE_of_planInt rfl fun k => rfl
  case vplog =>
    refine ⟨pLog (o.sub 0 4) (s.srcP o.a) (s.srcP o.b), fun j hj => getLsbD_pLog _ _ _ hj, State.gives_of_plan (p := planVplog o s) rfl rfl ?_⟩
    simp only [planVplog, State.plan, State.elems, State.puts_eq_takes s o (t := .i8) (by decide)]
  case vpcnt => exact State.gives_of_plan (p := planVpcnt o s) rfl rfl rfl
  case vpfirst => exact State.gives_of_plan (p := planVpfirst o s) rfl rfl rfl
  case vpany => exact State.gives_of_plan (p := planVpany o s) rfl rfl rfl

end Sys2Proof.Machine
end

section
/-! SUPPORT. Reductions and scans of the vector slots (R190 to R193). -/

namespace Sys2Proof.Machine

/-! ## Combinations of the participating elements -/

theorem reduce_eq (n : Nat) (part : Nat → Bool) (f : Nat → Nat) (op : Nat → Nat → Nat) (unit_ : Nat) :
    reduce n part f op unit_ = (((List.range n).filter part).map f).foldl op unit_ := by
  rw [List.foldl_map, List.foldl_filter]
  rfl

/-- Wrapping every partial sum wraps the sum (R52). -/
theorem foldl_add_mod (m : Nat) (l : List Nat) : l.foldl (fun a b => (a + b) % m) 0 = l.sum % m := by
  have hfrom : ∀ (l : List Nat) (x : Nat), l.foldl (fun a b => (a + b) % m) (x % m) = (x + l.sum) % m := by
    intro l
    induction l with
    | nil => intro x; rfl
    | cons y l ih => intro x; rw [List.foldl_cons, Nat.mod_add_mod, ih, List.sum_cons, Nat.add_assoc]
  simpa using hfrom l 0

/-- What a scan writes to element k, by its operation (R193). -/
theorem scanElem_eq (t : ElTy) (op : Nat) (excl : Bool) (part : Nat → Bool) (f : Nat → Nat) (k : Nat) :
    scanElem t op excl part f k =
      (((List.range (if excl then k else k + 1)).filter part).map f).foldl (scanOp t op) (scanUnit t op) :=
  reduce_eq ..

section reductions
variable {s : State} {i : Instr} {o : VOp} {lat r r' : Nat} {ff : BitVec 5}

/-- A reduction writes its result to every element of the span. -/
theorem State.givesAll_of_planReduce (hexec : exec i s = s.single (s.planReduce i o lat r' ff)) (hr : r' = r) :
    s.givesAll i o lat r ff :=
  State.gives_of_plan hexec rfl (by rw [hr]; rfl)

theorem State.reduceInt_eq (s : State) (o : VOp) (op : Nat → Nat → Nat) (unit_ : Nat) :
    s.reduceInt o op unit_ = (((List.range (spanCount o o.ty.bytes)).filter (s.takes o o.ty)).map (s.elA o)).foldl op unit_ :=
  reduce_eq ..

/-- A reduction by integers completes with the fold of the participating elements. -/
theorem State.givesAll_of_reduceInt {op : Nat → Nat → Nat} {unit_ : Nat}
    (hexec : exec i s = s.single (s.planReduce i o lat (s.reduceInt o op unit_) 0)) :
    s.givesAll i o lat ((((List.range (spanCount o o.ty.bytes)).filter (s.takes o o.ty)).map (s.elA o)).foldl op unit_) 0 :=
  State.givesAll_of_planReduce hexec (s.reduceInt_eq o op unit_)

/-- `vredmin` and `vredmax` by the class of their type (R191). -/
theorem planVredmin_int (s : State) {o : VOp} (ht : o.ty.isFp = false) :
    planVredmin o s = s.planReduce (.vredmin o) o 6 (s.reduceInt o (eMin o.ty) (minUnit o.ty)) 0 := by
  rw [planVredmin, ht, if_neg Bool.false_ne_true]

theorem planVredmax_int (s : State) {o : VOp} (ht : o.ty.isFp = false) :
    planVredmax o s = s.planReduce (.vredmax o) o 6 (s.reduceInt o (eMax o.ty) (maxUnit o.ty)) 0 := by
  rw [planVredmax, ht, if_neg Bool.false_ne_true]

theorem planVredmin_fp (s : State) {o : VOp} (ht : o.ty.isFp = true) :
    planVredmin o s = s.planReduce (.vredmin o) o 6 (s.reducePick o false).bits (s.reducePick o false).ff := by
  rw [planVredmin, ht, if_pos rfl]

theorem planVredmax_fp (s : State) {o : VOp} (ht : o.ty.isFp = true) :
    planVredmax o s = s.planReduce (.vredmax o) o 6 (s.reducePick o true).bits (s.reducePick o true).ff := by
  rw [planVredmax, ht, if_pos rfl]

/-- `vredlog` by its sub-field. -/
theorem State.givesAll_vredlog (s : State) {o : VOp} {op : Nat} (hop : o.sub 0 2 = op) :
    s.givesAll (.vredlog o) o 6 ((((List.range (spanCount o o.ty.bytes)).filter (s.takes o o.ty)).map (s.elA o)).foldl (redLog op)
      (redLogUnit o.ty op)) 0 := by
  subst hop
  exact State.givesAll_of_reduceInt rfl

/-- `vscan` by its sub-fields. -/
theorem State.givesE_vscan (s : State) {o : VOp} {op : Nat} {excl : Bool} (hop : o.sub 0 2 = op) (hexcl : o.sub 2 1 = b2n excl) :
    s.givesE (.vscan o) o 6 fun k => (((List.range (if excl then k else k + 1)).filter (s.takes o o.ty)).map (s.elA o)).foldl
      (scanOp o.ty op) (scanUnit o.ty op) := by
  have hbit : (o.sub 2 1 == 1) = excl := by rw [hexcl]; cases excl <;> rfl
  subst hop hbit
  exact State.givesE_of_planInt rfl fun k => scanElem_eq ..

end reductions

/-- Settles O29: the folds of `reduce_eq` for the integer forms, the plans themselves for the floating-point ones. -/
theorem reductionResults : Obligations.ReductionResults := by
  unfold Obligations.ReductionResults
  intro o s M n v taken before lesser greater op
  refine ⟨?vredadd, ?vredmin, ?vredmax, ?fredmin, ?fredmax, ?and, ?or, ?xor, ?vscan, ?vfredadd⟩
  case vredadd => exact State.givesAll_of_planReduce rfl ((s.reduceInt_eq o _ _).trans (foldl_add_mod M taken))
  case vredmin => exact fun ht => State.givesAll_of_reduceInt (congrArg s.single (planVredmin_int s ht))
  case vredmax => exact fun ht => State.givesAll_of_reduceInt (congrArg s.single (planVredmax_int s ht))
  case fredmin => exact fun ht => State.givesAll_of_planReduce (congrArg s.single (planVredmin_fp s ht)) rfl
  case fredmax => exact fun ht => State.givesAll_of_planReduce (congrArg s.single (planVredmax_fp s ht)) rfl
  case and => exact fun hop => (s.givesAll_vredlog (op := 0) hop :)
  case or => exact fun hop => (s.givesAll_vredlog (op := 1) hop :)
  case xor => exact fun hop => (s.givesAll_vredlog (op := 2) hop :)
  case vscan =>
    intro excl hexcl
    refine ⟨fun hop => ?_, fun hop => (s.givesE_vscan (op := 1) hop hexcl :), fun hop => (s.givesE_vscan (op := 2) hop hexcl :)⟩
    have hsum := s.givesE_vscan (op := 0) hop hexcl
    have hfold : ∀ l : List Nat, l.foldl (scanOp o.ty 0) (scanUnit o.ty 0) = l.sum % M := foldl_add_mod M
    simp only [hfold] at hsum
    exact hsum
  case vfredadd =>
    intro f e part flush leaves nv sum out
    have hout : (match sum.1 with
      | none => FRes.pure 0
      | some x => match f.decode x with
        | .nan _ => FRes.pure f.nan
        | .inf a => FRes.pure (f.inf a)
        | v => f.ofVal { e with rm := 1 } 0 v) = out := by
      unfold out
      cases sum.1 with
      | none => rfl
      | some x =>
        dsimp only
        cases f.decode x <;> rfl
    refine State.gives_of_plan (p := planVfredadd o s) rfl rfl ?_
    rw [← hout]
    rfl

end Sys2Proof.Machine
end

section
/-! SUPPORT. Block quantisation (R177 to R179). -/

namespace Sys2Proof.Machine

/-- An operation whose operand values raise something raises it, once its encoding and its holds have passed (R118). -/
theorem State.single_raise {s : State} {i : Instr} {p : Plan} {r : Raise} (ha : s.admits i = true)
    (hbase : { p with val := none, sr := false, eff := id } = s.base i) (hval : p.val = some r) :
    s.single p = .next (s.raise s.iss.slot.code r) := by
  obtain ⟨slot, enc, priv, hold, out, csr, wait, val, addr, sr, lost, eff, fin⟩ := p
  obtain ⟨rfl, rfl, rfl, rfl, -, -, -, -, rfl, -, rfl, -, rfl⟩ := Plan.mk.inj hbase
  subst hval
  simp only [State.admits, State.opens, Bool.and_eq_true, Bool.not_eq_true'] at ha
  obtain ⟨⟨⟨hheader, hpops⟩, henc⟩, hhold⟩ := ha
  have hready : ((popped s.hdr).any fun q => (s.queue s.iss.st q).isEmpty) = false := by
    rw [List.any_eq_false]
    intro q hq
    simpa using List.all_eq_true.1 hpops q hq
  simp [State.single, State.run, State.verdict, hheader, henc, hhold, hready]

/-- The check of R179 passes with every thread in the issuing path. -/
theorem State.convCheck_whole {s : State} (h : s.iss.st.isWave = true → s.iss.lanes = BitVec.allOnes 32) : s.convCheck = none := by
  cases hw : s.iss.st.isWave with
  | false => simp [State.convCheck, hw]
  | true => simp [State.convCheck, h hw]

theorem State.convCheck_partial {s : State} (hw : s.iss.st.isWave = true) (hl : s.iss.lanes ≠ BitVec.allOnes 32) :
    s.convCheck = some (.service cCONV (s.iss.lanes.setWidth 64)) := by
  rw [State.convCheck, hw, Bool.true_and, if_pos (decide_eq_true hl)]

/-- A plan with the check of R179 is the operation's own where the check passes. -/
theorem State.base_of_convCheck {s : State} (i : Instr) (h : s.convCheck = none) : { s.base i with val := s.convCheck } = s.base i := by
  rw [h]
  rfl

/-- Settles O27: the plans of both operations, with the check of R179 passing or raising. -/
theorem blockQuantisation : Obligations.BlockQuantisation := by
  unfold Obligations.BlockQuantisation
  intro o s st x whole
  refine ⟨fun hwhole => ?vquant, fun hwhole => ?vdeq, fun i hi hwave hpart ha => ?partialPath⟩
  case vquant => exact State.gives_of_plan (p := planVquant o s) rfl (State.base_of_convCheck _ (State.convCheck_whole hwhole)) rfl
  case vdeq => exact State.gives_of_plan (p := planVdeq o s) rfl (State.base_of_convCheck _ (State.convCheck_whole hwhole)) rfl
  case partialPath =>
    have hcheck := State.convCheck_partial hwave hpart
    simp only [List.mem_cons, List.not_mem_nil, or_false] at hi
    rcases hi with rfl | rfl
    · exact State.single_raise (p := planVquant o s) ha rfl hcheck
    · exact State.single_raise (p := planVdeq o s) ha rfl hcheck

end Sys2Proof.Machine
end

section
/-! SUPPORT. Where an element of 8 bytes lies in two paths of a wave (R164): the counterexample to the statements that leave its upper
half out of what `vcvt` and `vins` write. -/

namespace Sys2Proof.Machine

/-- A wave whose threads 0 and 1 have diverged, issuing for thread 1: the upper half of element 0 lies in its path, the lower half does not. -/
def divergedWave : State :=
  { State.reset with
    streams := [(.wave 0 0, { Stream.launch with thr := { Stream.launch.thr with exist := 3, active := 3, regs := 16 } })]
    agenda := []
    iss := { Issue.none with st := .wave 0 0, lanes := 2, slot := .va } }

/-- V[0] of the wave after its bundle. -/
def v0After : Out → Option VWord
  | .next t => some ((t.stream (.wave 0 0)).readV 0)
  | _ => none

/-- `vcvt.i64.i64 v0, ones`: every element of the source is −1. -/
def cvtOnes : VOp := ⟨.i64, 2, 0, ⟨false, 0⟩, ⟨false, false, 0⟩, .ones, .zero, .zero, 0, false, 6⟩

/-- `vins.i64 v0, ones, zero`: −1 into element 0. -/
def insOnes : VOp := ⟨.i64, 2, 0, ⟨false, 0⟩, ⟨false, false, 0⟩, .ones, .zero, .zero, 0, false, 0⟩

/-- Both operations write the upper half of element 0. -/
theorem divergedWave_vcvt : divergedWave.admits (.vcvt cvtOnes) = true ∧
    v0After (exec (.vcvt cvtOnes) divergedWave) = some 0xFFFF_FFFF_0000_0000 := by decide +kernel

theorem divergedWave_vins : divergedWave.admits (.vins insOnes) = true ∧
    v0After (exec (.vins insOnes) divergedWave) = some 0xFFFF_FFFF_0000_0000 := by decide +kernel

/-- Refutes O26: `vcvt` writes the upper half of an element whose lower half lies in another path (R164); the statement writes the
participating elements alone. -/
theorem not_vectorFloatResults : ¬ Obligations.VectorFloatResults := by
  unfold Obligations.VectorFloatResults
  rintro ⟨hops, -⟩
  obtain ⟨-, -, -, -, -, -, -, -, -, -, -, -, -, -, hvcvt⟩ := hops cvtOnes divergedWave
  obtain ⟨hadmits, hwritten⟩ := divergedWave_vcvt
  have hclaim := congrArg v0After (hvcvt hadmits)
  exact absurd (hwritten.symm.trans hclaim) (by decide +kernel)

/-- Refutes O28: `vins` writes the upper half of an element whose lower half lies in another path (R164); the statement writes it only
where the element participates. -/
theorem not_permuteResults : ¬ Obligations.PermuteResults := by
  unfold Obligations.PermuteResults
  intro h
  obtain ⟨-, -, -, -, -, -, -, -, -, -, hvins, -⟩ := h insOnes divergedWave
  obtain ⟨hadmits, hwritten⟩ := divergedWave_vins
  have hclaim := congrArg v0After (hvins hadmits)
  exact absurd (hwritten.symm.trans hclaim) (by decide +kernel)

end Sys2Proof.Machine
end
